-- ==== Sys2Proof/Word.lean ====
section
/-! DEFINITION. The word types of the PB-44 and the plain names of its ports: bytes, order ids, unit
numbers, sequence numbers, station numbers, item codes and build positions. -/

namespace Sys2Proof

/-- One byte of the bench line or of the panel link. -/
abbrev Byte := BitVec 8

/-- An order id, 32 bits (R123, R202). -/
abbrev OrderId := BitVec 32

/-- A unit number, 0 to 65535; the allocator counts it up and goes round to 0 (R4). -/
abbrev UnitNo := BitVec 16

/-- A transfer sequence number, 0 to 255, rising round to 0 (R157). -/
abbrev Seq := BitVec 8

/-- A station number as the contention field carries it, 0 to 31; stations are 1 to 31 (R189). -/
abbrev Station := BitVec 5

/-- An item code: family 0 to 1023 and variant 0 to 63 (R1, R202). -/
structure ItemCode where
  family : BitVec 10
  variant : BitVec 6
  deriving DecidableEq, Repr

/-- The item code as the 16-bit number of its two wire bytes: bits 15 to 6 family, bits 5 to 0 variant (R202). -/
def ItemCode.word (c : ItemCode) : Nat := c.family.toNat * 64 + c.variant.toNat

/-- A build position, A to D (R23). -/
inductive Pos where
  | a | b | c | d
  deriving DecidableEq, Repr

/-- The positions in letter order. -/
def Pos.all : List Pos := [.a, .b, .c, .d]

/-- The position's number on the panel link, 0 to 3 (R203). -/
def Pos.index : Pos → Nat
  | .a => 0
  | .b => 1
  | .c => 2
  | .d => 3

/-- One value for each build position. -/
structure PerPos (α : Type) where
  a : α
  b : α
  c : α
  d : α
  deriving DecidableEq, Repr

/-- The value held for a position. -/
def PerPos.get {α : Type} (x : PerPos α) : Pos → α
  | .a => x.a
  | .b => x.b
  | .c => x.c
  | .d => x.d

/-- The same values with the one of a position replaced. -/
def PerPos.set {α : Type} (x : PerPos α) (p : Pos) (v : α) : PerPos α :=
  match p with
  | .a => { x with a := v }
  | .b => { x with b := v }
  | .c => { x with c := v }
  | .d => { x with d := v }

/-- One value at every position. -/
def PerPos.all {α : Type} (v : α) : PerPos α := ⟨v, v, v, v⟩

end Sys2Proof
end

