-- ==== Sys2Proof/Config.lean ====
section
/-! DEFINITION. The capacities and periods the manual fixes in the part, each under the rule that
states it. The part has no value left free: nothing here is opaque. -/

namespace Sys2Proof.Config

/-- Slots of the stock table (R5). -/
def tableSlots : Nat := 48
/-- Largest value, rate or unit value (R1, R96). -/
def maxValue : Nat := 999999
/-- Largest label weight in grams (R1). -/
def maxLabelWeight : Nat := 20000
/-- Saturation of the ordered and placed totals (R100). -/
def maxTotal : Nat := 16777215
/-- Largest exposure in seconds (R109). -/
def maxExposure : Nat := 65535
/-- Exclusion list of a build (R51). -/
def maxExclusion : Nat := 4
/-- A unit is heavy above this expected weight in grams (R56). -/
def heavyAbove : Nat := 1500
/-- A saturated load cell's reading in grams (R68). -/
def saturated : Nat := 6000
/-- The mark of a tray on the platform, grams (R40, R46, R71). -/
def trayMark : Nat := 100
/-- Movement, grams (R76). -/
def movement : Nat := 5
/-- The put limit, seconds (R73). -/
def putLimit : Nat := 90
/-- Notices in the notice list (R123). -/
def maxNotices : Nat := 32
/-- Frames waiting with CU (R129) and with XU (R146). -/
def maxWaiting : Nat := 16
/-- The release count at which an order is STRANDED (R123, R124). -/
def maxReleases : Nat := 3
/-- Offer list entries (R150). -/
def maxOffers : Nat := 16
/-- Age at which an offer leaves the list, seconds (R150). -/
def offerAge : Nat := 20
/-- Ask queue entries (R155). -/
def maxAsks : Nat := 8
/-- Outbound entries (R156) and expected entries (R160). -/
def maxTransfers : Nat := 8
/-- The ask wait, seconds (R151). -/
def askWait : Nat := 10
/-- Spacing of answering OFFERs, seconds (R149). -/
def offerSpacing : Nat := 5
/-- The receiver's transfer limit, seconds (R162). -/
def transferLimit : Nat := 180
/-- The offerer's limit, seconds (R164). -/
def writeOffLimit : Nat := 210
/-- Transmit queue frames (R197). -/
def maxQueue : Nat := 8
/-- Class 3 frames in the transmit queue (R197). -/
def maxClass3 : Nat := 5
/-- Receive buffer slots, the last for class 0 alone (R195). -/
def maxReceive : Nat := 12
/-- Contention faults in a row that isolate the station (R192). -/
def maxFaults : Nat := 3
/-- Claim suppression, seconds (R196). -/
def suppression : Nat := 15
/-- The join limit, seconds (R204). -/
def joinLimit : Nat := 5
/-- The roll period, seconds (R207). -/
def rollPeriod : Nat := 10
/-- Age at which a peer is absent, seconds (R208). -/
def peerAbsent : Nat := 30
/-- Records in the outbound panel buffer (R211). -/
def maxPanel : Nat := 16
/-- Longest frame body (R189). -/
def maxBody : Nat := 72

end Sys2Proof.Config
end

