-- ==== Sys2Proof/Syntax.lean ====
section
/-! DEFINITION. The commands of the PB-44: one constructor for each row of spec/opcode_table.json,
in the table's order, with the operands the row's event carries at the port. -/

namespace Sys2Proof

/-- The ten label bytes as fields, before any check (R203): the codes are still raw bytes. -/
structure RawLabel where
  code : ItemCode
  handling : Byte
  size : Byte
  pricing : Byte
  value : BitVec 24
  weight : BitVec 16
  deriving DecidableEq, Repr

/-- The readings of one platform's four load cells, in grams (R68). -/
structure Quad where
  c0 : Nat
  c1 : Nat
  c2 : Nat
  c3 : Nat
  deriving DecidableEq, Repr

/-- A contention field: class and sender (R189). -/
structure Contention where
  cls : BitVec 2
  station : Station
  deriving DecidableEq, Repr

/-- A moment of a contention (R191, R199): at an idle line the head of the transmit queue begins to
contend; later its whole field has been read back against the fields of the other nodes that contend. -/
inductive ContentionStage where
  | begins
  | decided (rivals : List Contention)
  deriving DecidableEq, Repr

/-- The commands. A frame command (`notice` to `go`) has no operand: the frame it hands over is the
first of its owner's frames in the hand-over sequence (R190). -/
inductive Instr where
  /-- POWER_ON_RESET: the station, positions and rate straps as sampled (R204). -/
  | powerOnReset (station : BitVec 5) (positions : BitVec 2) (rate : BitVec 2)
  /-- BENCH_RESET: a RESET record from the panel (R209). -/
  | benchReset
  /-- INTAKE_SCAN: a SCAN record of the intake scanner (R9). -/
  | intakeScan (label : RawLabel)
  /-- CHUTE_SCAN: a SCAN record of the chute scanner (R12). -/
  | chuteScan (label : RawLabel)
  /-- CONFIRM key (R78). -/
  | confirm (p : Pos)
  /-- REJECT key (R80, R175). -/
  | reject (p : Pos)
  /-- RESUME key (R174). -/
  | resume (p : Pos)
  /-- UNDO key (R176). -/
  | undo (p : Pos)
  /-- ABANDON key (R180). -/
  | abandon (p : Pos)
  /-- STOP_ASSERTED: a STOP record with input 1 (R182). -/
  | stopAsserted
  /-- STOP_RELEASED: a STOP record with input 0 (R182). -/
  | stopReleased
  /-- PANEL_RECORD_TIMEOUT: 10 ms after a start byte the record is not complete (R210). -/
  | panelRecordTimeout
  /-- SWEEP: the sixteen readings, platforms A to D (R68). -/
  | sweep (readings : PerPos Quad)
  /-- SLOT_RESERVED: an empty slot goes to the oldest waiting request (R14). -/
  | slotReserved
  /-- PUT_TIMEOUT: the put limit of a position has counted down to 0 (R81). -/
  | putTimeout (p : Pos)
  /-- EXACT_WAIT_EXPIRY: a line's exact wait has run out (R32); lines count from 0. -/
  | exactWaitExpiry (p : Pos) (line : Nat)
  /-- GATHER_LIMIT_EXPIRY: a build's gather limit has run out (R39). -/
  | gatherLimitExpiry (p : Pos)
  /-- CHILL_EXPIRY: a unit's exposure has reached the chill limit (R110). -/
  | chillExpiry (unit : UnitNo)
  /-- SURPLUS_REACHED: a FREE unit's free age has reached the surplus hold (R18). -/
  | surplusReached (unit : UnitNo)
  /-- OFFER_SECOND_LOOK: the look of every second (R148). -/
  | offerSecondLook
  /-- WANT_RETRY: refused WANTs are tried again (R152). -/
  | wantRetry
  /-- ASK_WAIT_EXPIRY: a line's ask wait has run out (R154). -/
  | askWaitExpiry (p : Pos) (line : Nat)
  /-- OFFER_ENTRY_AGED: an offer list entry is 20 s old (R150). -/
  | offerEntryAged (station : Station) (code : ItemCode)
  /-- TRANSFER_LIMIT: an arrival clock has reached 180 s (R162). -/
  | transferLimit (station : Station) (seq : Seq)
  /-- WRITE_OFF: an outbound entry's grant time has reached 210 s (R164). -/
  | writeOff (seq : Seq)
  /-- SUPPRESSION_EXPIRY: the suppression timer has run out (R196). -/
  | suppressionExpiry
  /-- JOIN_LIMIT_EXPIRY: the join limit has run out (R205). -/
  | joinLimitExpiry
  /-- ROLL_PERIOD_EXPIRY: the roll period has run out (R207). -/
  | rollPeriodExpiry
  /-- ROLL_RETRY: a refused periodic ROLL is offered again (R207). -/
  | rollRetry
  /-- PEER_ABSENT: a peer entry is 30 s old (R208). -/
  | peerAbsent (station : Station)
  /-- FRAME_RECEIVE: the bytes of a frame heard from another station (R193). -/
  | frameReceive (bytes : List Byte)
  /-- CONTENTION: at an idle line a contention begins, or it is decided against the fields the other
  nodes send (R191). -/
  | contention (stage : ContentionStage)
  /-- CONTENTION_FAULT: a bit of the started frame read back wrongly (R192). -/
  | contentionFault
  /-- OWN_FRAME_COMPLETE: the started frame completes (R194). -/
  | ownFrameComplete
  /-- TX_SPACE_GRANT: a freed transmit place goes to a waiting frame (R198). -/
  | txSpaceGrant
  /-- NOTICE handed to CU (R127). -/
  | notice
  /-- CLAIM handed to CU (R131). -/
  | claim
  /-- PRIOR handed to CU (R133). -/
  | prior
  /-- RELEASE handed to CU (R136). -/
  | release
  /-- DONE handed to CU (R139). -/
  | done
  /-- OFFER handed to XU (R150). -/
  | offer
  /-- WANT handed to XU (R149). -/
  | want
  /-- ASK handed to XU (R155). -/
  | ask
  /-- ASK_SERVE: the head of the ask queue is served (R156). -/
  | askServe
  /-- GRANT handed to XU (R158). -/
  | grant
  /-- TAKEN handed to XU (R163). -/
  | taken
  /-- ROLL handed to JC (R207). -/
  | roll
  /-- SETUP handed to JC (R206). -/
  | setup
  /-- HALT handed to HC (R183). -/
  | halt
  /-- GO handed to HC (R184). -/
  | go
  /-- OUTBOUND_RECORD_SENT: the last byte of the buffer's first record has been sent (R211). -/
  | outboundRecordSent
  /-- PANEL_RECORD_DISCARDED: bytes that arrive on the inbound panel link, among them those of a record
  that PL discards (R210). -/
  | panelRecordDiscarded (bytes : List Byte)
  deriving DecidableEq, Repr

end Sys2Proof
end

