-- ==== Sys2Proof/Machine/State.lean ====
section
/-! DEFINITION. The state of the PB-44: every record, list, counter, timer and mode the manual gives
its blocks, block by block, as plain data; the queue of waiting commands; and the state right after
power-on reset. -/

namespace Sys2Proof.Machine

/-! ### Units (SU, chapter 1) -/

/-- Handling class (R1). -/
inductive Handling where
  | ambient | chilled | fragile
  deriving DecidableEq, Repr

/-- Size class (R1, R54). -/
inductive SizeClass where
  | single | double | quad
  deriving DecidableEq, Repr

/-- Pricing (R1). -/
inductive Pricing where
  | fixed | byWeight
  deriving DecidableEq, Repr

/-- A label that has passed the check of R2. -/
structure Label where
  code : ItemCode
  handling : Handling
  size : SizeClass
  pricing : Pricing
  value : Nat
  weight : Nat
  deriving DecidableEq, Repr

/-- Where a unit came from (R3). -/
inductive Source where
  | loose
  | received (station : Station)
  deriving DecidableEq, Repr

/-- A unit record without the fields of its place (R3). `exposure` is present for CHILLED units
alone. `expired` is CC's record that the unit has expired (R110, R117). -/
structure UnitRec where
  number : UnitNo
  label : Label
  source : Source
  exposure : Option Nat
  expired : Bool
  deriving DecidableEq, Repr

/-- The state of a record in the stock table, with the fields that state has (R3, R6). -/
inductive ShelfState where
  | free (age : Nat)
  | earmarked (p : Pos) (line : Nat)
  | putting (p : Pos) (line : Nat)
  | returned
  deriving DecidableEq, Repr

/-- One slot of the stock table (R5). An empty slot remembers the GRANT that last emptied it while
that GRANT's outbound entry exists (R19, BLUE). -/
inductive Slot where
  | empty (grant : Option Seq)
  | reserved (p : Pos)
  | occupied (unit : UnitRec) (state : ShelfState)
  deriving DecidableEq, Repr

/-- Lamp colours (R203). -/
inductive Colour where
  | off | green | amber | red | blue
  deriving DecidableEq, Repr

/-- What a lamp shows: colour and mode (R203). -/
structure LampShow where
  colour : Colour
  flashing : Bool
  deriving DecidableEq, Repr

/-- The Stock Unit (R4, R5, R7, R14, R19, R20). -/
structure Stock where
  slots : List Slot
  earmarkOrder : List UnitNo
  lastNumber : UnitNo
  requests : List Pos
  amberSlot : Option Nat
  intakeLamp : Colour
  chuteLamp : Colour
  deriving DecidableEq, Repr

/-! ### Causes (VU and HC, chapters 5 and 9) -/

/-- A set of the five valuation causes (R92, R103, R104). -/
structure CauseSet where
  inexact : Bool
  clamped : Bool
  invalid : Bool
  bandLow : Bool
  bandHigh : Bool
  deriving DecidableEq, Repr

/-- The empty cause set. -/
def CauseSet.none : CauseSet := ⟨false, false, false, false, false⟩

/-- The fourteen build causes (R168). -/
inductive Cause where
  | scaleOverrange | chillExpired | orderGone | putRemoved | putMismatch | putTimeout | planFull
  | overweight | invalid | clamped | bandLow | bandHigh | inexact | gatherLate
  deriving DecidableEq, Repr

/-- The bench reports (R188). -/
inductive BenchReport where
  | tableFull | transferLate | writeOff | frameDropped | numberClash | refused | noticeDropped
  | badLabel | setupClamped
  deriving DecidableEq, Repr

/-! ### Orders and builds (CU and BE, chapters 2 and 7) -/

/-- Tray types (R53). -/
inductive TrayType where
  | large | medium | small
  deriving DecidableEq, Repr

/-- Substitution rules (R33). -/
inductive SubstRule where
  | none | family | cls
  deriving DecidableEq, Repr

/-- One order line as the notice gave it (R123). -/
structure OrderLine where
  code : ItemCode
  quantity : Nat
  value : Nat
  rule : SubstRule
  deriving DecidableEq, Repr

/-- The fields a notice has once it is no skeleton (R123); percentages as sent (R126). -/
structure NoticeInfo where
  rank : Nat
  tray : TrayType
  down : Nat
  up : Nat
  lines : List OrderLine
  deriving DecidableEq, Repr

/-- The state of a notice with its holder and link (R124); a MINE notice's holder is this station. -/
inductive NoticeState where
  | opened
  | marked (p : Pos)
  | mine (p : Pos)
  | others (holder : Station)
  | stranded
  | gone (p : Pos) (holder : Option Station)
  deriving DecidableEq, Repr

/-- One notice of the notice list (R123); a skeleton has no `info`. -/
structure Notice where
  order : OrderId
  info : Option NoticeInfo
  state : NoticeState
  count : Nat
  releasedByMe : Bool
  deriving DecidableEq, Repr

/-- Build states (R23). -/
inductive BuildState where
  | empty | claiming | gathering | putting | sealed | unloading | held
  deriving DecidableEq, Repr

/-- A line's exact wait (R24). -/
inductive ExactWait where
  | running (left : Nat)
  | expired
  deriving DecidableEq, Repr

/-- A line record (R24). `wantRefused` marks a line whose WANT the transmit queue refused (R152). -/
structure LineRec where
  item : OrderLine
  earmarked : Nat
  putting : Nat
  placed : Nat
  pendingAsk : Nat
  incoming : Nat
  exactWait : ExactWait
  wantSent : Bool
  wantRefused : Bool
  orderedClass : Option Handling
  deriving DecidableEq, Repr

/-- A plan entry (R23, R62); its mask is the decode of size class and start cell (R54). -/
structure PlanEntry where
  unit : UnitNo
  line : Nat
  size : SizeClass
  start : Nat
  index : Nat
  deriving DecidableEq, Repr

/-- A placed unit of a content list with its placement (R3) and the line it was put for (R37). -/
structure Placed where
  unit : UnitRec
  line : Nat
  start : Nat
  index : Nat
  weight : Int
  value : Nat
  deriving DecidableEq, Repr

/-- How an unloading ends (R49). -/
inductive UnloadReason where
  | release | silent
  deriving DecidableEq, Repr

/-- A build record (R23). `regatherDue` remembers that a line became uncovered while a put was
pending (R42, step 2). The gather limit and the exact waits run exactly while the build is
GATHERING (R32, R39). -/
structure Build where
  state : BuildState
  link : Option OrderId
  claimOrder : Option Nat
  lines : List LineRec
  plan : List PlanEntry
  trayWanted : Bool
  content : List Placed
  exclusion : List UnitNo
  tare : Option Nat
  gatherLeft : Option Nat
  unloadReason : Option UnloadReason
  regatherDue : Bool
  deriving DecidableEq, Repr

/-- The build record of an EMPTY position (R50, R52). -/
def Build.cleared : Build :=
  { state := .empty, link := none, claimOrder := none, lines := [], plan := [], trayWanted := false,
    content := [], exclusion := [], tare := none, gatherLeft := none, unloadReason := none,
    regatherDue := false }

/-- VU's records of one build (R103, R104). -/
structure Valuation where
  causes : CauseSet
  sticky : CauseSet
  deriving DecidableEq, Repr

/-! ### Weighing and puts (WF and PV, chapter 4) -/

/-- A platform's filter history, filtered values and OVERRANGE marks, oldest first (R69, R70). -/
structure Platform where
  grosses : List Nat
  filtered : List Nat
  overMarks : List Bool
  deriving DecidableEq, Repr

/-- The purpose of a removal (R73). -/
inductive Purpose where
  | undo | chill | unload
  deriving DecidableEq, Repr

/-- The kind of a pending operation (R73). -/
inductive OpKind where
  | put
  | removal (purpose : Purpose)
  deriving DecidableEq, Repr

/-- The phases of an operation (R73). -/
inductive Phase where
  | awaitBase | awaitMove | awaitSettle | settled | faulted
  deriving DecidableEq, Repr

/-- A put record that is not idle (R73).
`before` is the phase a fault interrupted, for the RESUME of SCALE_OVERRANGE (R82, R89).
`resuming` is set from the end of a suspension to the first stable reading after it (R88).
`failed` is set while a failed UNDO or CHILL removal waits for its new baseline (R86, R90).
`expiries` holds the held-back expiries in the order they came, with the number of the unit being
put at the place its own expiry had among them (R83, R117). -/
structure PutRec where
  kind : OpKind
  unit : UnitNo
  line : Nat
  pricing : Pricing
  refWeight : Int
  size : SizeClass
  start : Nat
  index : Nat
  expected : Int
  tolerance : Nat
  phase : Phase
  before : Phase
  baseline : Option Nat
  settledDelta : Option Int
  confirmMark : Bool
  limitLeft : Nat
  resuming : Bool
  failed : Bool
  expiries : List UnitNo
  deriving DecidableEq, Repr

/-! ### Holds (HC, chapter 9) -/

/-- The saved or next state of a hold (R169). -/
inductive SavedState where
  | gathering | putting | check | unloading
  deriving DecidableEq, Repr

/-- A removal started to resolve the primary cause (R169). -/
inductive Resolving where
  | none | undo | chill
  deriving DecidableEq, Repr

/-- A cause in a hold record and whether a check raised it (R169, R171). -/
structure HeldCause where
  cause : Cause
  byCheck : Bool
  deriving DecidableEq, Repr

/-- A hold record that is not clear (R169). `named` is the list of units CHILL_EXPIRED names,
primary or secondary (R118). -/
structure Hold where
  primary : HeldCause
  named : List UnitNo
  secondary : List HeldCause
  saved : SavedState
  savedIndex : Nat
  next : SavedState
  resolving : Resolving
  resumed : List Cause
  deriving DecidableEq, Repr

/-- The Hold Controller (R169, R182, R198). -/
structure HoldCtl where
  stopped : Bool
  localStop : Bool
  haltsWaiting : Nat
  holds : PerPos (Option Hold)
  deriving DecidableEq, Repr

/-! ### The bench line (LP, chapter 10) -/

/-- Frame kinds (R189, R202). -/
inductive Kind where
  | halt | go | claim | prior | release | done | ask | grant | taken | notice | offer | want | roll
  | setup
  deriving DecidableEq, Repr

/-- A NOTICE line as sent (R202). -/
structure WireLine where
  code : ItemCode
  quantity : Byte
  value : BitVec 24
  rule : Byte
  deriving DecidableEq, Repr

/-- A NOTICE body as sent (R202); its line count is the number of lines. -/
structure WireNotice where
  order : OrderId
  rank : Byte
  tray : Byte
  down : Byte
  up : Byte
  round : Byte
  lines : List WireLine
  deriving DecidableEq, Repr

/-- A SETUP body as sent (R202). -/
structure WireSetup where
  target : Byte
  mode : Byte
  chill : BitVec 16
  gather : BitVec 16
  exact : Byte
  surplus : BitVec 16
  mask : CauseSet
  auto : Byte
  deriving DecidableEq, Repr

/-- A frame by kind with its body's fields (R202). A GRANT's quantity is the number of its exposures. -/
inductive Frame where
  | halt
  | go
  | claim (order : OrderId)
  | prior (order : OrderId) (holder : Station)
  | release (order : OrderId)
  | done (order : OrderId) (flags : CauseSet) (total : BitVec 24) (weight : BitVec 16)
  | ask (offerer : Station) (code : ItemCode) (quantity : Byte)
  | grant (asker : Station) (seq : Seq) (code : ItemCode) (exposures : List (BitVec 16))
  | taken (offerer : Station) (seq : Seq) (received : Byte)
  | notice (body : WireNotice)
  | offer (code : ItemCode) (quantity : BitVec 16)
  | want (code : ItemCode) (quantity : Byte)
  | roll (fresh : Bool) (positions : Byte)
  | setup (body : WireSetup)
  deriving DecidableEq, Repr

/-- The frame that has started on the line, and whether it still holds its transmit queue place
(a bench reset or an isolation empties the queue, and the frame completes all the same: R200, R201). -/
structure Started where
  frame : Frame
  holdsPlace : Bool
  deriving DecidableEq, Repr

/-- The frame that is contending at this idle line, and whether a withdrawal of it is held until the
contention is decided (R191, R199). -/
structure Contending where
  frame : Frame
  withdrawn : Bool
  deriving DecidableEq, Repr

/-- A frame of the hand-over sequence (R190, R194, R195): its own mark, sender, kind and body. -/
structure Handed where
  own : Bool
  sender : Station
  kind : Kind
  body : List Byte
  deriving DecidableEq, Repr

/-- The Line Port (R191, R192, R195 to R197). `queue` holds the frames that have neither
started nor stand in a contention. The receive buffer is the part of `handover` that is not own. -/
structure LinePort where
  queue : List Frame
  contending : Option Contending
  started : Option Started
  handover : List Handed
  faults : Nat
  suppression : Option Nat
  deriving DecidableEq, Repr

/-- The Claim Unit (R123, R129). -/
structure ClaimUnit where
  notices : List Notice
  waiting : List Frame
  deriving DecidableEq, Repr

/-! ### The exchange (XU, chapter 8) -/

/-- An offer list entry (R150). -/
structure OfferEntry where
  station : Station
  code : ItemCode
  quantity : Nat
  age : Nat
  deriving DecidableEq, Repr

/-- An ask queue entry (R155). -/
structure AskEntry where
  asker : Station
  code : ItemCode
  quantity : Nat
  deriving DecidableEq, Repr

/-- An outbound entry (R156); its tag is this station's number with `seq`. -/
structure Outbound where
  seq : Seq
  dest : Station
  units : List UnitRec
  time : Nat
  deriving DecidableEq, Repr

/-- A build position and an order line (counted from 0). -/
structure LineRef where
  p : Pos
  line : Nat
  deriving DecidableEq, Repr

/-- An expected entry (R158). -/
structure Expected where
  source : Station
  seq : Seq
  code : ItemCode
  granted : Nat
  remaining : Nat
  exposures : List Nat
  clock : Nat
  link : Option LineRef
  deriving DecidableEq, Repr

/-- An ask record (R151). -/
structure AskRec where
  line : LineRef
  offerer : Station
  code : ItemCode
  quantity : Nat
  wait : Nat
  deriving DecidableEq, Repr

/-- An offer clock (R147). -/
structure OfferClock where
  code : ItemCode
  seconds : Nat
  deriving DecidableEq, Repr

/-- A frame of XU waiting for transmit space (R146); an ASK carries its line. -/
structure Waiting where
  frame : Frame
  line : Option LineRef
  deriving DecidableEq, Repr

/-- The Exchange Unit (R145 to R164). -/
structure Exchange where
  offers : List OfferEntry
  askQueue : List AskEntry
  outbound : List Outbound
  expected : List Expected
  asks : List AskRec
  clocks : List OfferClock
  waiting : List Waiting
  seq : Seq
  deriving DecidableEq, Repr

/-! ### Joining and the panel link (JC and PL, chapter 11) -/

/-- Station states (R205). -/
inductive StationState where
  | joining | active | isolated
  deriving DecidableEq, Repr

/-- Rounding modes (R92). -/
inductive Rounding where
  | nearestEven | nearestUp | down | up
  deriving DecidableEq, Repr

/-- The SETUP values in force (R206). -/
structure SetupValues where
  mode : Rounding
  chillLimit : Nat
  gatherLimit : Nat
  exactWait : Nat
  surplusHold : Nat
  holdMask : CauseSet
  autoConfirm : Bool
  deriving DecidableEq, Repr

/-- The power-on values (R206). -/
def SetupValues.powerOn : SetupValues :=
  { mode := .nearestEven, chillLimit := 1200, gatherLimit := 300, exactWait := 30, surplusHold := 60,
    holdMask := ⟨false, true, true, true, true⟩, autoConfirm := false }

/-- A peer table entry (R208). -/
structure Peer where
  station : Station
  age : Nat
  deriving DecidableEq, Repr

/-- The Join Controller (R204 to R208). `rollOwed` marks a periodic ROLL the queue refused (R207). -/
structure Join where
  state : StationState
  station : Station
  fitted : Nat
  rate : BitVec 2
  joinLeft : Option Nat
  setup : SetupValues
  rollLeft : Option Nat
  rollOwed : Bool
  peers : List Peer
  deriving DecidableEq, Repr

/-- What a POSITION record shows of a build (R26). -/
structure PosShow where
  state : BuildState
  k : Nat
  n : Nat
  primary : Option Cause
  deriving DecidableEq, Repr

/-- A lamp by group and index (R203). -/
inductive LampId where
  | shelf (index : Nat)
  | tray (p : Pos) (cell : Nat)
  | position (p : Pos)
  deriving DecidableEq, Repr

/-- A record to the panel board (R203, R211). -/
inductive PanelOut where
  | lamp (id : LampId) (show_ : LampShow)
  | position (p : Pos) (show_ : PosShow) (lost : Bool)
  | report (code : Nat) (p : Option Pos) (unit : Option UnitNo) (value : Nat)
  deriving DecidableEq, Repr

/-- One lamp of the panel: the value last sent or owed, and its owed mark (R211, R212). -/
structure LampCell where
  shown : LampShow
  owed : Bool
  deriving DecidableEq, Repr

/-- The POSITION record of one position: the value last sent or owed, and its owed mark. -/
structure PosCell where
  shown : PosShow
  owed : Bool
  deriving DecidableEq, Repr

/-- The Panel Link (R210 to R212). `lamps` holds the 86 lamps in group and index order: SHELF 0 to
49, TRAY-A to TRAY-D with 8 cells each, POSITION A to D. `inbound` is the record partly read. -/
structure Panel where
  buffer : List PanelOut
  lamps : List LampCell
  positions : PerPos PosCell
  reportsLost : Bool
  inbound : List Byte
  deriving DecidableEq, Repr

/-! ### The whole machine -/

/-- Why a command stops the machine. The manual describes no such stop: every fault of a put, cause
of a build and bench report is an effect on the state, so this type has no member, and no command of
the model ends in a fault. -/
inductive Fault
  deriving DecidableEq, Repr

/-- Why a command is refused by the model. -/
inductive Refusal where
  /-- The command has no meaning in the model yet; raised by the dispatch alone, and safe. No arm of
  the dispatch raises it now. -/
  | notModelled (mnemonic : String)
  deriving DecidableEq, Repr

/-- The state of the PB-44 and the queue of the commands that wait, first in, first out. -/
structure State where
  jc : Join
  hc : HoldCtl
  lp : LinePort
  cu : ClaimUnit
  su : Stock
  be : PerPos Build
  claimCounter : Nat
  wf : PerPos Platform
  pv : PerPos (Option PutRec)
  vu : PerPos Valuation
  xu : Exchange
  pl : Panel
  pending : List Instr
  deriving DecidableEq, Repr

/-! ### Reset values of the blocks -/

/-- A lamp that is OFF. -/
def LampShow.dark : LampShow := ⟨.off, false⟩

/-- The POSITION value of an EMPTY build (R26). -/
def PosShow.empty : PosShow := ⟨.empty, 0, 0, none⟩

/-- SU after either reset (R22). -/
def Stock.reset : Stock :=
  { slots := List.replicate Config.tableSlots (.empty none), earmarkOrder := [], lastNumber := 65535#16,
    requests := [], amberSlot := none, intakeLamp := .off, chuteLamp := .off }

/-- WF's record of one platform after either reset (R72). -/
def Platform.reset : Platform := ⟨[], [], []⟩

/-- VU's records of one build after either reset (R108). -/
def Valuation.reset : Valuation := ⟨.none, .none⟩

/-- XU after power-on reset (R167); a bench reset keeps the sequence number. -/
def Exchange.reset : Exchange :=
  { offers := [], askQueue := [], outbound := [], expected := [], asks := [], clocks := [], waiting := [],
    seq := 0#8 }

/-- LP after either reset (R201), but for a frame that has started. -/
def LinePort.reset : LinePort :=
  { queue := [], contending := none, started := none, handover := [], faults := 0, suppression := none }

/-- HC after power-on reset (R182). -/
def HoldCtl.reset : HoldCtl :=
  { stopped := false, localStop := false, haltsWaiting := 0, holds := .all none }

/-- JC after a power-on reset with the given straps (R204, R206). -/
def Join.powerOn (station : Station) (positions rate : BitVec 2) : Join :=
  let bench := decide (1 ≤ station.toNat) && decide (station.toNat ≤ 28)
  { state := if bench then .joining else .isolated
    station := station
    fitted := positions.toNat + 1
    rate := rate
    joinLeft := if bench then some Config.joinLimit else none
    setup := .powerOn
    rollLeft := none
    rollOwed := false
    peers := [] }

/-- The state right after power-on reset. The straps are outside the part: station 1, four positions
and rate code 0 are a DESIGN CHOICE (log 1). JOINING, the fresh ROLL in the transmit queue (R204,
R207), every block cleared, and PL's buffer filled with the first sixteen of its owed items: the four
POSITION records showing EMPTY and the OFF of the first twelve slot lamps (R212, log 12). -/
def State.reset : State :=
  { jc := .powerOn 1#5 3#2 0#2
    hc := .reset
    lp := { LinePort.reset with queue := [.roll true 4#8] }
    cu := ⟨[], []⟩
    su := .reset
    be := .all .cleared
    claimCounter := 0
    wf := .all .reset
    pv := .all none
    vu := .all .reset
    xu := .reset
    pl :=
      { buffer := Pos.all.map (fun p => .position p .empty false)
          ++ (List.range 12).map (fun i => .lamp (.shelf i) .dark)
        lamps := List.replicate 12 ⟨.dark, false⟩ ++ List.replicate 74 ⟨.dark, true⟩
        positions := .all ⟨.empty, false⟩
        reportsLost := false
        inbound := [] }
    pending := [] }

end Sys2Proof.Machine
end

