-- ==== Sys2Proof/Machine/Flags.lean ====
section
/-! DEFINITION. Valuation arithmetic: rounding, unit values and the causes they raise (R93 to R96),
totals, bands and the check's causes (R99 to R102), and the sets of causes. -/

namespace Sys2Proof.Machine

/-- The members of either set. -/
def CauseSet.union (x y : CauseSet) : CauseSet :=
  ⟨x.inexact || y.inexact, x.clamped || y.clamped, x.invalid || y.invalid, x.bandLow || y.bandLow,
    x.bandHigh || y.bandHigh⟩

/-- The members of both sets; with the hold mask, the causes that go to HC (R105). -/
def CauseSet.inter (x y : CauseSet) : CauseSet :=
  ⟨x.inexact && y.inexact, x.clamped && y.clamped, x.invalid && y.invalid, x.bandLow && y.bandLow,
    x.bandHigh && y.bandHigh⟩

/-- The rounded value of quotient q and remainder r in thousandths (R95). -/
def roundValue (m : Rounding) (q r : Nat) : Nat :=
  match m with
  | .nearestEven =>
    if r < 500 then q else if 500 < r then q + 1 else if q % 2 = 0 then q else q + 1
  | .nearestUp => if r < 500 then q else q + 1
  | .down => q
  | .up => if r = 0 then q else q + 1

/-- A value with the causes its valuation raises. -/
structure Valued where
  value : Nat
  causes : CauseSet
  deriving DecidableEq, Repr

/-- The value of a WEIGHT unit at a rate and a weight in grams (R94 to R96). -/
def valueByWeight (m : Rounding) (rate : Nat) (grams : Int) : Valued :=
  if rate = 0 ∨ grams ≤ 0 then ⟨0, { CauseSet.none with invalid := true }⟩
  else
    let raw := rate * grams.toNat
    let v := roundValue m (raw / 1000) (raw % 1000)
    ⟨min v Config.maxValue,
      { CauseSet.none with inexact := decide (raw % 1000 ≠ 0), clamped := decide (Config.maxValue < v) }⟩

/-- The value of a unit at a weight (R93, R94). -/
def valueUnit (m : Rounding) (l : Label) (grams : Int) : Valued :=
  match l.pricing with
  | .fixed => ⟨l.value, .none⟩
  | .byWeight => valueByWeight m l.value grams

/-- The substitute estimate: the value at the label weight, without causes (R98). -/
def estimate (m : Rounding) (l : Label) : Nat := (valueUnit m l l.weight).value

/-- A percentage above 50 is used as 50 (R99, R126). -/
def usedPercent (p : Nat) : Nat := min p 50

/-- The low end of a band: V × (100 − d) / 100 rounded up (R99, R101). -/
def bandLow (v d : Nat) : Nat := (v * (100 - usedPercent d) + 99) / 100

/-- The high end of a band: V × (100 + u) / 100 rounded down (R99, R101). -/
def bandHigh (v u : Nat) : Nat := v * (100 + usedPercent u) / 100

/-- A saturating total and whether it saturated (R100). -/
def saturate (t : Nat) : Nat := min t Config.maxTotal

/-- What a check finds (R100 to R102). -/
structure CheckResult where
  total : Nat
  low : Nat
  high : Nat
  causes : CauseSet
  deriving DecidableEq, Repr

/-- The check of the true ordered total and the true placed total with the notice's percentages. -/
def checkTotals (ordered placed d u : Nat) : CheckResult :=
  let t := saturate ordered
  let s := saturate placed
  let low := bandLow t d
  let high := bandHigh t u
  { total := s
    low := low
    high := high
    causes :=
      { CauseSet.none with
        clamped := decide (Config.maxTotal < ordered) || decide (Config.maxTotal < placed)
        bandLow := decide (s < low)
        bandHigh := decide (high < s) } }

end Sys2Proof.Machine
end

