-- ==== Sys2Proof/Machine/Operands.lean ====
section
/-! DEFINITION. The operand forms of the two ports: the label check (R2), the frame layouts of R202
with their check (R189), and the panel records of R203 with PL's reading of inbound bytes (R210). -/

namespace Sys2Proof.Machine

/-! ### Labels -/

/-- Handling class codes (R203). -/
def Handling.ofCode (b : Byte) : Option Handling :=
  if b = 1#8 then some .ambient else if b = 2#8 then some .chilled
  else if b = 3#8 then some .fragile else none

/-- Size class codes (R203). -/
def SizeClass.ofCode (b : Byte) : Option SizeClass :=
  if b = 1#8 then some .single else if b = 2#8 then some .double
  else if b = 3#8 then some .quad else none

/-- Pricing codes (R203). -/
def Pricing.ofCode (b : Byte) : Option Pricing :=
  if b = 1#8 then some .fixed else if b = 2#8 then some .byWeight else none

/-- The label check: the label, or the number of the first failing field (R2). -/
def checkLabel (raw : RawLabel) : Except Nat Label :=
  match Handling.ofCode raw.handling with
  | none => .error 1
  | some h =>
    match SizeClass.ofCode raw.size with
    | none => .error 2
    | some z =>
      match Pricing.ofCode raw.pricing with
      | none => .error 3
      | some pr =>
        if Config.maxValue < raw.value.toNat then .error 4
        else if raw.weight.toNat = 0 ∨ Config.maxLabelWeight < raw.weight.toNat then .error 5
        else .ok { code := raw.code, handling := h, size := z, pricing := pr,
                   value := raw.value.toNat, weight := raw.weight.toNat }

/-! ### Bytes -/

/-- Two bytes, most significant first (R202). -/
def bytes2 (x : BitVec 16) : List Byte := [x.extractLsb' 8 8, x.extractLsb' 0 8]

/-- Three bytes, most significant first. -/
def bytes3 (x : BitVec 24) : List Byte :=
  [x.extractLsb' 16 8, x.extractLsb' 8 8, x.extractLsb' 0 8]

/-- Four bytes, most significant first. -/
def bytes4 (x : BitVec 32) : List Byte :=
  [x.extractLsb' 24 8, x.extractLsb' 16 8, x.extractLsb' 8 8, x.extractLsb' 0 8]

/-- The number of two bytes. -/
def word2 (a b : Byte) : BitVec 16 := a ++ b

/-- The number of three bytes. -/
def word3 (a b c : Byte) : BitVec 24 := a ++ b ++ c

/-- The number of four bytes. -/
def word4 (a b c d : Byte) : BitVec 32 := a ++ b ++ c ++ d

/-- The two bytes of an item code: family in bits 15 to 6, variant in bits 5 to 0 (R202). -/
def codeBytes (c : ItemCode) : List Byte := bytes2 (c.family ++ c.variant)

/-- The item code of two bytes. -/
def codeOf (a b : Byte) : ItemCode :=
  ⟨(word2 a b).extractLsb' 6 10, (word2 a b).extractLsb' 0 6⟩

/-- A cause set's byte: bit 0 INEXACT to bit 4 BAND_HIGH, bits 5 to 7 sent as 0 (R202). -/
def CauseSet.toByte (c : CauseSet) : Byte :=
  0#3 ++ BitVec.ofBool c.bandHigh ++ BitVec.ofBool c.bandLow ++ BitVec.ofBool c.invalid
    ++ BitVec.ofBool c.clamped ++ BitVec.ofBool c.inexact

/-- The cause set of a byte; bits 5 to 7 are not read (R202). -/
def CauseSet.ofByte (b : Byte) : CauseSet :=
  ⟨b.getLsbD 0, b.getLsbD 1, b.getLsbD 2, b.getLsbD 3, b.getLsbD 4⟩

/-- The station field of a body: present when 1 to 31 (R193). -/
def stationOf (b : Byte) : Option Station :=
  if 1 ≤ b.toNat ∧ b.toNat ≤ 31 then some (b.setWidth 5) else none

/-- A station's byte. -/
def stationByte (k : Station) : Byte := k.setWidth 8

/-! ### Frame kinds -/

/-- Kind codes (R202). -/
def Kind.code : Kind → Byte
  | .halt => 1#8
  | .go => 2#8
  | .claim => 16#8
  | .prior => 17#8
  | .release => 18#8
  | .done => 19#8
  | .ask => 32#8
  | .grant => 33#8
  | .taken => 34#8
  | .notice => 48#8
  | .offer => 49#8
  | .want => 50#8
  | .roll => 51#8
  | .setup => 52#8

/-- All kinds. -/
def Kind.all : List Kind :=
  [.halt, .go, .claim, .prior, .release, .done, .ask, .grant, .taken, .notice, .offer, .want, .roll,
    .setup]

/-- The kind of a kind code, if it names one (R193). -/
def Kind.ofCode (b : Byte) : Option Kind := Kind.all.find? (fun k => k.code == b)

/-- The class a kind fixes (R189). -/
def Kind.cls : Kind → Nat
  | .halt | .go => 0
  | .claim | .prior | .release | .done => 1
  | .ask | .grant | .taken => 2
  | .notice | .offer | .want | .roll | .setup => 3

/-- The owners of received frames (R190). -/
inductive Owner where
  | cu | xu | jc | hc
  deriving DecidableEq, Repr

/-- The owner of a kind (R190). -/
def Kind.owner : Kind → Owner
  | .notice | .claim | .prior | .release | .done => .cu
  | .offer | .want | .ask | .grant | .taken => .xu
  | .roll | .setup => .jc
  | .halt | .go => .hc

/-- A frame's kind. -/
def Frame.kind : Frame → Kind
  | .halt => .halt
  | .go => .go
  | .claim _ => .claim
  | .prior _ _ => .prior
  | .release _ => .release
  | .done _ _ _ _ => .done
  | .ask _ _ _ => .ask
  | .grant _ _ _ _ => .grant
  | .taken _ _ _ => .taken
  | .notice _ => .notice
  | .offer _ _ => .offer
  | .want _ _ => .want
  | .roll _ _ => .roll
  | .setup _ => .setup

/-- A frame's class (R189). -/
def Frame.cls (f : Frame) : Nat := f.kind.cls

/-! ### Frame bodies (R202) -/

/-- The seven bytes of a NOTICE line. -/
def WireLine.bytes (l : WireLine) : List Byte :=
  codeBytes l.code ++ [l.quantity] ++ bytes3 l.value ++ [l.rule]

/-- A frame's body. -/
def Frame.body : Frame → List Byte
  | .halt => []
  | .go => []
  | .claim o => bytes4 o
  | .prior o h => bytes4 o ++ [stationByte h]
  | .release o => bytes4 o
  | .done o fl t w => bytes4 o ++ [fl.toByte] ++ bytes3 t ++ bytes2 w
  | .ask k c q => [stationByte k] ++ codeBytes c ++ [q]
  | .grant k n c es =>
    [stationByte k, n] ++ codeBytes c ++ [BitVec.ofNat 8 es.length] ++ es.flatMap bytes2
  | .taken k n r => [stationByte k, n, r]
  | .notice b =>
    bytes4 b.order ++ [b.rank, b.tray, b.down, b.up, b.round, BitVec.ofNat 8 b.lines.length]
      ++ b.lines.flatMap WireLine.bytes
  | .offer c q => codeBytes c ++ bytes2 q
  | .want c q => codeBytes c ++ [q]
  | .roll fr n => [if fr then 1#8 else 0#8, n]
  | .setup b =>
    [b.target, b.mode] ++ bytes2 b.chill ++ bytes2 b.gather ++ [b.exact] ++ bytes2 b.surplus
      ++ [b.mask.toByte, b.auto]

/-- The lines of a NOTICE body, seven bytes each; none when the bytes do not divide so. -/
def readLines : List Byte → Option (List WireLine)
  | [] => some []
  | a :: b :: q :: v2 :: v1 :: v0 :: r :: rest =>
    (readLines rest).map (⟨codeOf a b, q, word3 v2 v1 v0, r⟩ :: ·)
  | _ => none

/-- The exposures of a GRANT body, two bytes each. -/
def readExposures : List Byte → Option (List (BitVec 16))
  | [] => some []
  | a :: b :: rest => (readExposures rest).map (word2 a b :: ·)
  | _ => none

/-- The frame of a kind and a body, when the body has the length of its kind and passes the checks
every owner makes: station fields 1 to 31, and a ROLL's fresh flag 0 or 1 (R193, R202). -/
def Frame.ofBody : Kind → List Byte → Option Frame
  | .halt, [] => some .halt
  | .go, [] => some .go
  | .claim, [a, b, c, d] => some (.claim (word4 a b c d))
  | .prior, [a, b, c, d, h] => (stationOf h).map (.prior (word4 a b c d))
  | .release, [a, b, c, d] => some (.release (word4 a b c d))
  | .done, [a, b, c, d, fl, t2, t1, t0, w1, w0] =>
    some (.done (word4 a b c d) (.ofByte fl) (word3 t2 t1 t0) (word2 w1 w0))
  | .ask, [k, c1, c0, q] => (stationOf k).map (.ask · (codeOf c1 c0) q)
  | .grant, k :: n :: c1 :: c0 :: q :: rest =>
    match stationOf k, readExposures rest with
    | some k, some es => if es.length = q.toNat then some (.grant k n (codeOf c1 c0) es) else none
    | _, _ => none
  | .taken, [k, n, r] => (stationOf k).map (.taken · n r)
  | .notice, a :: b :: c :: d :: rank :: tray :: down :: up :: round :: count :: rest =>
    match readLines rest with
    | some ls =>
      if ls.length = count.toNat then some (.notice ⟨word4 a b c d, rank, tray, down, up, round, ls⟩)
      else none
    | none => none
  | .offer, [c1, c0, q1, q0] => some (.offer (codeOf c1 c0) (word2 q1 q0))
  | .want, [c1, c0, q] => some (.want (codeOf c1 c0) q)
  | .roll, [fr, n] =>
    if fr = 0#8 then some (.roll false n) else if fr = 1#8 then some (.roll true n) else none
  | .setup, [t, m, c1, c0, g1, g0, e, s1, s0, mask, au] =>
    some (.setup ⟨t, m, word2 c1 c0, word2 g1 g0, e, word2 s1 s0, .ofByte mask, au⟩)
  | _, _ => none

/-! ### Codes of a NOTICE and of a SETUP -/

/-- Tray type codes (R202). -/
def TrayType.code : TrayType → Byte
  | .large => 1#8
  | .medium => 2#8
  | .small => 3#8

/-- The tray type of a code. -/
def TrayType.ofCode (b : Byte) : Option TrayType :=
  [TrayType.large, .medium, .small].find? (fun t => decide (t.code = b))

/-- Substitution rule codes (R202). -/
def SubstRule.code : SubstRule → Byte
  | .none => 0#8
  | .family => 1#8
  | .cls => 2#8

/-- The substitution rule of a code. -/
def SubstRule.ofCode (b : Byte) : Option SubstRule :=
  [SubstRule.none, .family, .cls].find? (fun r => decide (r.code = b))

/-- Rounding mode codes 0 to 3 (R202); above 3 is taken as 3, UP (R206). -/
def Rounding.ofCode (b : Byte) : Rounding :=
  if b = 0#8 then .nearestEven else if b = 1#8 then .nearestUp else if b = 2#8 then .down else .up

/-- An order line as a NOTICE carries it, when it passes the checks of R126. -/
def WireLine.check (l : WireLine) : Option OrderLine :=
  match SubstRule.ofCode l.rule with
  | some r =>
    if 1 ≤ l.quantity.toNat ∧ l.quantity.toNat ≤ 4 ∧ l.value.toNat ≤ Config.maxValue then
      some ⟨l.code, l.quantity.toNat, l.value.toNat, r⟩
    else none
  | none => none

/-- The lines of a NOTICE, when every one passes. -/
def checkLines : List WireLine → Option (List OrderLine)
  | [] => some []
  | l :: ls => match l.check, checkLines ls with
    | some x, some xs => some (x :: xs)
    | _, _ => none

/-- The check of R126: the notice's fields, or nothing where CU discards the frame. -/
def WireNotice.check (b : WireNotice) : Option NoticeInfo :=
  match checkLines b.lines, TrayType.ofCode b.tray with
  | some ls, some t =>
    if 1 ≤ b.lines.length ∧ b.lines.length ≤ 8 ∧ b.rank.toNat ≤ 7 then
      some ⟨b.rank.toNat, t, b.down.toNat, b.up.toNat, ls⟩
    else none
  | _, _ => none

/-- The round of a NOTICE, above 3 taken as 3 (R126). -/
def WireNotice.count (b : WireNotice) : Nat := min b.round.toNat 3

/-! ### The check and the whole frame -/

/-- One bit of the cyclic check with generator x^16 + x^12 + x^5 + 1 (R189). -/
def crcBit (r : BitVec 16) : BitVec 16 :=
  if r.getLsbD 15 then (r <<< 1) ^^^ 0x1021#16 else r <<< 1

/-- One byte of the check, most significant bit first. -/
def crcByte (r : BitVec 16) (b : Byte) : BitVec 16 :=
  crcBit (crcBit (crcBit (crcBit (crcBit (crcBit (crcBit (crcBit (r ^^^ (b ++ 0#8)))))))))

/-- The check of the bytes from the contention field to the end of the body: register preset to all
ones, no inversion at the end (R189). -/
def crc (bytes : List Byte) : BitVec 16 := bytes.foldl crcByte 0xFFFF#16

/-- The contention field's byte: class in bits 7 to 6, bit 5 zero, sender in bits 4 to 0 (R202). -/
def contentionByte (cls : Nat) (sender : Station) : Byte := BitVec.ofNat 2 cls ++ 0#1 ++ sender

/-- Header and body of a frame. -/
def Frame.header (sender : Station) (f : Frame) : List Byte :=
  [contentionByte f.cls sender, f.kind.code, BitVec.ofNat 8 f.body.length] ++ f.body

/-- The bytes a frame is sent as: header, body and check (R189, R202). -/
def Frame.wire (sender : Station) (f : Frame) : List Byte :=
  f.header sender ++ bytes2 (crc (f.header sender))

/-- The test of R193 on the bytes of a frame heard from another station: the sender, kind and body
of a frame that passes. Bit 5 of the contention field and bytes beyond the check are not read (log 9). -/
def readFrame : List Byte → Option Handed
  | cf :: kc :: len :: rest =>
    let n := len.toNat
    match Kind.ofCode kc, (rest.drop n).take 2 with
    | some k, [h, l] =>
      let sender : Station := cf.extractLsb' 0 5
      if n ≤ Config.maxBody ∧ sender ≠ 0#5 ∧ (cf.extractLsb' 6 2).toNat = k.cls
          ∧ word2 h l = crc (cf :: kc :: len :: rest.take n) then
        some ⟨false, sender, k, rest.take n⟩
      else none
    | _, _ => none
  | _ => none

/-! ### Panel records (R203, R210) -/

/-- An inbound panel record that PL passes on. -/
inductive PanelIn where
  | scan (intake : Bool) (label : RawLabel)
  | key (p : Pos) (action : Nat)
  | stop (asserted : Bool)
  | reset
  deriving DecidableEq, Repr

/-- The position of a KEY record's position byte. -/
def posOf (b : Byte) : Option Pos := Pos.all.find? (fun p => p.index == b.toNat)

/-- The body of an inbound record of a kind, or nothing where R210 discards it. -/
def readPanelBody (kind : Byte) : List Byte → Option PanelIn
  | [sc, c1, c0, h, z, pr, v2, v1, v0, w1, w0] =>
    if kind = 1#8 then
      let label : RawLabel := ⟨codeOf c1 c0, h, z, pr, word3 v2 v1 v0, word2 w1 w0⟩
      if sc = 1#8 then some (.scan true label) else if sc = 2#8 then some (.scan false label) else none
    else none
  | [p, a] =>
    if kind = 2#8 ∧ 1 ≤ a.toNat ∧ a.toNat ≤ 5 then (posOf p).map (.key · a.toNat) else none
  | [i] =>
    if kind = 3#8 then
      if i = 1#8 then some (.stop true) else if i = 0#8 then some (.stop false) else none
    else none
  | [] => if kind = 4#8 then some .reset else none
  | _ => none

/-- The body length of an inbound kind, if the kind is one (R203, R210). -/
def panelLength (kind : Byte) : Option Nat :=
  if kind = 1#8 then some 11 else if kind = 2#8 then some 2
  else if kind = 3#8 then some 1 else if kind = 4#8 then some 0 else none

/-- PL takes one inbound byte after the bytes of the record partly read: the bytes now partly read, and
the record that the byte completes, if it passes (R210). Waiting for a record, PL skips every byte but a
start byte of 126. Kind and length are judged once both are read, the body once it is whole; a record
that is discarded leaves PL waiting for a start byte. DESIGN CHOICE: the moment of the judgement (log 26). -/
def panelFeed (part : List Byte) (b : Byte) : List Byte × Option PanelIn :=
  match part with
  | [] => (if b = 126#8 then [b] else [], none)
  | [start] => ([start, b], none)
  | [start, kind] =>
    if panelLength kind ≠ some b.toNat then ([], none)
    else if b = 0#8 then ([], readPanelBody kind [])
    else ([start, kind, b], none)
  | start :: kind :: len :: body =>
    if body.length + 1 < len.toNat then (start :: kind :: len :: (body ++ [b]), none)
    else ([], readPanelBody kind (body ++ [b]))

/-- PL's reading of inbound bytes: the records that pass, in arrival order, and the bytes partly read at
the end (R210). -/
def panelRead : List Byte → List Byte → List PanelIn × List Byte
  | part, [] => ([], part)
  | part, b :: bytes =>
    let (now, done) := panelFeed part b
    let (recs, rest) := panelRead now bytes
    (done.toList ++ recs, rest)

/-- Build cause codes, which are also the priorities (R168). -/
def Cause.code : Cause → Nat
  | .scaleOverrange => 1
  | .chillExpired => 2
  | .orderGone => 3
  | .putRemoved => 4
  | .putMismatch => 5
  | .putTimeout => 6
  | .planFull => 7
  | .overweight => 8
  | .invalid => 9
  | .clamped => 10
  | .bandLow => 11
  | .bandHigh => 12
  | .inexact => 13
  | .gatherLate => 14

/-- Bench report codes (R188). -/
def BenchReport.code : BenchReport → Nat
  | .tableFull => 32
  | .transferLate => 33
  | .writeOff => 34
  | .frameDropped => 35
  | .numberClash => 36
  | .refused => 37
  | .noticeDropped => 38
  | .badLabel => 39
  | .setupClamped => 40

/-- Colour codes (R203). -/
def Colour.code : Colour → Nat
  | .off => 0
  | .green => 1
  | .amber => 2
  | .red => 3
  | .blue => 4

/-- Build state codes of a POSITION record (R203). -/
def BuildState.code : BuildState → Nat
  | .empty => 0
  | .claiming => 1
  | .gathering => 2
  | .putting => 3
  | .sealed => 4
  | .unloading => 5
  | .held => 6

/-- A lamp's group and index bytes (R203). -/
def LampId.bytes : LampId → List Nat
  | .shelf i => [0, i]
  | .tray p i => [p.index + 1, i]
  | .position p => [5, p.index]

/-- A yes-or-no byte. -/
def flagByte (b : Bool) : Nat := if b then 1 else 0

/-- The body bytes of an outbound record (R203). -/
def PanelOut.body : PanelOut → List Byte
  | .lamp id sh =>
    (id.bytes ++ [sh.colour.code, flagByte sh.flashing]).map (BitVec.ofNat 8)
  | .position p sh lost =>
    [p.index, sh.state.code, sh.k, sh.n, (sh.primary.map Cause.code).getD 0, flagByte lost].map
      (BitVec.ofNat 8)
  | .report code p u v =>
    [BitVec.ofNat 8 code, BitVec.ofNat 8 (flagByte p.isSome + 2 * flagByte u.isSome),
      BitVec.ofNat 8 ((p.map Pos.index).getD 0)] ++ bytes2 (u.getD 0#16)
      ++ bytes4 (BitVec.ofNat 32 v)

/-- The kind byte of an outbound record (R203). -/
def PanelOut.kindByte : PanelOut → Byte
  | .lamp _ _ => 17#8
  | .position _ _ _ => 18#8
  | .report _ _ _ _ => 19#8

/-- The bytes an outbound record is sent as: start byte, kind, length, body (R203). -/
def PanelOut.bytes (r : PanelOut) : List Byte :=
  [126#8, r.kindByte, BitVec.ofNat 8 r.body.length] ++ r.body

end Sys2Proof.Machine
end

