-- ==== Sys2Proof/Machine/Ops.lean ====
section
/-! DEFINITION. The named reads and updates of the state that every block's rules use: one update
for each block and for each position's record, reads of lines, units, slots and notices. -/

namespace Sys2Proof.Machine

/-! ### Updates -/

/-- The state with JC replaced. -/
def State.setJc (s : State) (v : Join) : State := { s with jc := v }
/-- The state with HC replaced. -/
def State.setHc (s : State) (v : HoldCtl) : State := { s with hc := v }
/-- The state with LP replaced. -/
def State.setLp (s : State) (v : LinePort) : State := { s with lp := v }
/-- The state with CU replaced. -/
def State.setCu (s : State) (v : ClaimUnit) : State := { s with cu := v }
/-- The state with SU replaced. -/
def State.setSu (s : State) (v : Stock) : State := { s with su := v }
/-- The state with XU replaced. -/
def State.setXu (s : State) (v : Exchange) : State := { s with xu := v }
/-- The state with PL replaced. -/
def State.setPl (s : State) (v : Panel) : State := { s with pl := v }
/-- The state with a build record replaced. -/
def State.setBuild (s : State) (p : Pos) (v : Build) : State := { s with be := s.be.set p v }
/-- The state with the claim counter replaced. -/
def State.setCounter (s : State) (v : Nat) : State := { s with claimCounter := v }
/-- The state with a platform's record replaced. -/
def State.setPlatform (s : State) (p : Pos) (v : Platform) : State := { s with wf := s.wf.set p v }
/-- The state with a put record replaced; none is idle. -/
def State.setPut (s : State) (p : Pos) (v : Option PutRec) : State := { s with pv := s.pv.set p v }
/-- The state with VU's record of a build replaced. -/
def State.setVal (s : State) (p : Pos) (v : Valuation) : State := { s with vu := s.vu.set p v }
/-- The state with a hold record replaced; none is clear. -/
def State.setHold (s : State) (p : Pos) (v : Option Hold) : State :=
  { s with hc := { s.hc with holds := s.hc.holds.set p v } }

/-- The build record of a position. -/
def State.build (s : State) (p : Pos) : Build := s.be.get p
/-- The put record of a position. -/
def State.put (s : State) (p : Pos) : Option PutRec := s.pv.get p
/-- The hold record of a position. -/
def State.hold (s : State) (p : Pos) : Option Hold := s.hc.holds.get p

/-- The fitted positions in letter order (R23, R204). -/
def State.fittedPos (s : State) : List Pos := Pos.all.take s.jc.fitted

/-- Whether a position is fitted. -/
def State.isFitted (s : State) (p : Pos) : Bool := decide (p.index < s.jc.fitted)

/-- The production gate of XU (R146). -/
def State.gateOpen (s : State) : Bool := decide (s.jc.state = .active) && !s.hc.stopped

/-! ### Lists -/

/-- The value of the first member that has one. -/
def firstSome {α β : Type} (f : α → Option β) : List α → Option β
  | [] => none
  | x :: xs => match f x with
    | some y => some y
    | none => firstSome f xs

/-- Insertion behind every member that does not come strictly after it. -/
def insertBy {α : Type} (before : α → α → Bool) (x : α) : List α → List α
  | [] => [x]
  | y :: ys => if before x y then x :: y :: ys else y :: insertBy before x ys

/-- A stable sort by a strict order. -/
def sortBy {α : Type} (before : α → α → Bool) (xs : List α) : List α :=
  xs.foldl (fun acc x => insertBy before x acc) []

/-- The member at the given place changed. -/
def updateAt {α : Type} (f : α → α) : Nat → List α → List α
  | _, [] => []
  | 0, x :: xs => f x :: xs
  | n + 1, x :: xs => x :: updateAt f n xs

/-- The list without its first member that satisfies the test. -/
def dropFirst {α : Type} (test : α → Bool) : List α → List α
  | [] => []
  | x :: xs => if test x then xs else x :: dropFirst test xs

/-- The members with their places, counted from the given number. -/
def numbered {α : Type} : Nat → List α → List (Nat × α)
  | _, [] => []
  | n, x :: xs => (n, x) :: numbered (n + 1) xs

/-! ### Lines and builds (chapter 2) -/

/-- A line's held units: earmarked, putting and placed (R24). -/
def LineRec.heldUnits (l : LineRec) : Nat := l.earmarked + l.putting + l.placed

/-- A line's uncovered quantity (R24). -/
def LineRec.uncovered (l : LineRec) : Nat := l.item.quantity - l.heldUnits

/-- A line's uncommitted quantity (R24). -/
def LineRec.uncommitted (l : LineRec) : Nat := l.uncovered - (l.pendingAsk + l.incoming)

/-- Whether a line's exact wait is RUNNING. -/
def LineRec.waitRunning (l : LineRec) : Bool :=
  match l.exactWait with
  | .running _ => true
  | .expired => false

/-- Whether every line of a build is covered (R24). -/
def Build.covered (b : Build) : Bool := b.lines.all (fun l => l.uncovered == 0)

/-- The sum of a build's line quantities: put n of a POSITION record (R26). -/
def Build.total (b : Build) : Nat := (b.lines.map (fun l => l.item.quantity)).sum

/-- Whether a build is eligible for matching: GATHERING, or PUTTING with an uncovered line (R34). -/
def Build.eligible (b : Build) : Bool :=
  match b.state with
  | .gathering => true
  | .putting => !b.covered
  | _ => false

/-- The last unit of a build's content list. -/
def Build.lastPlaced (b : Build) : Option Placed := b.content.getLast?

/-- The state with one line record of a build changed. -/
def State.modLine (s : State) (p : Pos) (i : Nat) (f : LineRec → LineRec) : State :=
  s.setBuild p { s.build p with lines := updateAt f i (s.build p).lines }

/-- The line record at a place. -/
def State.line? (s : State) (r : LineRef) : Option LineRec := (s.build r.p).lines[r.line]?

/-- The fitted positions whose builds hold claim orders, smallest claim order first (R25, R34). -/
def State.byClaimOrder (s : State) : List Pos :=
  let having := s.fittedPos.filterMap (fun p => (s.build p).claimOrder.map (fun c => (c, p)))
  (sortBy (fun x y => decide (x.1 < y.1)) having).map (·.2)

/-- Whether a position has a put pending (R41, R73). -/
def State.putPending (s : State) (p : Pos) : Bool :=
  match s.put p with
  | some r => decide (r.kind = .put)
  | none => false

/-- Whether a build counts as UNLOADING for CU: UNLOADING, or HELD with that saved state (R181). -/
def State.countsUnloading (s : State) (p : Pos) : Bool :=
  decide ((s.build p).state = .unloading) ||
    (decide ((s.build p).state = .held) &&
      match s.hold p with
      | some h => decide (h.saved = .unloading)
      | none => false)

/-! ### The stock table (chapter 1) -/

/-- Whether a slot is empty. -/
def Slot.isEmpty : Slot → Bool
  | .empty _ => true
  | _ => false

/-- Whether a slot is reserved for a position. -/
def Slot.isReservedFor (p : Pos) : Slot → Bool
  | .reserved q => decide (q = p)
  | _ => false

/-- The unit of a slot in state FREE. -/
def Slot.freeUnit : Slot → Option UnitRec
  | .occupied u (.free _) => some u
  | _ => none

/-- The unit of an occupied slot. -/
def Slot.unit? : Slot → Option UnitRec
  | .occupied u _ => some u
  | _ => none

/-- Whether a slot's unit is FREE and of a code. -/
def Slot.isFreeOf (c : ItemCode) (x : Slot) : Bool :=
  match x.freeUnit with
  | some u => decide (u.label.code = c)
  | none => false

/-- The lowest-numbered empty slot (R5). -/
def Stock.lowestEmpty (su : Stock) : Option Nat := su.slots.findIdx? Slot.isEmpty

/-- The slot that holds a unit number. -/
def Stock.slotOf (su : Stock) (u : UnitNo) : Option Nat :=
  su.slots.findIdx? (fun x => match x.unit? with
    | some r => decide (r.number = u)
    | none => false)

/-- The slot reserved for a position (R14). -/
def Stock.reservedSlot (su : Stock) (p : Pos) : Option Nat := su.slots.findIdx? (Slot.isReservedFor p)

/-- SU's count of FREE units of a code (R18). -/
def Stock.freeCount (su : Stock) (c : ItemCode) : Nat := su.slots.countP (Slot.isFreeOf c)

/-- The slot at a number. -/
def Stock.slot (su : Stock) (i : Nat) : Slot := (su.slots[i]?).getD (.empty none)

/-- The state with one slot replaced. -/
def State.setSlot (s : State) (i : Nat) (x : Slot) : State :=
  s.setSu { s.su with slots := s.su.slots.set i x }

/-- A unit number leaves the earmark order (R7). -/
def State.dropEarmark (s : State) (u : UnitNo) : State :=
  s.setSu { s.su with earmarkOrder := s.su.earmarkOrder.filter (fun v => decide (v ≠ u)) }

/-- Offer clocks of codes without a FREE unit are removed (R147). -/
def State.pruneClocks (s : State) : State :=
  s.setXu { s.xu with clocks := s.xu.clocks.filter (fun c => decide (0 < s.su.freeCount c.code)) }

/-- Whether a unit is CHILLED with an exposure at or above the chill limit (R10, R14, R15). -/
def State.overLimit (s : State) (u : UnitRec) : Bool :=
  match u.exposure with
  | some e => decide (s.jc.setup.chillLimit ≤ e)
  | none => false

/-- Every unit record the station holds: table, content lists and outbound list (R3, R4). -/
def State.allUnits (s : State) : List UnitRec :=
  s.su.slots.filterMap Slot.unit?
    ++ (Pos.all.map (fun p => (s.build p).content.map (·.unit))).flatten
    ++ (s.xu.outbound.map (·.units)).flatten

/-- The first number from a start that is not held; the fuel is the list of the numbers held. -/
def firstNotHeld (held : List UnitNo) : List UnitNo → UnitNo → UnitNo
  | [], n => n
  | _ :: fuel, n => if held.contains n then firstNotHeld held fuel (n + 1#16) else n

/-- The number the allocator gives next (R4). -/
def State.nextNumber (s : State) : UnitNo :=
  let held := s.allUnits.map (·.number)
  firstNotHeld held held (s.su.lastNumber + 1#16)

/-! ### Notices (chapter 7) -/

/-- The notice of an order id. -/
def State.notice? (s : State) (o : OrderId) : Option Notice :=
  s.cu.notices.find? (fun n => decide (n.order = o))

/-- The state with the notice of an order id changed in its place. -/
def State.modNotice (s : State) (o : OrderId) (f : Notice → Notice) : State :=
  s.setCu { s.cu with notices := s.cu.notices.map (fun n => if n.order = o then f n else n) }

/-- The notice of an order id leaves the list. -/
def State.removeNotice (s : State) (o : OrderId) : State :=
  s.setCu { s.cu with notices := s.cu.notices.filter (fun n => decide (n.order ≠ o)) }

/-- The notice a build works: its tray type and percentages (R53, R101). -/
def State.infoOf (s : State) (p : Pos) : Option NoticeInfo :=
  match (s.build p).link with
  | some o => (s.notice? o).bind (·.info)
  | none => none

/-! ### Platforms (chapter 4) -/

/-- The latest filtered value, if one exists (R69). -/
def Platform.filteredValue (w : Platform) : Option Nat :=
  if w.grosses.length < 4 then none else w.filtered.getLast?

/-- The stable reading, if the platform is stable (R70). -/
def Platform.stable (w : Platform) : Option Nat :=
  match w.filtered with
  | [] => none
  | x :: xs =>
    let hi := xs.foldl max x
    let lo := xs.foldl min x
    if w.filtered.length = 10 ∧ hi - lo ≤ 2 ∧ w.overMarks.all (! ·) then w.filtered.getLast? else none

/-- The stable reading of a position's platform. -/
def State.stable (s : State) (p : Pos) : Option Nat := (s.wf.get p).stable

end Sys2Proof.Machine
end

