-- ==== Sys2Proof/Machine/Panel.lean ====
section
/-! DEFINITION. What the panel shows (lamps: R19 to R21, R26, R90; POSITION records: R26), HC's report
path (R187) and PL's outbound buffer with its owed marks (R211, R212). -/

namespace Sys2Proof.Machine

/-- The cells of a placement: the run from the start cell, of length 1, 2 or 4 (R54). -/
def cellMask (z : SizeClass) (start : Nat) : List Nat :=
  match z with
  | .single => [start]
  | .double => [start, start + 1]
  | .quad => [start, start + 1, start + 2, start + 3]

/-! ### Lamp values -/

/-- A steady lamp. -/
def LampShow.steady (c : Colour) : LampShow := ⟨c, false⟩
/-- A flashing lamp. -/
def LampShow.flash (c : Colour) : LampShow := ⟨c, true⟩

/-- A slot lamp: the first row of R19 that applies; while STOPPED only the RED flashing ones (R21). -/
def slotLamp (stopped : Bool) (amber : Option Nat) (i : Nat) : Slot → LampShow
  | .occupied _ .returned => .flash .red
  | .occupied _ st =>
    if stopped then .dark
    else match st with
      | .putting _ _ => .steady .green
      | _ => if amber = some i then .steady .amber else .dark
  | .reserved _ => if stopped then .dark else .flash .amber
  | .empty g => if stopped then .dark else if g.isSome then .steady .blue else .dark

/-- A scanner lamp (R20, R21). -/
def scannerLamp (stopped : Bool) (c : Colour) : LampShow := if stopped then .dark else .steady c

/-- The SHELF group, indices 0 to 49. -/
def State.shelfLamps (s : State) : List LampShow :=
  (numbered 0 s.su.slots).map (fun x => slotLamp s.hc.stopped s.su.amberSlot x.1 x.2)
    ++ [scannerLamp s.hc.stopped s.su.intakeLamp, scannerLamp s.hc.stopped s.su.chuteLamp]

/-- Whether a hold suspends a pending operation: a put or an UNLOAD removal of a HELD build (R89). -/
def State.heldSuspends (s : State) (p : Pos) (r : PutRec) : Bool :=
  decide ((s.build p).state = .held) && decide (r.kind = .put ∨ r.kind = .removal .unload)

/-- Whether a cell lies under a placed unit that CHILL_EXPIRED names and whose own removal is not
pending (R90, first row; log 13). -/
def State.namedCell (s : State) (p : Pos) (cell : Nat) : Bool :=
  match s.hold p with
  | none => false
  | some h =>
    (s.build p).content.any (fun x =>
      h.named.contains x.unit.number && (cellMask x.unit.label.size x.start).contains cell &&
        match s.put p with
        | some r => !(decide (r.unit = x.unit.number) && decide (r.kind ≠ .put))
        | none => true)

/-- Whether a cell lies under a placed unit that a CHILL_EXPIRED the build holds names (R88). -/
def State.underNamed (s : State) (p : Pos) (cell : Nat) : Bool :=
  match s.hold p with
  | none => false
  | some h => (s.build p).content.any (fun x =>
      h.named.contains x.unit.number && (cellMask x.unit.label.size x.start).contains cell)

/-- A TRAY lamp while the bench is not STOPPED: the first row of R90 that applies. -/
def State.trayRow (s : State) (p : Pos) (cell : Nat) : LampShow :=
  if s.namedCell p cell then .flash .red
  else match s.put p with
    | none => .dark
    | some r =>
      if (cellMask r.size r.start).contains cell then
        if r.phase = .faulted ∨ s.heldSuspends p r then .steady .amber
        else match r.kind with
          | .removal _ => if r.failed && decide (r.phase = .awaitBase) then .flash .red else .steady .red
          | .put => if r.phase = .settled then .flash .green else .steady .green
      else .dark

/-- A TRAY lamp; while STOPPED it is OFF, but for the RED flashing cells of the units that a
CHILL_EXPIRED names, which stay lit (R88, R90). -/
def State.trayLamp (s : State) (p : Pos) (cell : Nat) : LampShow :=
  let v := s.trayRow p cell
  if !s.hc.stopped || (s.underNamed p cell && decide (v = .flash .red)) then v else .dark

/-- A POSITION lamp (R26). -/
def State.positionLamp (s : State) (p : Pos) : LampShow :=
  if s.hc.stopped then .dark
  else match (s.build p).state with
    | .empty => .dark
    | .claiming => .flash .amber
    | .gathering => .steady .amber
    | .putting => if (s.build p).trayWanted then .flash .blue else .steady .green
    | .sealed => .flash .green
    | .unloading => if s.su.requests.contains p then .steady .blue else .steady .red
    | .held => .flash .red

/-- The 86 lamps in group and index order (R212). -/
def LampId.all : List LampId :=
  (List.range 50).map .shelf ++ (Pos.all.map (fun p => (List.range 8).map (.tray p))).flatten
    ++ Pos.all.map .position

/-- The values of the 86 lamps; a position beyond the strap has no lamp (R23). -/
def State.lampValues (s : State) : List LampShow :=
  s.shelfLamps
    ++ (Pos.all.map (fun p =>
        if s.isFitted p then (List.range 8).map (s.trayLamp p) else List.replicate 8 .dark)).flatten
    ++ Pos.all.map (fun p => if s.isFitted p then s.positionLamp p else .dark)

/-- What the POSITION record of a position carries (R26; log 27). In PUTTING with no put pending and none
next to start, on the way into CHECK, k is 0: DESIGN CHOICE (log 42). -/
def State.posShow (s : State) (p : Pos) : PosShow :=
  let b := s.build p
  { state := b.state
    n := b.total
    k := match b.state with
      | .putting => match s.put p with
        | some r => r.index
        | none => match b.plan with
          | e :: _ => e.index
          | [] => 0
      | .held => match s.hold p with
        | some h => h.savedIndex
        | none => 0
      | .unloading => match b.lastPlaced with
        | some x => x.index
        | none => 0
      | _ => 0
    primary := match b.state with
      | .held => (s.hold p).map (fun h => h.primary.cause)
      | _ => none }

/-! ### The outbound buffer (R211) -/

/-- Whether a record is the LAMP record of a lamp. -/
def PanelOut.isLamp (id : LampId) : PanelOut → Bool
  | .lamp i _ => decide (i = id)
  | _ => false

/-- Whether a record is the POSITION record of a position. -/
def PanelOut.isPosition (p : Pos) : PanelOut → Bool
  | .position q _ _ => decide (q = p)
  | _ => false

/-- A LAMP record reaches PL: it replaces an unsent record of the same lamp in its place, or enters
at the end, or leaves the lamp owed (R211, R212). -/
def Panel.sendLamp (pl : Panel) (i : Nat) (id : LampId) (v : LampShow) : Panel :=
  let owed := match pl.lamps[i]? with
    | some c => c.owed
    | none => false
  if pl.buffer.any (PanelOut.isLamp id) then
    { pl with
      buffer := pl.buffer.map (fun r => if r.isLamp id then .lamp id v else r)
      lamps := updateAt (fun c => { c with shown := v }) i pl.lamps }
  else if owed then { pl with lamps := updateAt (fun c => { c with shown := v }) i pl.lamps }
  else if pl.buffer.length < Config.maxPanel then
    { pl with
      buffer := pl.buffer ++ [.lamp id v]
      lamps := updateAt (fun c => { c with shown := v }) i pl.lamps }
  else { pl with lamps := updateAt (fun _ => ⟨v, true⟩) i pl.lamps }

/-- A POSITION record reaches PL (R211); one that enters the buffer carries the reports-lost mark.
DESIGN CHOICE (log 34): one that replaces an unsent record goes on carrying the reports-lost flag of the
record it replaces, and leaves the mark as it is. -/
def Panel.sendPosition (pl : Panel) (p : Pos) (v : PosShow) : Panel :=
  let cell := pl.positions.get p
  if pl.buffer.any (PanelOut.isPosition p) then
    { pl with
      buffer := pl.buffer.map (fun r => match r with
        | .position q w lost => if q = p then .position q v lost else .position q w lost
        | other => other)
      positions := pl.positions.set p { cell with shown := v } }
  else if cell.owed then { pl with positions := pl.positions.set p { cell with shown := v } }
  else if pl.buffer.length < Config.maxPanel then
    { pl with
      buffer := pl.buffer ++ [.position p v pl.reportsLost]
      positions := pl.positions.set p { cell with shown := v }
      reportsLost := false }
  else { pl with positions := pl.positions.set p ⟨v, true⟩ }

/-- Whether any lamp or POSITION record is owed (R211). -/
def Panel.anyOwed (pl : Panel) : Bool :=
  Pos.all.any (fun p => (pl.positions.get p).owed) || pl.lamps.any (·.owed)

/-- A REPORT enters at the end, or is dropped, with the reports-lost mark set and position A owed (R211). -/
def Panel.sendReport (pl : Panel) (r : PanelOut) : Panel :=
  if Config.maxPanel ≤ pl.buffer.length ∨ pl.anyOwed then
    { pl with
      reportsLost := true
      positions := pl.positions.set .a { pl.positions.get .a with owed := true } }
  else { pl with buffer := pl.buffer ++ [r] }

/-- The changed lamps are sent, in group and index order. -/
def Panel.sendLamps : Nat → List LampId → List LampShow → List LampCell → Panel → Panel
  | n, id :: ids, v :: vs, c :: cs, pl =>
    Panel.sendLamps (n + 1) ids vs cs (if v = c.shown then pl else pl.sendLamp n id v)
  | _, _, _, _, pl => pl

/-- The POSITION record of a position is sent if what it carries has changed (R26). DESIGN CHOICE (log 50): a
put that starts sends none (R75) where its k of n was already shown, as the first put after the tare. -/
def State.showPosition (s : State) (p : Pos) : State :=
  if s.isFitted p && decide (s.posShow p ≠ (s.pl.positions.get p).shown) then
    s.setPl (s.pl.sendPosition p (s.posShow p))
  else s

/-- The lamps of the SHELF group that have changed are sent (R19, R20). -/
def State.showShelf (s : State) : State :=
  s.setPl (Panel.sendLamps 0 ((List.range 50).map .shelf) s.shelfLamps s.pl.lamps s.pl)

/-- The lamps of a fitted position's TRAY group that have changed are sent (R90). -/
def State.showTray (s : State) (p : Pos) : State :=
  if s.isFitted p then
    s.setPl (Panel.sendLamps (50 + 8 * p.index) ((List.range 8).map (.tray p))
      ((List.range 8).map (s.trayLamp p)) (s.pl.lamps.drop (50 + 8 * p.index)) s.pl)
  else s

/-- The lamp of a fitted position in the POSITION group is sent if it has changed (R26). -/
def State.showPositionLamp (s : State) (p : Pos) : State :=
  if s.isFitted p then
    s.setPl (Panel.sendLamps (82 + p.index) [.position p] [s.positionLamp p]
      (s.pl.lamps.drop (82 + p.index)) s.pl)
  else s

/-- BE shows a change of a build: its POSITION record, then its lamp (R26). -/
def State.showBuild (s : State) (p : Pos) : State := (s.showPosition p).showPositionLamp p

/-- At the end of an event every POSITION record and lamp whose change no operation of the event has
shown is sent (R19, R26, R90; log 10). -/
def State.flush (s : State) : State :=
  let t := Pos.all.foldl State.showPosition s
  t.setPl (Panel.sendLamps 0 LampId.all t.lampValues t.pl.lamps t.pl)

/-- A REPORT goes down the report path in its turn (R187). -/
def State.report (s : State) (code : Nat) (p : Option Pos) (u : Option UnitNo) (v : Nat) : State :=
  s.setPl (s.pl.sendReport (.report code p u v))

/-- A bench report (R188). -/
def State.benchReport (s : State) (r : BenchReport) (p : Option Pos) (v : Nat) : State :=
  s.report r.code p none v

/-- One owed item enters the buffer, POSITION records first, built from the state of this moment (R212).
DESIGN CHOICE (log 48): position A owed by a lost REPORT gets a record of its own at the end, also where
an earlier POSITION record of A is still unsent; a later one of A then replaces both in place. -/
def State.fillOne (s : State) : State :=
  match Pos.all.find? (fun p => (s.pl.positions.get p).owed) with
  | some p =>
    s.setPl { s.pl with
      buffer := s.pl.buffer ++ [.position p (s.posShow p) s.pl.reportsLost]
      positions := s.pl.positions.set p ⟨s.posShow p, false⟩
      reportsLost := false }
  | none =>
    match s.pl.lamps.findIdx? (·.owed) with
    | none => s
    | some i =>
      match LampId.all[i]?, s.lampValues[i]? with
      | some id, some v =>
        s.setPl { s.pl with
          buffer := s.pl.buffer ++ [.lamp id v]
          lamps := updateAt (fun _ => ⟨v, false⟩) i s.pl.lamps }
      | _, _ => s

/-- Owed items fill the free places of the buffer (R212); the fuel is the number of places. -/
def State.fillOwed : Nat → State → State
  | 0, s => s
  | n + 1, s =>
    if s.pl.buffer.length < Config.maxPanel then State.fillOwed n s.fillOne else s

/-- PL right after either reset: buffer empty, mark clear, every item of the fitted positions owed,
every lamp OFF and every position EMPTY (R212). -/
def Panel.allOwed (fitted : Nat) : Panel :=
  let here (p : Pos) : Bool := decide (p.index < fitted)
  { buffer := []
    lamps := List.replicate 50 ⟨.dark, true⟩
      ++ (Pos.all.map (fun p => List.replicate 8 (⟨.dark, here p⟩ : LampCell))).flatten
      ++ Pos.all.map (fun p => ⟨.dark, here p⟩)
    positions := ⟨⟨.empty, here .a⟩, ⟨.empty, here .b⟩, ⟨.empty, here .c⟩, ⟨.empty, here .d⟩⟩
    reportsLost := false
    inbound := [] }

/-- When STOPPED clears, SU sends every SHELF lamp that is not OFF and BE every fitted POSITION lamp,
whether or not it changed, and PV relights the TRAY lamps (R21, R26, R88). DESIGN CHOICE (log 56): their
records go SHELF, then TRAY, then POSITION, each group in index order, ahead of every other record of the event;
no rule orders them. -/
def State.resendLamps (s : State) : State :=
  let vs := s.lampValues
  let again (pl : Panel) (x : Nat × LampId × LampShow) : Panel :=
    match x.2.1 with
    | .shelf _ => if x.2.2.colour = .off then pl else pl.sendLamp x.1 x.2.1 x.2.2
    | .position p => if s.isFitted p then pl.sendLamp x.1 x.2.1 x.2.2 else pl
    | .tray _ _ =>
      match pl.lamps[x.1]? with
      | some c => if c.shown = x.2.2 then pl else pl.sendLamp x.1 x.2.1 x.2.2
      | none => pl
  s.setPl ((numbered 0 (LampId.all.zip vs)).foldl again s.pl)

end Sys2Proof.Machine
end

