-- ==== Sys2Proof/Machine/Line.lean ====
section
/-! DEFINITION. The transmit queue of LP and the frames waiting for its space (R129, R132, R146, R197
to R199), the hand-over of frames to their owners (R190, R193 to R195), and BE's choice of a candidate
with CU's marking (R27, R28, R129). -/

namespace Sys2Proof.Machine

/-! ### The transmit queue (R197) -/

/-- The frames of the transmit queue that have not started, the contending one included. -/
def LinePort.unstarted (lp : LinePort) : List Frame :=
  (lp.contending.map (·.frame)).toList ++ lp.queue

/-- The queue places taken: the frames not started, and a started one that holds its place. -/
def LinePort.places (lp : LinePort) : Nat :=
  lp.unstarted.length + match lp.started with
    | some x => if x.holdsPlace then 1 else 0
    | none => 0

/-- The class 3 frames among them. -/
def LinePort.class3 (lp : LinePort) : Nat :=
  lp.unstarted.countP (fun f => decide (f.cls = 3)) + match lp.started with
    | some x => if x.holdsPlace ∧ x.frame.cls = 3 then 1 else 0
    | none => 0

/-- A frame enters the queue behind the frames of its class and of lower classes (R197). -/
def LinePort.enqueue (lp : LinePort) (f : Frame) : LinePort :=
  { lp with queue := insertBy (fun x y => decide (x.cls < y.cls)) f lp.queue }

/-- A frame that has lost its contention or was aborted goes back to its place, ahead of the other
frames of its class (R191, R192, R197). -/
def LinePort.putBack (lp : LinePort) (f : Frame) : LinePort :=
  { lp with queue := insertBy (fun x y => decide (x.cls ≤ y.cls)) f lp.queue }

/-- Whether the queue has space for a frame of class 0 to 2 (R197). -/
def LinePort.hasSpace (lp : LinePort) : Bool := decide (lp.places < Config.maxQueue)

/-- Whether a frame of class 0 to 2 waits for space with a producer (R197, R198). -/
def State.anyWaiting (s : State) : Bool :=
  decide (0 < s.hc.haltsWaiting) || !s.cu.waiting.isEmpty || !s.xu.waiting.isEmpty

/-- Whether the station is ISOLATED: LP then discards every frame offered (R200). -/
def State.isolated (s : State) : Bool := decide (s.jc.state = .isolated)

/-- Whether LP accepts a class 3 frame (R197, R200). -/
def State.accepts3 (s : State) : Bool :=
  s.isolated || (s.lp.hasSpace && decide (s.lp.class3 < Config.maxClass3) && !s.anyWaiting)

/-- A frame enters the queue, or is discarded while ISOLATED (R197, R200). -/
def State.transmit (s : State) (f : Frame) : State :=
  if s.isolated then s else s.setLp (s.lp.enqueue f)

/-- HC produces HALT; it waits with HC for space (R182, R198). -/
def State.produceHalt (s : State) : State :=
  if s.isolated || s.lp.hasSpace then s.transmit .halt
  else s.setHc { s.hc with haltsWaiting := s.hc.haltsWaiting + 1 }

/-- CU's waiting frames with one more, or with the oldest PRIOR displaced when 16 wait (R129). -/
def joinClaimWaiting (waiting : List Frame) (f : Frame) : List Frame :=
  if waiting.length < Config.maxWaiting then waiting ++ [f]
  else if f.kind = .prior then waiting
  else if waiting.any (fun g => decide (g.kind = .prior)) then
    dropFirst (fun g => decide (g.kind = .prior)) waiting ++ [f]
  else waiting

/-- CU produces a class 1 frame: queued, or waiting with CU (R129). -/
def State.produceCu (s : State) (f : Frame) : State :=
  if s.isolated || s.lp.hasSpace then s.transmit f
  else s.setCu { s.cu with waiting := joinClaimWaiting s.cu.waiting f }

/-- CU produces PRIOR with this station as holder, unless one for the order already waits or stands
in the queue without having started (R132). -/
def State.producePrior (s : State) (o : OrderId) : State :=
  let same : Frame → Bool := fun f => match f with
    | .prior q _ => decide (q = o)
    | _ => false
  if s.cu.waiting.any same || s.lp.unstarted.any same then s
  else s.produceCu (.prior o s.jc.station)

/-- Whether a CLAIM of this station waits outside the queue (R27). -/
def State.claimWaiting (s : State) : Bool := s.cu.waiting.any (fun f => decide (f.kind = .claim))

/-- A freed place goes to the waiting frame of lowest class that has waited longest: HC's HALT, then
CU's oldest, then XU's oldest (R198). -/
def State.grantOne (s : State) : State :=
  if 0 < s.hc.haltsWaiting then
    (s.setHc { s.hc with haltsWaiting := s.hc.haltsWaiting - 1 }).transmit .halt
  else match s.cu.waiting with
    | f :: fs => (s.setCu { s.cu with waiting := fs }).transmit f
    | [] => match s.xu.waiting with
      | w :: ws => (s.setXu { s.xu with waiting := ws }).transmit w.frame
      | [] => s

/-- Free places go to waiting frames while there are both (R198); the fuel is the number of places. -/
def State.grantPlaces : Nat → State → State
  | 0, s => s
  | n + 1, s =>
    if s.lp.hasSpace && s.anyWaiting && !s.isolated then State.grantPlaces n s.grantOne else s

/-- All that a moment with free places hands out. -/
def State.grantTx (s : State) : State := State.grantPlaces Config.maxQueue s

/-- A withdrawal of a frame that is contending is held until the contention is decided (R199). -/
def Contending.withdraw (f : Frame) (c : Contending) : Contending :=
  if c.frame = f then { c with withdrawn := true } else c

/-- CU withdraws a CLAIM: discarded where it waits, removed where it is queued, the withdrawal held where
it contends, untouched where it has started (R129, R199); a place it frees is handed out at once (R198). -/
def State.withdrawClaim (s : State) (o : OrderId) : State :=
  let keep : Frame → Bool := fun f => decide (f ≠ .claim o)
  let t := s.setCu { s.cu with waiting := s.cu.waiting.filter keep }
  (t.setLp { t.lp with
    queue := t.lp.queue.filter keep
    contending := t.lp.contending.map (Contending.withdraw (.claim o)) }).grantTx

/-! ### Hand-over (R190) -/

/-- The first frame of an owner in the hand-over sequence, and the sequence without it. -/
def takeFor (o : Owner) : List Handed → Option (Handed × List Handed)
  | [] => none
  | h :: hs =>
    if h.kind.owner = o then some (h, hs)
    else match takeFor o hs with
      | some (x, rest) => some (x, h :: rest)
      | none => none

/-- A frame from another station refreshes its sender in the peer table (R208). -/
def refreshPeer (peers : List Peer) (k : Station) : List Peer :=
  if peers.any (fun x => decide (x.station = k)) then
    peers.map (fun x => if x.station = k then { x with age := 0 } else x)
  else peers ++ [⟨k, 0⟩]

/-- The frame of a kind is handed to its owner, when it is the first of that owner's frames: it
leaves the hand-over sequence, and its sender is refreshed if it came from another station (R190,
R195, R208). DESIGN CHOICE (log 57): the refresh does not wait for the owner's test of the body, so that even
a ROLL or SETUP that JC, its owner, discards for its length or its fresh flag refreshes its sender. -/
def State.handOver (s : State) (k : Kind) : Option (Handed × State) :=
  match takeFor k.owner s.lp.handover with
  | some (h, rest) =>
    if h.kind = k then
      let t := s.setLp { s.lp with handover := rest }
      some (h, if h.own then t else t.setJc { t.jc with peers := refreshPeer t.jc.peers h.sender })
    else none
  | none => none

/-! ### Candidates (R27, R28) -/

/-- Whether a notice qualifies as a candidate (R28). -/
def Notice.qualifies (n : Notice) : Bool :=
  decide (n.state = .opened) && !n.releasedByMe && n.info.isSome

/-- A notice's rank. -/
def Notice.rank (n : Notice) : Nat := match n.info with
  | some i => i.rank
  | none => 8

/-- The qualifying notice of the lowest rank, the earliest among equals (R28). -/
def bestCandidate : List Notice → Option Notice
  | [] => none
  | n :: ns =>
    match bestCandidate ns with
    | none => if n.qualifies then some n else none
    | some m => if n.qualifies && decide (n.rank ≤ m.rank) then some n else some m

/-- Whether an EMPTY position may look for a candidate (R27). -/
def State.mayLook (s : State) : Bool :=
  decide (s.jc.state = .active) && !s.hc.stopped && s.lp.suppression.isNone && !s.claimWaiting

/-- CU marks a notice for a position and produces CLAIM; the position enters CLAIMING (R28, R129). -/
def State.mark (s : State) (p : Pos) (n : Notice) : State :=
  let t := s.modNotice n.order (fun m => { m with state := .marked p })
  let u := t.setBuild p { t.build p with state := .claiming, link := some n.order }
  (u.produceCu (.claim n.order)).showBuild p

/-- One EMPTY position looks (R27). -/
def State.look (s : State) (p : Pos) : State :=
  if decide ((s.build p).state = .empty) && s.mayLook then
    match bestCandidate s.cu.notices with
    | some n => s.mark p n
    | none => s
  else s

/-- The fitted EMPTY positions look one after another in letter order (R27). -/
def State.lookAll (s : State) : State := s.fittedPos.foldl State.look s

/-- Places are handed out, and when a waiting CLAIM thereby enters the queue the positions look
(R27, R198). -/
def State.freedPlace (s : State) : State :=
  let t := s.grantTx
  if s.claimWaiting && !t.claimWaiting then t.lookAll else t

end Sys2Proof.Machine
end

