-- ==== Sys2Proof/Machine/Tray.lean ====
section
/-! DEFINITION. The Tray Planner: geometry (R53 to R55), expected weights and permitted placements
(R56, R57), plan order, lowest-fit placement and put order (R58 to R62). -/

namespace Sys2Proof.Machine

/-- Number of cells (R53). -/
def TrayType.cells : TrayType → Nat
  | .large => 8
  | .medium => 4
  | .small => 2

/-- Cells of the lower layer, which come first; the rest are the upper layer (R53). -/
def TrayType.lower : TrayType → Nat
  | .large => 4
  | .medium => 2
  | .small => 1

/-- Cells of the chill pocket, which come first (R53). -/
def TrayType.pocket : TrayType → Nat
  | .large => 2
  | .medium => 1
  | .small => 1

/-- Net weight limit in grams (R44, R53). -/
def TrayType.limit : TrayType → Nat
  | .large => 9000
  | .medium => 5000
  | .small => 2500

/-- Cells a size class occupies (R54). -/
def SizeClass.length : SizeClass → Nat
  | .single => 1
  | .double => 2
  | .quad => 4

/-- A unit of a plan request (R58) with its expected weight (R56). -/
structure PlanUnit where
  unit : UnitNo
  line : Nat
  handling : Handling
  size : SizeClass
  weight : Int
  deriving DecidableEq, Repr

/-- Whether a unit is heavy (R56). -/
def PlanUnit.heavy (u : PlanUnit) : Bool := decide ((Config.heavyAbove : Int) < u.weight)

/-- Whether a start cell is aligned and its mask lies in the tray and in one layer (R54, R55). -/
def fitsLayer (t : TrayType) (z : SizeClass) (start : Nat) : Bool :=
  decide (start % z.length = 0) && (cellMask z start).all (fun c => decide (c < t.cells))
    && ((cellMask z start).all (fun c => decide (c < t.lower))
      || (cellMask z start).all (fun c => decide (t.lower ≤ c)))

/-- Whether a placement is permitted for a unit (R57). -/
def permitted (t : TrayType) (u : PlanUnit) (start : Nat) : Bool :=
  let mask := cellMask u.size start
  fitsLayer t u.size start
    && (match u.handling with
      | .chilled => mask.all (fun c => decide (c < t.pocket))
      | .fragile => mask.all (fun c => decide (t.lower ≤ c))
      | .ambient => true)
    && (!u.heavy || mask.all (fun c => decide (c < t.lower)))

/-- The group of a unit in plan order: CHILLED, FRAGILE, heavy AMBIENT, other AMBIENT (R60). -/
def PlanUnit.group (u : PlanUnit) : Nat :=
  match u.handling with
  | .chilled => 0
  | .fragile => 1
  | .ambient => if u.heavy then 2 else 3

/-- The size key of plan order: QUAD, DOUBLE, SINGLE (R60). -/
def SizeClass.rank : SizeClass → Nat
  | .quad => 0
  | .double => 1
  | .single => 2

/-- Plan order: group, size, line, unit number (R60). -/
def planBefore (x y : PlanUnit) : Bool :=
  if x.group ≠ y.group then decide (x.group < y.group)
  else if x.size.rank ≠ y.size.rank then decide (x.size.rank < y.size.rank)
  else if x.line ≠ y.line then decide (x.line < y.line)
  else decide (x.unit.toNat < y.unit.toNat)

/-- The lowest start cell a unit can take among the cells not occupied (R61). -/
def lowestFit (t : TrayType) (occupied : List Nat) (u : PlanUnit) : Option Nat :=
  (List.range 8).find? (fun c =>
    permitted t u c && (cellMask u.size c).all (fun x => !occupied.contains x))

/-- A unit with the start cell it took. -/
structure Fitted where
  unit : PlanUnit
  start : Nat
  deriving DecidableEq, Repr

/-- Why a plan fails (R59, R61). -/
inductive PlanFail where
  | weight (sum : Int)
  | place (unit : UnitNo)
  deriving DecidableEq, Repr

/-- Placement in plan order without going back (R61). -/
def placeAll (t : TrayType) : List Nat → List PlanUnit → Except PlanFail (List Fitted)
  | _, [] => .ok []
  | occupied, u :: us =>
    match lowestFit t occupied u with
    | none => .error (.place u.unit)
    | some c =>
      match placeAll t (cellMask u.size c ++ occupied) us with
      | .error e => .error e
      | .ok fs => .ok (⟨u, c⟩ :: fs)

/-- Put order: the lower layer in plan order, then the upper layer (R62). -/
def putOrder (t : TrayType) (fs : List Fitted) : List Fitted :=
  fs.filter (fun f => decide (f.start < t.lower)) ++ fs.filter (fun f => decide (t.lower ≤ f.start))

/-- The plan entries of units in put order, with put indexes from the given one on (R62). -/
def planEntries : Nat → List Fitted → List PlanEntry
  | _, [] => []
  | n, f :: fs => ⟨f.unit.unit, f.unit.line, f.unit.size, f.start, n⟩ :: planEntries (n + 1) fs

/-- TP's answer to a plan request: the weight check, then placement and put order (R58 to R62).
`fixedWeight` is the weight of the placed units and the pending unit, `occupied` their cells, and
`firstIndex` the first put index to give. -/
def planRequest (t : TrayType) (fixedWeight : Int) (occupied : List Nat) (firstIndex : Nat)
    (units : List PlanUnit) : Except PlanFail (List PlanEntry) :=
  let sum := fixedWeight + (units.map (·.weight)).sum
  if (t.limit : Int) < sum then .error (.weight sum)
  else match placeAll t occupied (sortBy planBefore units) with
    | .error e => .error e
    | .ok fs => .ok (planEntries firstIndex (putOrder t fs))

/-- The tray type of a build: its notice's (R53). Every build outside EMPTY has a notice with its
fields (R23, R124); without one the type is taken as LARGE. -/
def State.trayOf (s : State) (p : Pos) : TrayType :=
  match s.infoOf p with
  | some i => i.tray
  | none => .large

/-- The units to plan: those EARMARKED for the build (R58). -/
def State.unitsToPlan (s : State) (p : Pos) : List PlanUnit :=
  s.su.slots.filterMap (fun x => match x with
    | .occupied u (.earmarked q l) =>
      if q = p then some ⟨u.number, l, u.label.handling, u.label.size, u.label.weight⟩ else none
    | _ => none)

/-- The pending put's plan entry, made again from its put record; the new plan keeps it in front, which is
the model's choice (R58, R62; DESIGN CHOICE, log 53). -/
def State.pendingEntry (s : State) (p : Pos) : Option PlanEntry :=
  match s.put p with
  | some r => if r.kind = .put then some ⟨r.unit, r.line, r.size, r.start, r.index⟩ else none
  | none => none

/-- BE's plan request for a build, with its placed units and its pending unit fixed (R38, R43, R58). DESIGN
CHOICE (log 53): TP's answer has entries for the units to plan alone (R62), and with a put pending the plan BE
stores from it keeps that put's own entry in front of them until its put is confirmed (R41). -/
def State.plan (s : State) (p : Pos) : Except PlanFail (List PlanEntry) :=
  let content := (s.build p).content
  let cells := (content.map (fun x => cellMask x.unit.label.size x.start)).flatten
  let placed := (content.map (·.weight)).sum
  match s.put p, s.pendingEntry p with
  | some r, some e =>
    (planRequest (s.trayOf p) (placed + r.refWeight) (cellMask e.size e.start ++ cells)
      (content.length + 2) (s.unitsToPlan p)).map (e :: ·)
  | _, _ => planRequest (s.trayOf p) placed cells (content.length + 1) (s.unitsToPlan p)

end Sys2Proof.Machine
end

