-- ==== Sys2Proof/Machine/Removal.lean ====
section
/-! DEFINITION. Slots given and taken (R14, R15), and the start of puts and removals (R74, R75, R85). -/

namespace Sys2Proof.Machine

/-- The tolerance at a percentage of a weight: rounded up, at least 10 g (R74). -/
def tolerance (percent : Nat) (weight : Int) : Nat := max 10 ((weight.toNat * percent + 99) / 100)

/-- A stable reading with a tray on the platform, taken as a baseline (R75, R76, R85). -/
def State.baseline (s : State) (p : Pos) : Option Nat :=
  match s.stable p with
  | some r => if Config.trayMark ≤ r then some r else none
  | none => none

/-- The phase an operation starts in, by whether it has its baseline at once (R75). -/
def startPhase : Option Nat → Phase
  | some _ => .awaitMove
  | none => .awaitBase

/-- The put record of a put that starts (R74, R75). -/
def putRecord (u : UnitRec) (e : PlanEntry) (base : Option Nat) : PutRec :=
  { kind := .put, unit := u.number, line := e.line, pricing := u.label.pricing,
    refWeight := u.label.weight, size := e.size, start := e.start, index := e.index,
    expected := u.label.weight
    tolerance := match u.label.pricing with
      | .fixed => tolerance 5 u.label.weight
      | .byWeight => tolerance 10 u.label.weight
    phase := startPhase base, before := startPhase base, baseline := base, settledDelta := none,
    confirmMark := false, limitLeft := Config.putLimit, resuming := false, failed := false,
    expiries := [] }

/-- The put record of a removal that starts (R74, R85). -/
def removalRecord (pu : Purpose) (x : Placed) (base : Option Nat) : PutRec :=
  { kind := .removal pu, unit := x.unit.number, line := x.line, pricing := x.unit.label.pricing,
    refWeight := x.weight, size := x.unit.label.size, start := x.start, index := x.index,
    expected := -x.weight, tolerance := tolerance 5 x.weight, phase := startPhase base,
    before := startPhase base, baseline := base, settledDelta := none, confirmMark := false,
    limitLeft := 0, resuming := false, failed := false, expiries := [] }

/-- A removal starts, and the unit's cells turn RED (R85, R90). -/
def State.startRemoval (s : State) (p : Pos) (pu : Purpose) (x : Placed) : State :=
  (s.setPut p (some (removalRecord pu x (s.baseline p)))).showTray p

/-- The removal a position is waiting to start, by its build and hold (R49, R85, R119, R176): UNDO and
UNLOAD once a slot is reserved, CHILL while CHILL_EXPIRED is primary. DESIGN CHOICE (log 51): a build HELD with
saved state UNLOADING starts no UNLOAD removal, though a slot be given to its waiting request; it starts when
the build leaves HELD into UNLOADING. -/
def State.removalDue (s : State) (p : Pos) : Option (Purpose × Placed) :=
  match (s.build p).state with
  | .held => match s.hold p with
    | none => none
    | some h =>
      if h.resolving = .undo then
        if (s.su.reservedSlot p).isSome then (s.build p).lastPlaced.map (fun x => (.undo, x)) else none
      else if h.primary.cause = .chillExpired then
        match h.named with
        | [] => none
        | u :: _ =>
          ((s.build p).content.find? (fun x => decide (x.unit.number = u))).map (fun x => (.chill, x))
      else none
  | .unloading =>
    if (s.su.reservedSlot p).isSome then (s.build p).lastPlaced.map (fun x => (.unload, x)) else none
  | _ => none

/-- The removal due starts when the put record is idle and the bench is not STOPPED; a CHILL removal
sets resolving to CHILL (R85, R177). -/
def State.tryRemoval (s : State) (p : Pos) : State :=
  if s.hc.stopped || (s.put p).isSome then s
  else match s.removalDue p with
    | none => s
    | some (pu, x) =>
      let t := match pu, s.hold p with
        | .chill, some h => s.setHold p (some { h with resolving := .chill })
        | _, _ => s
      t.startRemoval p pu x

/-- The waiting requests, oldest first, are given the lowest empty slots, and their removals start (R14). -/
def State.giveTo : List Pos → State → State
  | [], s => s
  | p :: ps, s =>
    match s.su.lowestEmpty with
    | none => s
    | some i =>
      let t := (s.setSlot i (.reserved p))
      let u := t.setSu { t.su with requests := t.su.requests.filter (fun q => decide (q ≠ p)) }
      State.giveTo ps ((u.showShelf.showPositionLamp p).tryRemoval p)

/-- Empty slots go at once to the waiting requests (R14). -/
def State.giveSlots (s : State) : State := State.giveTo s.su.requests s

/-- A slot becomes empty, last emptied by a GRANT or not (R5, R19), and goes to a waiting request (R14).
DESIGN CHOICE (log 35): the AMBER of the latest intake scan is gone for good when its unit leaves the
slot; a unit that comes back to a slot does not show it again. -/
def State.emptySlot (s : State) (i : Nat) (grant : Option Seq) : State :=
  let t := s.setSlot i (.empty grant)
  (t.setSu { t.su with
    amberSlot := if t.su.amberSlot = some i then none else t.su.amberSlot }).showShelf.giveSlots

/-- BE asks for a slot: the lowest empty one is reserved, or the request waits (R14). -/
def State.requestSlot (s : State) (p : Pos) : State :=
  if (s.su.reservedSlot p).isSome || s.su.requests.contains p then s
  else match s.su.lowestEmpty with
    | some i => (s.setSlot i (.reserved p)).showShelf
    | none => (s.setSu { s.su with requests := s.su.requests ++ [p] }).showPositionLamp p

/-- A position's slot request is withdrawn and its reservation released (R14). -/
def State.releaseSlot (s : State) (p : Pos) : State :=
  let t := s.setSu { s.su with requests := s.su.requests.filter (fun q => decide (q ≠ p)) }
  match t.su.reservedSlot p with
  | some i => t.emptySlot i none
  | none => t

end Sys2Proof.Machine
end

