-- ==== Sys2Proof/Machine/Asking.lean ====
section
/-! DEFINITION. What XU produces: ASK, WANT and TAKEN for this station's lines and transfers (R146,
R151, R152, R154, R161), OFFER for its surplus (R147 to R149), and the earmark with its line counts
(R15, R37). -/

namespace Sys2Proof.Machine

/-! ### Lines that can ask (R36, R151) -/

/-- Whether a line can be handed to XU: GATHERING, exact wait RUNNING, uncommitted above 0 (R36). -/
def State.canAsk (s : State) (r : LineRef) : Bool :=
  decide ((s.build r.p).state = .gathering) &&
    match s.line? r with
    | some l => l.waitRunning && decide (0 < l.uncommitted)
    | none => false

/-- The ask record of a line (R151). -/
def State.askOf (s : State) (r : LineRef) : Option AskRec :=
  s.xu.asks.find? (fun a => decide (a.line = r))

/-- The offer entry of a code with the largest quantity, the oldest on a tie (R151). -/
def bestOffer (c : ItemCode) : List OfferEntry → Option OfferEntry
  | [] => none
  | e :: es =>
    match bestOffer c es with
    | none => if e.code = c then some e else none
    | some m => if e.code = c ∧ m.quantity ≤ e.quantity then some e else some m

/-- XU asks for a line at an offer entry: the entry is lowered and leaves at 0, the ask record is
made, the line's pending ask is set, and ASK is queued or waits (R37, R146, R151). -/
def State.askAt (s : State) (r : LineRef) (l : LineRec) (e : OfferEntry) : State :=
  let q := min l.uncommitted (min e.quantity 4)
  let f : Frame := .ask e.station e.code (BitVec.ofNat 8 q)
  let t := s.setXu { s.xu with
    offers := (s.xu.offers.map (fun x =>
      if x.station = e.station ∧ x.code = e.code then { x with quantity := x.quantity - q } else x)).filter
        (fun x => decide (0 < x.quantity))
    asks := s.xu.asks ++ [⟨r, e.station, e.code, q, Config.askWait⟩] }
  let u := t.modLine r.p r.line (fun x => { x with pendingAsk := q })
  if u.lp.hasSpace then u.transmit f
  else u.setXu { u.xu with waiting := u.xu.waiting ++ [⟨f, some r⟩] }

/-- XU wants for a line: an accepted WANT sets want sent, a refused one is tried again each second
(R152). -/
def State.wantFor (s : State) (r : LineRef) (l : LineRec) : State :=
  if s.accepts3 then
    (s.transmit (.want l.item.code (BitVec.ofNat 8 l.uncommitted))).modLine r.p r.line
      (fun x => { x with wantSent := true, wantRefused := false })
  else s.modLine r.p r.line (fun x => { x with wantRefused := true })

/-- XU takes a line up: it asks, wants, or does nothing (R146, R151, R152). -/
def State.takeLine (s : State) (r : LineRef) : State :=
  match s.line? r with
  | none => s
  | some l =>
    if s.gateOpen && s.canAsk r && (s.askOf r).isNone then
      match bestOffer l.item.code s.xu.offers with
      | some e => if s.xu.waiting.length < Config.maxWaiting then s.askAt r l e else s
      | none => if l.wantSent then s else s.wantFor r l
    else s

/-- BE hands a line to XU, where R36 allows; not while STOPPED. -/
def State.handLine (s : State) (r : LineRef) : State :=
  if !s.hc.stopped && s.canAsk r then s.takeLine r else s

/-- The lines of a build. -/
def State.linesOf (s : State) (p : Pos) : List LineRef :=
  (List.range (s.build p).lines.length).map (fun i => ⟨p, i⟩)

/-- All lines of the station, in claim order and line order (R36, R153). -/
def State.allLines (s : State) : List LineRef := (s.byClaimOrder.map s.linesOf).flatten

/-- A line's ask record and its waiting ASK are removed, and its pending ask is 0 (R154). -/
def State.clearAsk (s : State) (r : LineRef) : State :=
  (s.setXu { s.xu with
    asks := s.xu.asks.filter (fun a => decide (a.line ≠ r))
    waiting := s.xu.waiting.filter (fun w => decide (w.line ≠ some r)) }).modLine r.p r.line
      (fun x => { x with pendingAsk := 0 })

/-- The record is cleared and the line handed again (R36, R154). -/
def State.clearAndHand (s : State) (r : LineRef) : State := (s.clearAsk r).handLine r

/-- XU produces TAKEN; with 16 frames waiting it takes the place of the oldest waiting ASK, whose
record is cleared, or is not kept (R146). -/
def State.produceTaken (s : State) (dest : Station) (n : Seq) (received : Nat) : State :=
  let f : Frame := .taken dest n (BitVec.ofNat 8 received)
  if s.isolated || s.lp.hasSpace then s.transmit f
  else if s.xu.waiting.length < Config.maxWaiting then
    s.setXu { s.xu with waiting := s.xu.waiting ++ [⟨f, none⟩] }
  else match firstSome (·.line) s.xu.waiting with
    | none => s
    | some r =>
      (s.setXu { s.xu with
        waiting := s.xu.waiting.filter (fun w => decide (w.line ≠ some r)) ++ [⟨f, none⟩] }).clearAndHand r

/-- BE has XU unlink a build: its ask records and waiting ASKs go, its expected entries lose their
link (R35, R154). -/
def State.unlinkBuild (s : State) (p : Pos) : State :=
  let refs := (s.xu.asks.filter (fun a => decide (a.line.p = p))).map (·.line)
  let t := refs.foldl State.clearAsk s
  t.setXu { t.xu with
    expected := t.xu.expected.map (fun e => match e.link with
      | some r => if r.p = p then { e with link := none } else e
      | none => e) }

/-! ### Offers (R147 to R149) -/

/-- The offer clock of a code. -/
def State.clockOf (s : State) (c : ItemCode) : Option Nat :=
  (s.xu.clocks.find? (fun k => decide (k.code = c))).map (·.seconds)

/-- Whether a code was never offered or its clock stands at or above a period (R148, R149). -/
def State.clockAllows (s : State) (c : ItemCode) (period : Nat) : Bool :=
  match s.clockOf c with
  | none => true
  | some n => decide (period ≤ n)

/-- XU offers a code: an accepted OFFER carries the FREE count and sets the code's clock to 0; a
refused one changes nothing (R147, R148). -/
def State.offerCode (s : State) (c : ItemCode) : State :=
  if s.accepts3 then
    let t := s.transmit (.offer c (BitVec.ofNat 16 (s.su.freeCount c)))
    t.setXu { t.xu with clocks := t.xu.clocks.filter (fun k => decide (k.code ≠ c)) ++ [⟨c, 0⟩] }
  else s

/-- The codes with surplus, in the order of their lowest surplus slot (R148; log 17). -/
def State.surplusCodes (s : State) : List ItemCode :=
  (s.su.slots.filterMap (fun x => match x with
    | .occupied u (.free age) =>
      if s.jc.setup.surplusHold ≤ age then some u.label.code else none
    | _ => none)).eraseDups

/-- XU's look at every code with surplus (R148). -/
def State.surplusLook (s : State) : State :=
  if s.gateOpen then
    s.surplusCodes.foldl (fun t c =>
      if t.clockAllows c t.jc.setup.surplusHold then t.offerCode c else t) s
  else s

/-! ### Earmarks (R15, R37) -/

/-- A FREE unit is earmarked for a line: the slot becomes EARMARKED, the unit joins the earmark order,
the line's earmarked count rises and its ordered class is set by the first unit of its own code; a
unit that is not FREE is not taken (R7, R15, R24, R37). -/
def State.earmark (s : State) (i : Nat) (r : LineRef) : State :=
  match s.su.slot i with
  | .occupied u (.free _) =>
    let t := s.setSlot i (.occupied u (.earmarked r.p r.line))
    let v := (t.setSu { t.su with earmarkOrder := t.su.earmarkOrder ++ [u.number] }).pruneClocks
    v.modLine r.p r.line (fun l =>
      { l with
        earmarked := l.earmarked + 1
        orderedClass :=
          if l.orderedClass.isNone ∧ u.label.code = l.item.code then some u.label.handling
          else l.orderedClass })
  | _ => s

/-- Whether a line is uncovered and a unit is not excluded from its build (R34, R35). -/
def State.lineOpen (s : State) (r : LineRef) (u : UnitRec) : Bool :=
  !(s.build r.p).exclusion.contains u.number &&
    match s.line? r with
    | some l => decide (0 < l.uncovered)
    | none => false

/-- Whether a unit is an acceptable substitute for a line (R33, R98, R99). -/
def State.acceptable (s : State) (r : LineRef) (u : UnitRec) : Bool :=
  match s.line? r, s.infoOf r.p with
  | some l, some info =>
    (match l.item.rule with
      | .none => false
      | .family => decide (u.label.code.family = l.item.code.family)
      | .cls => decide (l.orderedClass = some u.label.handling))
    && decide (bandLow l.item.value info.down ≤ estimate s.jc.setup.mode u.label)
    && decide (estimate s.jc.setup.mode u.label ≤ bandHigh l.item.value info.up)
  | _, _ => false

/-- Whether a line takes a unit in matching: as an exact unit, or as a substitute once its exact wait
is EXPIRED (R34). -/
def State.lineMatches (s : State) (u : UnitRec) (r : LineRef) : Bool :=
  s.lineOpen r u &&
    match s.line? r with
    | some l =>
      decide (u.label.code = l.item.code) || (!l.waitRunning && s.acceptable r u)
    | none => false

/-- One slot of a line's fill: its FREE unit is earmarked if the line may take it by the test. -/
def State.fillSlot (test : State → UnitRec → Bool) (r : LineRef) (s : State) (i : Nat) : State :=
  match (s.su.slot i).freeUnit with
  | some u => if s.lineOpen r u && test s u then s.earmark i r else s
  | none => s

/-- A line's fill over the whole table in lowest-slot order (R30, R32). -/
def State.fillLine (test : State → UnitRec → Bool) (s : State) (r : LineRef) : State :=
  (List.range Config.tableSlots).foldl (State.fillSlot test r) s

/-- The test of the exact fill: the unit's code is the line's code (R30). -/
def exactTest (r : LineRef) (s : State) (u : UnitRec) : Bool :=
  match s.line? r with
  | some l => decide (u.label.code = l.item.code)
  | none => false

/-- The test of the substitute search: a different code and an acceptable substitute (R32, R33). -/
def substituteTest (r : LineRef) (s : State) (u : UnitRec) : Bool :=
  !(exactTest r s u) && s.acceptable r u

/-- The exact fill of a build, in line order (R30, R31). -/
def State.exactFill (s : State) (p : Pos) : State :=
  (s.linesOf p).foldl (fun t r => t.fillLine (exactTest r) r) s

end Sys2Proof.Machine
end

