-- ==== Sys2Proof/Machine/Holds.lean ====
section
/-! DEFINITION. Causes that reach HC: their reports, the first fault of a build and the secondary set
(R168 to R171). -/

namespace Sys2Proof.Machine

/-- A cause as it reaches HC (R168). -/
structure Raised where
  cause : Cause
  unit : Option UnitNo
  value : Nat
  byCheck : Bool
  deriving DecidableEq, Repr

/-- A cause that no check raised. -/
def Raised.plain (c : Cause) (u : Option UnitNo) (v : Nat) : Raised := ⟨c, u, v, false⟩

/-- The units a cause names for the named list of CHILL_EXPIRED (R118). -/
def Raised.named (c : Raised) : List UnitNo :=
  if c.cause = .chillExpired then c.unit.toList else []

/-- A unit joins the end of a named list without duplicates (R118). -/
def addNamed (us : List UnitNo) (vs : List UnitNo) : List UnitNo :=
  vs.foldl (fun acc v => if acc.contains v then acc else acc ++ [v]) us

/-- A cause reaches a hold record that is not clear (R171). -/
def Hold.join (h : Hold) (c : Raised) : Hold :=
  let h' := { h with named := addNamed h.named c.named }
  if h.primary.cause = c.cause ∨ h.secondary.any (fun x => decide (x.cause = c.cause)) then h'
  else { h' with secondary := h.secondary ++ [⟨c.cause, c.byCheck⟩] }

/-- The put index a build stands at when no operation is pending: the first planned unit's, else the
last placed unit's, else 0 (R170). -/
def Build.restIndex (b : Build) : Nat :=
  match b.plan with
  | e :: _ => e.index
  | [] => match b.lastPlaced with
    | some x => x.index
    | none => 0

/-- The saved put index of a first fault (R170). -/
def State.standIndex (s : State) (p : Pos) : Nat :=
  match s.put p with
  | some r => r.index
  | none => (s.build p).restIndex

/-- The saved state of a first fault, by the build's state (R170); a build in CHECK and a PLAN_FULL
name theirs themselves. -/
def Build.savedState (b : Build) : SavedState :=
  match b.state with
  | .putting => .putting
  | .unloading => .unloading
  | _ => .gathering

/-- The report of a cause (R168). -/
def State.reportCause (p : Pos) (s : State) (c : Raised) : State :=
  s.report c.cause.code (some p) c.unit c.value

/-- The hold record of a first fault (R170). -/
def Hold.first (saved : SavedState) (idx : Nat) (c : Raised) : Hold :=
  { primary := ⟨c.cause, c.byCheck⟩, named := c.named, secondary := [], saved := saved,
    savedIndex := idx, next := saved, resolving := .none, resumed := [] }

/-- Causes of one event reach HC together: each is reported in code order, and the lowest is the
first fault or all join the hold record (R168, R170, R171). -/
def State.raiseAt (s : State) (p : Pos) (saved : SavedState) (idx : Nat) (cs : List Raised) : State :=
  let sorted := sortBy (fun x y : Raised => decide (x.cause.code < y.cause.code)) cs
  match sorted with
  | [] => s
  | c :: rest =>
    let t := sorted.foldl (State.reportCause p) s
    match t.hold p with
    | some h => t.setHold p (some (sorted.foldl Hold.join h))
    | none =>
      let u := t.setHold p (some (rest.foldl Hold.join (Hold.first saved idx c)))
      ((u.setBuild p { u.build p with state := .held }).showBuild p).tryRemoval p

/-- One cause reaches HC for a build in its present state, and PV shows the cells of what it suspends and
of what CHILL_EXPIRED names (R89, R90). -/
def State.raise (s : State) (p : Pos) (c : Raised) : State :=
  (s.raiseAt p (s.build p).savedState (s.standIndex p) [c]).showTray p

end Sys2Proof.Machine
end

