-- ==== Sys2Proof/Machine/Builds.lean ====
section
/-! DEFINITION. The Build Engine: check and seal (R44, R45), puts one after another (R40, R41),
coverage and plans (R38), regathering (R31), a line uncovered in PUTTING (R42), matching (R34), the
return to EMPTY (R50), unloading (R49), and HC's way from one cause to the next (R178, R179). -/

namespace Sys2Proof.Machine

/-! ### Check and seal -/

/-- A build enters SEALED and CU produces DONE with the flags, the placed total and the measured
weight of this moment (R45, R107, R138). -/
def State.seal (s : State) (p : Pos) (total : Nat) (weight : Int) : State :=
  let t := (s.setBuild p { s.build p with state := .sealed, trayWanted := false }).showBuild p
  match (t.build p).link with
  | some o =>
    t.produceCu (.done o (t.vu.get p).sticky (BitVec.ofNat 24 total) (BitVec.ofNat 16 weight.toNat))
  | none => t

/-- The measured weight total of a build (R44). -/
def Build.weight (b : Build) : Int := (b.content.map (·.weight)).sum

/-- The true ordered total of a build (R100). -/
def Build.ordered (b : Build) : Nat := (b.lines.map (fun l => l.item.quantity * l.item.value)).sum

/-- The true placed total of a build (R100). -/
def Build.placedValue (b : Build) : Nat := (b.content.map (·.value)).sum

/-- The totals and causes of a check of a build (R100 to R102). -/
def State.checkOf (s : State) (p : Pos) : CheckResult :=
  let b := s.build p
  match s.infoOf p with
  | some i => checkTotals b.ordered b.placedValue i.down i.up
  | none => checkTotals b.ordered b.placedValue 0 0

/-- The causes a check hands to HC: OVERWEIGHT always, the masked valuation causes unless this hold
resolved them by RESUME (R44, R102, R179). -/
def State.checkCauses (s : State) (p : Pos) (resumed : List Cause) : List Raised :=
  let r := s.checkOf p
  let w := (s.build p).weight
  let limit := ((s.trayOf p).limit : Int)
  let m := r.causes.inter s.jc.setup.holdMask
  let found : List Raised :=
    (if m.clamped then [⟨.clamped, none, Config.maxTotal, true⟩] else [])
      ++ (if m.bandLow then [⟨.bandLow, none, r.low - r.total, true⟩] else [])
      ++ (if m.bandHigh then [⟨.bandHigh, none, r.total - r.high, true⟩] else [])
  (if limit < w then [⟨.overweight, none, (w - limit).toNat, true⟩] else [])
    ++ found.filter (fun c => !resumed.contains c.cause)

/-- CHECK: VU records the causes, and the build is held on those that reach HC or seals (R44, R102). -/
def State.runCheck (s : State) (p : Pos) (resumed : List Cause) : State :=
  let r := s.checkOf p
  let cs := s.checkCauses p resumed
  let t := s.setVal p ⟨r.causes, (s.vu.get p).sticky.union r.causes⟩
  if cs.isEmpty then t.seal p r.total (s.build p).weight
  else t.raiseAt p .check (t.standIndex p) cs

/-! ### Puts one after another -/

/-- PV starts the put of a planned unit that is EARMARKED: the unit becomes PUTTING, its line's counts
change, the put record is made, and the POSITION record is sent where its k of n is new (R15, R37, R75; DESIGN
CHOICE, log 50). -/
def State.startPut (s : State) (p : Pos) (e : PlanEntry) : State :=
  match s.su.slotOf e.unit with
  | none => s
  | some i =>
    match s.su.slot i with
    | .occupied u (.earmarked q l) =>
      if q = p then
        let t := (s.setSlot i (.occupied u (.putting p l))).modLine p l
          (fun x => { x with earmarked := x.earmarked - 1, putting := x.putting + 1 })
        ((t.showShelf.setPut p (some (putRecord u e (s.baseline p)))).showTray p).showBuild p
      else s
    | _ => s

/-- A PUTTING build with its tare goes on: the next planned put starts, or CHECK when the plan is
empty and every line covered (R41). -/
def State.nextPut (s : State) (p : Pos) : State :=
  let b := s.build p
  if b.state = .putting ∧ b.tare.isSome ∧ !b.trayWanted ∧ !b.regatherDue ∧ (s.put p).isNone then
    match b.plan with
    | [] => if b.covered then s.runCheck p [] else s
    | e :: _ => if s.hc.stopped then s.showBuild p else s.startPut p e
  else s

/-- A stable reading of 100 g or more becomes the tare, and the first put starts (R40). -/
def State.takeTare (s : State) (p : Pos) : State :=
  if (s.build p).state = .putting ∧ (s.build p).trayWanted ∧ !s.hc.stopped then
    match s.baseline p with
    | some r => ((s.setBuild p { s.build p with tare := some r, trayWanted := false }).showBuild p).nextPut p
    | none => s
  else s

/-- A build enters PUTTING with a plan; tray wanted is set when it has no tare (R38, R40). -/
def State.enterPutting (s : State) (p : Pos) (plan : List PlanEntry) : State :=
  let b := s.build p
  let t := (s.setBuild p { b with
    state := .putting, plan := plan, trayWanted := b.tare.isNone, regatherDue := false }).showBuild p
  (t.takeTare p).nextPut p

/-- PLAN_FULL with its unit and value (R66). -/
def PlanFail.cause : PlanFail → Raised
  | .place u => .plain .planFull (some u) 0
  | .weight w => .plain .planFull none w.toNat

/-- A plan that fails holds the build with saved state GATHERING (R38, R43, R66). Through such a hold
the build has no plan (R23): an older plan is discarded before the cause is raised, and the saved put
index is then that of the pending put or of the last placed unit (R170). DEDUCED (log 36). -/
def State.planFull (s : State) (p : Pos) (e : PlanFail) : State :=
  let t := s.setBuild p { s.build p with plan := [] }
  t.raiseAt p .gathering (t.standIndex p) [e.cause]

/-- The coverage test of a GATHERING build (R38). -/
def State.coverage (s : State) (p : Pos) : State :=
  if (s.build p).state = .gathering ∧ (s.build p).covered then
    match s.plan p with
    | .ok es => s.enterPutting p es
    | .error e => s.planFull p e
  else s

/-! ### Gathering -/

/-- BE hands every line of a build to XU that R36 allows. -/
def State.handLines (s : State) (p : Pos) : State := (s.linesOf p).foldl State.handLine s

/-- A build regathers: gather limit and exact waits restart, want sent is cleared, the exact fill is
made, lines are handed to XU and coverage is tested (R31). -/
def State.regather (s : State) (p : Pos) : State :=
  let b := s.build p
  let t := (s.setBuild p { b with
    state := .gathering, plan := [], trayWanted := false, regatherDue := false
    gatherLeft := some s.jc.setup.gatherLimit
    lines := b.lines.map (fun l =>
      { l with exactWait := .running s.jc.setup.exactWait, wantSent := false, wantRefused := false })
    }).showBuild p
  ((t.exactFill p).handLines p).coverage p

/-- A line of a build has lost a held unit: a GATHERING build gathers on, a PUTTING build regathers
once no put is pending, any other records the loss (R13, R36, R42, R43, R116). -/
def State.lineLost (s : State) (r : LineRef) : State :=
  match (s.build r.p).state with
  | .gathering => s.handLine r
  | .putting =>
    if s.putPending r.p then s.setBuild r.p { s.build r.p with regatherDue := true }
    else s.regather r.p
  | _ => s

/-- An EARMARKED unit of a line is lost at the chute or by expiry (R13, R37, R116). DESIGN CHOICE (log 37):
its plan entry, if it has one, stays until the plan is discarded. -/
def State.earmarkLost (s : State) (r : LineRef) : State :=
  (s.modLine r.p r.line (fun l => { l with earmarked := l.earmarked - 1 })).lineLost r

/-- The line takes a unit on the shelf, and a GATHERING build tests coverage (R34, R35, R38). DESIGN CHOICE
(log 58): the test, and the plan that follows from it, come right after this earmark (R37), and where one event
frees several units they do not wait for the event's end (R38). -/
def State.takeUnit (s : State) (i : Nat) (r : LineRef) : State := (s.earmark i r).coverage r.p

/-- Matching: the FREE unit of a slot is offered to the eligible builds in claim order and line order
(R34). -/
def State.matchUnit (s : State) (i : Nat) : State :=
  match (s.su.slot i).freeUnit with
  | none => s
  | some u =>
    match s.allLines.find? (fun r => (s.build r.p).eligible && s.lineMatches u r) with
    | some r => s.takeUnit i r
    | none => s

/-- Several freed units are offered one by one in the given (lowest-slot) order (R34); a build that one of them
covers plans before the next is offered (log 58). -/
def State.matchUnits (s : State) (is : List Nat) : State := is.foldl State.matchUnit s

/-- A record in a slot becomes FREE with free age 0, or RETURN when it is CHILLED at or above the
chill limit, and leaves the earmark order; it is not yet offered to matching (R6, R14, R15). -/
def State.shelve (s : State) (i : Nat) (u : UnitRec) : State :=
  let x : Slot := if s.overLimit u then .occupied { u with expired := true } .returned
    else .occupied u (.free 0)
  (s.setSlot i x).showShelf.dropEarmark u.number

/-- The slots whose units are EARMARKED for a build, lowest first. -/
def State.earmarkedSlots (s : State) (p : Pos) : List Nat :=
  (numbered 0 s.su.slots).filterMap (fun x => match x.2 with
    | .occupied _ (.earmarked q _) => if q = p then some x.1 else none
    | _ => none)

/-- The EARMARKED units of a build become FREE (R15). -/
def State.freeEarmarks (s : State) (p : Pos) : State :=
  (s.earmarkedSlots p).foldl (fun t i => match t.su.slot i with
    | .occupied u (.earmarked _ l) =>
      ((t.setSlot i (.occupied u (.free 0))).dropEarmark u.number).modLine p l
        (fun x => { x with earmarked := x.earmarked - 1 })
    | _ => t) s

/-! ### Back to EMPTY -/

/-- A position enters EMPTY: its expected entries are unlinked, its earmarks freed, every record of
the build cleared, its slot request withdrawn; the freed units go to matching and the positions look
(R27, R47, R50). -/
def State.enterEmpty (s : State) (p : Pos) : State :=
  let slots := s.earmarkedSlots p
  let t := (s.unlinkBuild p).freeEarmarks p
  let u := (((t.setBuild p .cleared).setVal p .reset).setHold p none).setPut p none
  (((u.matchUnits slots).releaseSlot p).showBuild p).lookAll

/-- CU releases an order: OPEN with released-by-me set, or STRANDED at a count of 3, and RELEASE is
produced (R135). -/
def State.releaseOrder (s : State) (o : OrderId) : State :=
  (s.modNotice o (fun n =>
    { n with
      state := if Config.maxReleases ≤ n.count then .stranded else .opened
      releasedByMe := true })).produceCu (.release o)

/-- The end of an unloading, by its reason (R50). -/
def State.endUnloading (s : State) (p : Pos) : State :=
  match (s.build p).link with
  | none => s.enterEmpty p
  | some o =>
    match (s.build p).unloadReason with
    | some .silent => (s.removeNotice o).enterEmpty p
    | _ => (s.releaseOrder o).enterEmpty p

/-- A build in UNLOADING goes on: it ends when its content list is empty, keeps a pending removal, or
asks for a slot for its last placed unit (R49). -/
def State.unloadOn (s : State) (p : Pos) : State :=
  if (s.build p).content.isEmpty then s.endUnloading p
  else if (s.put p).isSome then s
  else (s.requestSlot p).tryRemoval p

/-! ### From one cause to the next -/

/-- A pending operation that was suspended is judged again: it continues from the first stable
reading, and one in AWAIT_BASE takes a stable reading at once (R88, R89; log 14). -/
def State.resumeOp (s : State) (p : Pos) : State :=
  match s.put p with
  | none => s
  | some r =>
    if r.phase = .awaitBase then
      match s.baseline p with
      | some b => s.setPut p (some { r with phase := .awaitMove, baseline := some b, failed := false })
      | none => s
    else s.setPut p (some { r with resuming := true })

/-- A hold resolved into PUTTING: a new plan with the placed units fixed, or a regather when a line is
uncovered, once no put is pending (R42, R43, R179; log 15). -/
def State.backToPutting (s : State) (p : Pos) : State :=
  if (s.build p).covered then
    match s.plan p with
    | .ok es => s.enterPutting p es
    | .error e => s.planFull p e
  else if s.putPending p then
    (s.setBuild p { s.build p with state := .putting, regatherDue := true }).showBuild p
  else s.regather p

/-- A build leaves HELD into its next state with a cleared hold record (R43, R179). DESIGN CHOICE (log 47):
on the way into CHECK no POSITION record shows the build PUTTING ahead of the check's REPORTs and of the
state the check leads to. DESIGN CHOICE (log 52): on the way into PUTTING a pending put is resumed, and one in
AWAIT_BASE takes its baseline, before the new plan is asked for, and stays so where that plan fails. -/
def State.leaveHeld (s : State) (p : Pos) (h : Hold) : State :=
  let t := s.setHold p none
  match h.next with
  | .gathering => t.regather p
  | .putting => ((t.resumeOp p).backToPutting p).showTray p
  | .check => (t.setBuild p { t.build p with state := .putting }).runCheck p h.resumed
  | .unloading =>
    ((((t.setBuild p { t.build p with state := .unloading }).resumeOp p).showBuild p).showTray p).unloadOn p

/-- The primary cause is resolved: stale check causes are dropped, then the lowest secondary cause
becomes primary or the build leaves HELD (R178). -/
def State.proceed (s : State) (p : Pos) : State :=
  match s.hold p with
  | none => s
  | some h =>
    let rest := if h.next = .check then h.secondary else h.secondary.filter (fun c => !c.byCheck)
    match sortBy (fun x y : HeldCause => decide (x.cause.code < y.cause.code)) rest with
    | [] => s.leaveHeld p h
    | c :: cs =>
      ((s.setHold p (some { h with primary := c, secondary := cs, resolving := .none })).showBuild
        p).tryRemoval p

/-- The primary cause is resolved with GATHERING as the next state (R175 to R177). -/
def State.resolveToGathering (s : State) (p : Pos) : State :=
  match s.hold p with
  | none => s
  | some h => (s.setHold p (some { h with next := .gathering, resolving := .none })).proceed p

/-- A unit leaves the named list; a secondary CHILL_EXPIRED whose list is empty leaves the secondary
set (R120). -/
def Hold.dropNamed (h : Hold) (u : UnitNo) : Hold :=
  let us := h.named.filter (fun v => decide (v ≠ u))
  { h with
    named := us
    secondary := if us.isEmpty then h.secondary.filter (fun c => decide (c.cause ≠ .chillExpired))
      else h.secondary }

/-- A unit joins an exclusion list: at the newest place, the oldest leaving a full list (R51). -/
def addExclusion (xs : List UnitNo) (u : UnitNo) : List UnitNo :=
  let ys := xs.filter (fun v => decide (v ≠ u)) ++ [u]
  if Config.maxExclusion < ys.length then ys.drop 1 else ys

/-- A unit joins a build's exclusion list. -/
def State.exclude (s : State) (p : Pos) (u : UnitNo) : State :=
  s.setBuild p { s.build p with exclusion := addExclusion (s.build p).exclusion u }

end Sys2Proof.Machine
end

