-- ==== Sys2Proof/Machine/Puts.lean ====
section
/-! DEFINITION. The Weighing Front-End's sweep of a platform (R68 to R70) and the Put Verifier's
judging: confirm (R79), cancel (R80), faults (R82, R84), removals (R86), settles (R76, R77, R88). -/

namespace Sys2Proof.Machine

/-! ### Ends of a put -/

/-- The causes a put-confirm valuation hands to HC (R97). -/
def valuationCauses (mask : CauseSet) (u : UnitNo) (v : Valued) : List Raised :=
  let m := v.causes.inter mask
  (if m.invalid then [.plain .invalid (some u) v.value] else [])
    ++ (if m.clamped then [.plain .clamped (some u) v.value] else [])
    ++ (if m.inexact then [.plain .inexact (some u) v.value] else [])

/-- CHILL_EXPIRED is raised for a unit placed in a build, with its exposure as value (R118). -/
def State.raiseChill (p : Pos) (s : State) (u : UnitNo) : State :=
  match (s.build p).content.find? (fun x => decide (x.unit.number = u)) with
  | some x => s.raise p (.plain .chillExpired (some u) (x.unit.exposure.getD 0))
  | none => s

/-- A put that has ended leaves the build to regather or to its next put (R41, R42, R79). -/
def State.afterPut (s : State) (p : Pos) : State :=
  if (s.build p).state = .putting then
    if (s.build p).regatherDue then s.regather p else s.nextPut p
  else s

/-- A put is confirmed with a delta: hand-over to the content list, line counts, valuation, idle
record, held-back expiries, next put or CHECK (R79, R97, R117). -/
def State.confirmPut (s : State) (p : Pos) (delta : Int) : State :=
  match s.put p with
  | none => s
  | some r =>
    match s.su.slotOf r.unit with
    | none => s
    | some i =>
      match s.su.slot i with
      | .occupied u _ =>
        let b := s.build p
        let v := valueUnit s.jc.setup.mode u.label delta
        let s1 := s.setBuild p { b with
          content := b.content ++ [⟨u, r.line, r.start, r.index, delta, v.value⟩]
          plan := b.plan.filter (fun e => decide (e.unit ≠ u.number)) }
        let s2 := (s1.dropEarmark u.number).emptySlot i none
        let s3 := s2.modLine p r.line (fun l => { l with putting := l.putting - 1, placed := l.placed + 1 })
        let s4 := s3.setVal p ⟨v.causes, (s3.vu.get p).sticky.union v.causes⟩
        let s5 := s4.raiseAt p .putting (s4.build p).restIndex
          (valuationCauses s.jc.setup.holdMask u.number v)
        let s6 := (s5.setPut p none).showTray p
        (r.expiries.foldl (State.raiseChill p) s6).afterPut p
      | _ => s

/-- The unit of a cancelled put becomes FREE or RETURN, not yet offered to matching (R15, R80). -/
def State.cancelUnit (s : State) (r : PutRec) : State :=
  match s.su.slotOf r.unit with
  | none => s
  | some i => match s.su.slot i with
    | .occupied u _ => s.shelve i u
    | _ => s

/-- The record of a cancelled put: the line's putting count falls, the record is idle and its cells turn
OFF (R80). DESIGN CHOICE (log 37): the unit's entry stays in the plan until the plan is discarded. -/
def State.cancelRecord (s : State) (p : Pos) (r : PutRec) : State :=
  ((s.modLine p r.line (fun l => { l with putting := l.putting - 1 })).setPut p none).showTray p

/-- A pending put is cancelled (R80, R180); its unit is not yet offered to matching, and its plan entry
stays (DESIGN CHOICE, log 37). -/
def State.cancelPut (s : State) (p : Pos) (r : PutRec) : State := (s.cancelUnit r).cancelRecord p r

/-- REJECT cancels the pending put: exclusion, unit, matching, record, held-back expiries (R51, R80,
R83). DESIGN CHOICE (log 37): the rejected unit's entry is still in the plan when a held-back expiry is
raised, so the hold saves its put index. -/
def State.rejectPut (s : State) (p : Pos) (r : PutRec) : State :=
  let t := (s.exclude p r.unit).cancelUnit r
  let u := match t.su.slotOf r.unit with
    | some i => t.matchUnit i
    | none => t
  (r.expiries.filter (fun v => decide (v ≠ r.unit))).foldl (State.raiseChill p) (u.cancelRecord p r)

/-- A fault ends an operation's judging and reaches HC (R84). -/
def State.faultOp (s : State) (p : Pos) (r : PutRec) (c : Cause) (v : Nat) : State :=
  (s.raise p (.plain c (some r.unit) v)).setPut p
    (some { r with phase := .faulted, before := r.phase, confirmMark := false, resuming := false })

/-! ### Ends of a removal (R86) -/

/-- A removed unit's record leaves the content list; its line loses one placed unit and the put record
is idle (R37, R86). -/
def State.takeOut (s : State) (p : Pos) (r : PutRec) : State :=
  let b := s.build p
  (((s.setBuild p { b with
    content := b.content.filter (fun x => decide (x.unit.number ≠ r.unit)) }).modLine p r.line
      (fun l => { l with placed := l.placed - 1 })).setPut p none).showTray p

/-- A record is handed back to its reserved slot, as FREE and offered to matching or as RETURN (R14). -/
def State.handBack (s : State) (p : Pos) (u : UnitRec) : State :=
  match s.su.reservedSlot p with
  | some i => (s.shelve i u).matchUnit i
  | none => s

/-- A removal is verified, and BE proceeds by its purpose (R86, R119, R120, R176, R177). -/
def State.verifyRemoval (s : State) (p : Pos) (r : PutRec) (pu : Purpose) : State :=
  match (s.build p).content.find? (fun x => decide (x.unit.number = r.unit)) with
  | none => s.setPut p none
  | some x =>
    let t := s.takeOut p r
    match pu with
    | .unload => ((t.handBack p x.unit).showBuild p).unloadOn p
    | .undo =>
      let u := t.exclude p r.unit
      ((match u.hold p with
        | some h => u.setHold p (some (h.dropNamed r.unit))
        | none => u).handBack p x.unit).resolveToGathering p
    | .chill =>
      match t.hold p with
      | none => t
      | some h =>
        let h' := h.dropNamed r.unit
        let u := t.setHold p (some h')
        if h'.named.isEmpty then u.resolveToGathering p else u.tryRemoval p

/-- A removal fails: an UNLOAD faults like a put, an UNDO or CHILL removal waits for a new baseline (R86). -/
def State.failRemoval (s : State) (p : Pos) (r : PutRec) (pu : Purpose) (c : Cause) (v : Nat) : State :=
  match pu with
  | .unload => s.faultOp p r c v
  | _ => s.setPut p (some { r with phase := .awaitBase, baseline := none, failed := true, resuming := false })

/-! ### Judging -/

/-- The settle: a put faults, is confirmed or waits SETTLED for CONFIRM (R77); a removal is verified, or
fails outside its tolerance and at any positive delta (R86). -/
def State.judge (s : State) (p : Pos) (r : PutRec) (delta : Int) : State :=
  let off := (delta - r.expected).natAbs
  match r.kind with
  | .put =>
    if delta ≤ -(Config.movement : Int) then s.faultOp p r .putRemoved delta.natAbs
    else if r.tolerance < off then s.faultOp p r .putMismatch off
    else if s.jc.setup.autoConfirm || r.confirmMark then s.confirmPut p delta
    else s.setPut p (some { r with phase := .settled, settledDelta := some delta, resuming := false })
  | .removal pu =>
    if off ≤ r.tolerance ∧ delta ≤ 0 then s.verifyRemoval p r pu else s.failRemoval p r pu .putMismatch off

/-- The distance between a reading and another value. -/
def apart (x : Nat) (y : Int) : Nat := ((x : Int) - y).natAbs

/-- The effect of one sweep result that is not OVERRANGE, by phase (R76), or by the rule for the first
stable reading after a suspension (R88). -/
def State.judgeSweep (s : State) (p : Pos) (r : PutRec) (filtered stable : Option Nat) : State :=
  let base : Int := ((r.baseline.getD 0 : Nat) : Int)
  if r.resuming then
    match stable with
    | none => s
    | some x =>
      let q := { r with resuming := false }
      match r.phase with
      | .awaitBase =>
        if Config.trayMark ≤ x then
          s.setPut p (some { q with phase := .awaitMove, baseline := some x, failed := false })
        else s
      | .awaitMove =>
        if Config.movement ≤ apart x base then
          s.judge p { q with phase := .awaitSettle } ((x : Int) - base)
        else s.setPut p (some q)
      | .awaitSettle => s.judge p q ((x : Int) - base)
      | .settled =>
        if apart x (base + r.settledDelta.getD 0) < Config.movement then s.setPut p (some q)
        else s.judge p { q with phase := .awaitSettle, settledDelta := none } ((x : Int) - base)
      | .faulted => s
  else match r.phase with
    | .awaitBase =>
      match stable with
      | some x =>
        if Config.trayMark ≤ x then
          s.setPut p (some { r with phase := .awaitMove, baseline := some x, failed := false })
        else s
      | none => s
    | .awaitMove =>
      match filtered with
      | some f =>
        if Config.movement ≤ apart f base then s.setPut p (some { r with phase := .awaitSettle }) else s
      | none => s
    | .awaitSettle =>
      match stable with
      | some x => s.judge p r ((x : Int) - base)
      | none => s
    | .settled =>
      match filtered with
      | some f =>
        if Config.movement ≤ apart f (base + r.settledDelta.getD 0) then
          s.setPut p (some { r with phase := .awaitSettle, settledDelta := none })
        else s
      | none => s
    | .faulted => s

/-- The index of the lowest saturated cell of a platform, if one is (R68, R84). -/
def saturatedCell (q : Quad) : Option Nat :=
  [q.c0, q.c1, q.c2, q.c3].findIdx? (fun x => decide (Config.saturated ≤ x))

/-- The gross of a platform's readings (R68). -/
def grossOf (q : Quad) : Nat := q.c0 + q.c1 + q.c2 + q.c3

/-- Whether an operation is being judged: not while STOPPED, HELD or FAULTED (R84, R88, R89). -/
def State.judged (s : State) (p : Pos) (r : PutRec) : Bool :=
  !s.hc.stopped && !s.heldSuspends p r && decide (r.phase ≠ .faulted)

/-- The effect of a sweep result on an operation that is being judged (R76, R82, R86). -/
def State.judgeResult (s : State) (p : Pos) (r : PutRec) (q : Quad) : State :=
  match saturatedCell q with
  | some i =>
    match r.kind with
    | .put => s.faultOp p r .scaleOverrange i
    | .removal pu => s.failRemoval p r pu .scaleOverrange i
  | none => s.judgeSweep p r (s.wf.get p).filteredValue (s.stable p)

/-- PV takes a sweep result of its platform, and shows the cells of the phase it leaves (R76, R90). -/
def State.sweepOp (s : State) (p : Pos) (q : Quad) : State :=
  match s.put p with
  | none => s
  | some r => if s.judged p r then (s.judgeResult p r q).showTray p else s

/-! ### The sweep -/

/-- The last n members of a list. -/
def lastN {α : Type} (n : Nat) (xs : List α) : List α := xs.drop (xs.length - n)

/-- WF's record of a platform after one sweep (R68 to R70). -/
def Platform.sweep (w : Platform) (q : Quad) : Platform :=
  let grosses := lastN 4 (w.grosses ++ [grossOf q])
  { grosses := grosses
    filtered := if grosses.length < 4 then w.filtered else lastN 10 (w.filtered ++ [grosses.sum / 4])
    overMarks := lastN 13 (w.overMarks ++ [(saturatedCell q).isSome]) }

/-- Dispatch: a stable gross below 100 g under a SEALED build (R46). -/
def State.dispatch (s : State) (p : Pos) : State :=
  if (s.build p).state = .sealed then
    match s.stable p with
    | some r =>
      if r < Config.trayMark then
        match (s.build p).link with
        | some o => (s.removeNotice o).enterEmpty p
        | none => s.enterEmpty p
      else s
    | none => s
  else s

/-- A platform's sweep result is taken by PV and then by BE (R40, R46, R68). -/
def State.sweepResult (readings : PerPos Quad) (s : State) (p : Pos) : State :=
  (((s.sweepOp p (readings.get p)).takeTare p).dispatch p)

/-- WF reads the cells of a fitted platform. -/
def State.readPlatform (readings : PerPos Quad) (s : State) (p : Pos) : State :=
  s.setPlatform p ((s.wf.get p).sweep (readings.get p))

end Sys2Proof.Machine
end

