-- ==== Sys2Proof/Machine/Granting.lean ====
section
/-! DEFINITION. XU's serving of its ask queue (R16, R156, R157), STOPPED and ISOLATED as the blocks
take them (R142, R165, R166, R185, R200), the way into ACTIVE (R205), and the end of a command. -/

namespace Sys2Proof.Machine

/-! ### Serving -/

/-- A FREE unit with its slot, a candidate for a grant (R156). -/
structure Grantable where
  slot : Nat
  unit : UnitRec
  deriving DecidableEq, Repr

/-- The order of choosing: CHILLED units first, most exposed first, then lowest slots (R16, R156). -/
def grantBefore (x y : Grantable) : Bool :=
  match x.unit.exposure, y.unit.exposure with
  | some a, some b => if a = b then decide (x.slot < y.slot) else decide (b < a)
  | some _, none => true
  | none, some _ => false
  | none, none => decide (x.slot < y.slot)

/-- The FREE units of a code in the order of choosing. -/
def State.grantable (s : State) (c : ItemCode) : List Grantable :=
  sortBy grantBefore ((numbered 0 s.su.slots).filterMap (fun x =>
    match x.2.freeUnit with
    | some u => if u.label.code = c then some ⟨x.1, u⟩ else none
    | none => none))

/-- The first sequence number from a start that no outbound entry holds (R157). -/
def freeSeq (held : List Seq) : List Seq → Seq → Seq
  | [], n => n
  | _ :: fuel, n => if held.contains n then freeSeq held fuel (n + 1#8) else n

/-- The sequence number the next GRANT takes (R157). -/
def State.nextSeq (s : State) : Seq :=
  let held := s.xu.outbound.map (·.seq)
  freeSeq held held s.xu.seq

/-- Whether the head of the ask queue can be served (R156). -/
def State.canServe (s : State) : Bool :=
  s.gateOpen && s.xu.waiting.isEmpty && s.lp.hasSpace && !s.anyWaiting

/-- The units an ask is granted: the smaller of the asked quantity and the FREE count, and none when
the outbound list is full (R156). -/
def State.chosenFor (s : State) (a : AskEntry) : List Grantable :=
  if s.xu.outbound.length < Config.maxTransfers then (s.grantable a.code).take a.quantity else []

/-- The head of the ask queue is served in one step (R16, R156, R157). DESIGN CHOICE (log 49): the slots are
emptied one by one in the order the units were chosen, and each goes to a waiting request as it becomes empty,
so that the oldest request gets the first chosen unit's slot and not the lowest of those emptied. -/
def State.serve (s : State) (a : AskEntry) (rest : List AskEntry) : State :=
  let chosen := s.chosenFor a
  let n := s.nextSeq
  let units := chosen.map (·.unit)
  let f : Frame := .grant a.asker n a.code (units.map (fun u => BitVec.ofNat 16 (u.exposure.getD 0)))
  let t := s.setXu { s.xu with
    askQueue := rest
    seq := n + 1#8
    outbound := if units.isEmpty then s.xu.outbound
      else s.xu.outbound ++ [⟨n, a.asker, units, 0⟩] }
  let u := chosen.foldl (fun v g => v.emptySlot g.slot (some n)) t
  u.pruneClocks.transmit f

/-- The head of the ask queue is served, if it can be (R156). -/
def State.serveOne (s : State) : State :=
  match s.xu.askQueue with
  | [] => s
  | a :: rest => if s.canServe then s.serve a rest else s

/-- Asks are served while they can be (R156); the fuel is the capacity of the ask queue. -/
def State.serveAsks : Nat → State → State
  | 0, s => s
  | n + 1, s =>
    if s.canServe && !s.xu.askQueue.isEmpty then State.serveAsks n s.serveOne else s

/-! ### The end of a command -/

/-- The outcome of a command: what it changed on the panel is sent (R187). -/
def finish (s : State) : Host.Outcome State Fault Refusal := .next s.flush

/-- The outcome of a command that may let asks be served: they are served at this first moment (R156).
DESIGN CHOICE (log 45): that moment is the command's end, after the positions have looked. -/
def finishServing (s : State) : Host.Outcome State Fault Refusal :=
  finish (State.serveAsks Config.maxAsks s)

/-! ### STOPPED, ISOLATED and ACTIVE -/

/-- The bench becomes STOPPED: XU empties its ask queue and discards its waiting ASKs with their
records; every other block reads STOPPED where it acts (R165, R185). -/
def State.enterStopped (s : State) : State :=
  let refs := s.xu.waiting.filterMap (·.line)
  let t := (s.setHc { s.hc with stopped := true }).setXu { s.xu with askQueue := [] }
  refs.foldl State.clearAsk t

/-- An operation that is judged again now that STOPPED has cleared continues as one that leaves a hold
does (R88; log 14). -/
def State.resumeJudged (s : State) (p : Pos) : State :=
  match s.put p with
  | some r => if s.judged p r then (s.resumeOp p).showTray p else s
  | none => s

/-- STOPPED clears: lamps are sent for the state of this moment, suspended operations continue, held
back puts and removals start, positions look and lines are handed (R21, R26, R27, R36, R41, R85, R88,
R185). DESIGN CHOICE (log 38): the manual gives no order among these; the positions look before the
lines are handed to XU. DESIGN CHOICE (log 56): the lamps' records go first. -/
def State.clearStopped (s : State) : State :=
  let t := (s.setHc { s.hc with stopped := false }).resendLamps
  let resumed := t.fittedPos.foldl State.resumeJudged t
  let started := resumed.fittedPos.foldl (fun u p => (u.nextPut p).tryRemoval p) resumed
  let looked := started.lookAll
  looked.allLines.foldl State.handLine looked

/-- A MARKED notice's link is broken: CU withdraws the CLAIM, the notice changes, and the position
returns to EMPTY (R29, R129). DESIGN CHOICE (log 45): the position looks before the ask queue is served, so
a CLAIM it makes may take the place the withdrawn one frees. -/
def State.breakLink (s : State) (p : Pos) (o : OrderId) (state : NoticeState) : State :=
  ((s.withdrawClaim o).modNotice o (fun n => { n with state := state })).enterEmpty p

/-- Whether this station's CLAIM of an order has started: it is on the line, or it has completed and
waits in the hand-over sequence (R29, R142, R194). DESIGN CHOICE (log 44): it is told by the order id, so
that an older own CLAIM of the order that has started counts for a notice marked again since. -/
def State.claimStarted (s : State) (o : OrderId) : Bool :=
  decide (s.lp.started.map (·.frame) = some (.claim o)) ||
    s.lp.handover.any (fun h => h.own && decide (h.kind = .claim) && decide (h.body = (Frame.claim o).body))

/-- On isolation a position whose CLAIM has not started loses its notice: OPEN, or STRANDED at 3 (R142). -/
def State.isolatePosition (s : State) (p : Pos) : State :=
  match (s.build p).link with
  | none => s
  | some o =>
    if (s.build p).state = .claiming ∧ s.claimStarted o = false then
      let count := match s.notice? o with
        | some n => n.count
        | none => 0
      s.breakLink p o (if Config.maxReleases ≤ count then .stranded else .opened)
    else s

/-- The station becomes ISOLATED: LP discards its queue and what waits, XU its ask queue and ask
records, CU breaks the links of unstarted CLAIMs (R142, R166, R200, R205). -/
def State.enterIsolated (s : State) : State :=
  let t := s.setJc { s.jc with state := .isolated, joinLeft := none, rollLeft := none, rollOwed := false }
  let u := t.setLp { t.lp with
    queue := [], contending := none, started := t.lp.started.map (fun x => { x with holdsPlace := false }) }
  let v := (u.setHc { u.hc with haltsWaiting := 0 }).setCu { u.cu with waiting := [] }
  let w := v.setXu { v.xu with askQueue := [], waiting := [] }
  let x := (w.xu.asks.map (·.line)).foldl State.clearAsk w
  x.fittedPos.foldl State.isolatePosition x

/-- The station enters ACTIVE: the roll period starts and the positions look (R27, R205, R207). -/
def State.enterActive (s : State) : State :=
  (s.setJc { s.jc with
    state := .active, joinLeft := none, rollLeft := some Config.rollPeriod, rollOwed := false }).lookAll

end Sys2Proof.Machine
end

