-- ==== Sys2Proof/Machine/Claims.lean ====
section
/-! DEFINITION. The frames of CU as it takes them: NOTICE (R126 to R128), CLAIM (R30, R130, R131), PRIOR
(R133, R134), RELEASE (R136) and DONE (R139). -/

namespace Sys2Proof.Machine

/-! ### The notice list -/

/-- Whether a notice is OTHERS. -/
def Notice.isOthers (n : Notice) : Bool :=
  match n.state with
  | .others _ => true
  | _ => false

/-- The notice a full list evicts: the oldest OTHERS, else the oldest STRANDED, else the oldest OPEN
skeleton (R127). -/
def evicted (ns : List Notice) : Option Notice :=
  match ns.find? Notice.isOthers with
  | some n => some n
  | none => match ns.find? (fun n => decide (n.state = .stranded)) with
    | some n => some n
    | none => ns.find? (fun n => decide (n.state = .opened) && n.info.isNone)

/-- The list with room for one more notice, if room can be had (R127). -/
def State.makeRoom (s : State) : Option State :=
  if s.cu.notices.length < Config.maxNotices then some s
  else match evicted s.cu.notices with
    | some n => some (s.removeNotice n.order)
    | none => none

/-- A notice joins the list at its end (R123). -/
def State.joinNotice (s : State) (n : Notice) : State :=
  s.setCu { s.cu with notices := s.cu.notices ++ [n] }

/-- A count raised by one, at most 3 (R123). -/
def countUp (c : Nat) : Nat := min (c + 1) Config.maxReleases

/-- OPEN, or STRANDED at a count of 3 (R124). -/
def openAt (c : Nat) : NoticeState := if Config.maxReleases ≤ c then .stranded else .opened

/-- Given up by its holder: OPEN, or STRANDED at 3, at a count raised by one (R136, R140). -/
def Notice.reopen (n : Notice) : Notice := { n with state := openAt (countUp n.count), count := countUp n.count }

/-- Whether a notice is OPEN and no skeleton: what makes the EMPTY positions look (R27, R127, R136, R140). -/
def Notice.offersItself (n : Notice) : Bool := decide (n.state = .opened) && n.info.isSome

/-! ### NOTICE -/

/-- A notice of an order id not in the list (R127). -/
def freshNotice (b : WireNotice) (i : NoticeInfo) : Notice :=
  { order := b.order, info := some i, state := openAt b.count, count := b.count, releasedByMe := false }

/-- A NOTICE of an unknown order (R127). -/
def State.newNotice (s : State) (b : WireNotice) (i : NoticeInfo) : State :=
  match s.makeRoom with
  | none => s.benchReport .noticeDropped none i.rank
  | some t =>
    let u := t.joinNotice (freshNotice b i)
    if (freshNotice b i).offersItself then u.lookAll else u

/-- The state of a notice after a NOTICE of a higher round (R128). -/
def Notice.raisedState (n : Notice) (count : Nat) : NoticeState :=
  match n.state with
  | .opened => openAt count
  | .others _ => openAt count
  | st => st

/-- A notice after a NOTICE of its order: filled in if it was a skeleton, raised by a higher round (R128). -/
def Notice.update (n : Notice) (b : WireNotice) (i : NoticeInfo) : Notice :=
  let m := if n.info.isNone then { n with info := some i } else n
  if n.count < b.count then
    { m with state := n.raisedState b.count, count := b.count, releasedByMe := false }
  else m

/-- Whether an update makes every EMPTY position look: the notice became OPEN, was filled in while OPEN,
or had released-by-me cleared while OPEN (R128). -/
def Notice.updateLooks (n m : Notice) : Bool :=
  decide (m.state = .opened) &&
    (decide (n.state ≠ .opened) || n.info.isNone || (n.releasedByMe && !m.releasedByMe))

/-- A NOTICE that has passed the check of R126 (R127, R128). -/
def State.takeNotice (s : State) (b : WireNotice) (i : NoticeInfo) : State :=
  match s.notice? b.order with
  | none => s.newNotice b i
  | some n =>
    let t := s.modNotice b.order (fun m => m.update b i)
    if n.updateLooks (n.update b i) then t.lookAll else t

/-- NOTICE handed to CU (R126 to R128). -/
def execNotice (s : State) : Host.Outcome State Fault Refusal :=
  match s.handOver .notice with
  | none => .next s
  | some (h, t) =>
    match Frame.ofBody h.kind h.body with
    | some (.notice b) => match b.check with
      | some i => finish (t.takeNotice b i)
      | none => finish t
    | _ => finish t

/-! ### CLAIM -/

/-- Whether CU takes a frame as this station's own: its sender is this station, and not another (R125).
A received frame with this station's number is such a frame as well (log 8). -/
def State.fromSelf (s : State) (h : Handed) : Bool := decide (h.sender = s.jc.station)

/-- The builds that hold claim orders take 1, 2 and so on in their order (R25). -/
def renumberFrom : Nat → List Pos → State → State
  | _, [], s => s
  | n, p :: ps, s => renumberFrom (n + 1) ps (s.setBuild p { s.build p with claimOrder := some n })

/-- The claim counter increases, the builds renumbered first when it stands at 65535 (R25). -/
def State.countClaim (s : State) : State :=
  if s.claimCounter < 65535 then s.setCounter (s.claimCounter + 1)
  else (renumberFrom 1 s.byClaimOrder s).setCounter (s.byClaimOrder.length + 1)

/-- A new line record (R30). -/
def LineRec.fresh (wait : Nat) (l : OrderLine) : LineRec :=
  { item := l, earmarked := 0, putting := 0, placed := 0, pendingAsk := 0, incoming := 0
    exactWait := .running wait, wantSent := false, wantRefused := false, orderedClass := none }

/-- The order lines of a notice. -/
def State.orderLines (s : State) (o : OrderId) : List OrderLine :=
  match (s.notice? o).bind (·.info) with
  | some i => i.lines
  | none => []

/-- A claim succeeds: MINE, and the build enters GATHERING (R30, R130). -/
def State.claimSuccess (s : State) (p : Pos) (o : OrderId) : State :=
  let t := (s.modNotice o (fun n => { n with state := .mine p })).countClaim
  let u := (t.setBuild p { t.build p with
    state := .gathering, claimOrder := some t.claimCounter
    lines := (t.orderLines o).map (LineRec.fresh t.jc.setup.exactWait)
    gatherLeft := some t.jc.setup.gatherLimit }).showBuild p
  ((u.exactFill p).handLines p).coverage p

/-- A CLAIM from another of an unknown order makes a skeleton (R131). -/
def State.makeSkeleton (s : State) (o : OrderId) (k : Station) : State :=
  match s.makeRoom with
  | none => s.benchReport .noticeDropped none 8
  | some t => t.joinNotice ⟨o, none, .others k, 0, false⟩

/-- A CLAIM from another station (R131). -/
def State.claimByOther (s : State) (o : OrderId) (k : Station) : State :=
  match s.notice? o with
  | none => s.makeSkeleton o k
  | some n => match n.state with
    | .opened => s.modNotice o (fun n => { n with state := .others k })
    | .marked p => s.breakLink p o (.others k)
    | .mine _ => s.producePrior o
    | .others _ => s
    | .stranded => s
    | .gone _ _ => s

/-- This station's own CLAIM handed back (R130). -/
def State.claimBack (s : State) (o : OrderId) : State :=
  match s.notice? o with
  | some n => match n.state with
    | .marked p => s.claimSuccess p o
    | _ => s
  | none => s

/-- CLAIM handed to CU (R130, R131). -/
def execClaim (s : State) : Host.Outcome State Fault Refusal :=
  match s.handOver .claim with
  | none => .next s
  | some (h, t) =>
    match Frame.ofBody h.kind h.body with
    | some (.claim o) =>
      finishServing (if t.fromSelf h then t.claimBack o else t.claimByOther o h.sender)
    | _ => finish t

/-! ### PRIOR -/

/-- A MINE notice goes to another holder with its link kept: GONE (R133, R134, R139). -/
def State.goGone (s : State) (p : Pos) (o : OrderId) (k : Station) : State :=
  s.modNotice o (fun n => { n with state := .gone p (some k) })

/-- The unload reason becomes SILENT (R133, R139). -/
def State.silence (s : State) (p : Pos) : State :=
  s.setBuild p { s.build p with unloadReason := some .silent }

/-- ORDER_GONE is raised with the new holder as value (R47, R48, R168). -/
def State.raiseGone (s : State) (p : Pos) (k : Station) : State :=
  s.raise p (.plain .orderGone none k.toNat)

/-- A PRIOR names another holder for a MINE notice (R47, R133, R134, R181). -/
def State.yieldTo (s : State) (p : Pos) (o : OrderId) (k : Station) : State :=
  if (s.build p).state = .sealed then s
  else if s.countsUnloading p then (s.goGone p o k).silence p
  else if (s.build p).content.isEmpty && !s.putPending p then
    (s.modNotice o (fun n => { n with state := .others k })).enterEmpty p
  else (s.goGone p o k).raiseGone p k

/-- A PRIOR naming another holder (R133). -/
def State.takePrior (s : State) (o : OrderId) (k : Station) : State :=
  match s.notice? o with
  | none => s
  | some n => match n.state with
    | .opened => s.modNotice o (fun n => { n with state := .others k })
    | .marked p => s.breakLink p o (.others k)
    | .mine p => s.yieldTo p o k
    | .others _ => s.modNotice o (fun n => { n with state := .others k })
    | .stranded => s.modNotice o (fun n => { n with state := .others k })
    | .gone p _ => s.goGone p o k

/-- PRIOR handed to CU; one whose holder is this station's own number changes nothing (R133). -/
def execPrior (s : State) : Host.Outcome State Fault Refusal :=
  match s.handOver .prior with
  | none => .next s
  | some (h, t) =>
    match Frame.ofBody h.kind h.body with
    | some (.prior o k) => if k = t.jc.station then finish t else finishServing (t.takePrior o k)
    | _ => finish t

/-! ### RELEASE -/

/-- A notice after a RELEASE of a station (R136). -/
def Notice.release (n : Notice) (k : Station) : Notice :=
  match n.state with
  | .others j => if j = k then n.reopen else n
  | .opened => n.reopen
  | .marked _ => { n with count := countUp n.count }
  | .mine _ => n
  | .stranded => n
  | .gone _ _ => n

/-- A RELEASE of a station, this one included (R136). -/
def State.takeRelease (s : State) (o : OrderId) (k : Station) : State :=
  match s.notice? o with
  | none => s
  | some n =>
    let t := s.modNotice o (fun m => m.release k)
    if n.isOthers && (n.release k).offersItself then t.lookAll else t

/-- RELEASE handed to CU (R136). -/
def execRelease (s : State) : Host.Outcome State Fault Refusal :=
  match s.handOver .release with
  | none => .next s
  | some (h, t) =>
    match Frame.ofBody h.kind h.body with
    | some (.release o) => finish (t.takeRelease o h.sender)
    | _ => finish t

/-! ### DONE -/

/-- Another station's DONE for a MINE notice (R48, R139, R181). -/
def State.doneByOther (s : State) (p : Pos) (o : OrderId) (k : Station) : State :=
  if (s.build p).state = .sealed then s
  else if s.countsUnloading p then ((s.goGone p o k).silence p).raiseGone p k
  else (s.goGone p o k).raiseGone p k

/-- A DONE of a station (R139). -/
def State.takeDone (s : State) (o : OrderId) (k : Station) (own : Bool) : State :=
  match s.notice? o with
  | none => s
  | some n => match n.state with
    | .mine p => if own then s else s.doneByOther p o k
    | .marked p => ((s.withdrawClaim o).removeNotice o).enterEmpty p
    | .gone _ _ => s
    | .opened => s.removeNotice o
    | .others _ => s.removeNotice o
    | .stranded => s.removeNotice o

/-- DONE handed to CU (R139). -/
def execDone (s : State) : Host.Outcome State Fault Refusal :=
  match s.handOver .done with
  | none => .next s
  | some (h, t) =>
    match Frame.ofBody h.kind h.body with
    | some (.done o _ _ _) => finishServing (t.takeDone o h.sender (t.fromSelf h))
    | _ => finish t

end Sys2Proof.Machine
end

