-- ==== Sys2Proof/Machine/Exchanges.lean ====
section
/-! DEFINITION. The frames of XU as it takes them: OFFER (R150, R153), WANT (R149), ASK (R155), ASK_SERVE
(R156), GRANT (R158 to R160) and TAKEN (R163), with the stations and states that ignore them (R145,
R165, R166). -/

namespace Sys2Proof.Machine

/-- Whether XU takes any frame handed to it: another station's, and not while JOINING (R145, R166). -/
def State.exchangeTakes (s : State) (h : Handed) : Bool := !h.own && decide (s.jc.state ≠ .joining)

/-! ### OFFER -/

/-- The offer list after an OFFER of a station (R150). -/
def joinOffers (offers : List OfferEntry) (k : Station) (c : ItemCode) (q : Nat) : List OfferEntry :=
  let others := offers.filter (fun e => !(decide (e.station = k) && decide (e.code = c)))
  (if others.length = Config.maxOffers then others.drop 1 else others) ++ [⟨k, c, min q 255, 0⟩]

/-- An OFFER enters the list, and the lines of its code are taken up (R150, R153). -/
def State.takeOffer (s : State) (k : Station) (c : ItemCode) (q : Nat) : State :=
  let t := s.setXu { s.xu with offers := joinOffers s.xu.offers k c q }
  if t.gateOpen then
    (t.allLines.filter (fun r => match t.line? r with
      | some l => decide (l.item.code = c)
      | none => false)).foldl State.takeLine t
  else t

/-- OFFER handed to XU (R145, R150, R166). -/
def execOffer (s : State) : Host.Outcome State Fault Refusal :=
  match s.handOver .offer with
  | none => .next s
  | some (h, t) =>
    match Frame.ofBody h.kind h.body with
    | some (.offer c q) =>
      if t.exchangeTakes h && !t.isolated && decide (q ≠ 0#16) then finish (t.takeOffer h.sender c q.toNat)
      else finish t
    | _ => finish t

/-! ### WANT -/

/-- WANT handed to XU (R145, R149, R166). -/
def execWant (s : State) : Host.Outcome State Fault Refusal :=
  match s.handOver .want with
  | none => .next s
  | some (h, t) =>
    match Frame.ofBody h.kind h.body with
    | some (.want c q) =>
      if t.exchangeTakes h && decide (q ≠ 0#8) && t.gateOpen && decide (0 < t.su.freeCount c)
          && t.clockAllows c Config.offerSpacing then finish (t.offerCode c)
      else finish t
    | _ => finish t

/-! ### ASK and ASK_SERVE -/

/-- An ASK joins the ask queue, unless it is full (R155). -/
def State.joinAsk (s : State) (k : Station) (c : ItemCode) (q : Nat) : State :=
  if s.xu.askQueue.length < Config.maxAsks then
    s.setXu { s.xu with askQueue := s.xu.askQueue ++ [⟨k, c, q⟩] }
  else s

/-- ASK handed to XU (R145, R155, R165, R166). -/
def execAsk (s : State) : Host.Outcome State Fault Refusal :=
  match s.handOver .ask with
  | none => .next s
  | some (h, t) =>
    match Frame.ofBody h.kind h.body with
    | some (.ask k c q) =>
      if t.exchangeTakes h && decide (k = t.jc.station) && decide (1 ≤ q.toNat) && decide (q.toNat ≤ 4)
          && t.gateOpen then finishServing (t.joinAsk h.sender c q.toNat)
      else finish t
    | _ => finish t

/-- ASK_SERVE: the head of the ask queue is served when it can be (R156). -/
def execAskServe (s : State) : Host.Outcome State Fault Refusal := finishServing s

/-! ### GRANT -/

/-- The oldest ask record of an offerer and a code (R158). -/
def State.answered (s : State) (k : Station) (c : ItemCode) : Option AskRec :=
  s.xu.asks.find? (fun a => decide (a.offerer = k) && decide (a.code = c))

/-- An entry of the expected list by its tag (R158). -/
def State.expectedTag (s : State) (k : Station) (n : Seq) : Option Expected :=
  s.xu.expected.find? (fun e => decide (e.source = k) && decide (e.seq = n))

/-- An expected entry ends before its units came: it is removed, and its linked line's incoming count
falls by the remaining count (R35, R160, R162). -/
def State.dropExpected (s : State) (e : Expected) : State :=
  let t := s.setXu { s.xu with
    expected := s.xu.expected.filter (fun x => !(decide (x.source = e.source) && decide (x.seq = e.seq))) }
  match e.link with
  | some r => t.modLine r.p r.line (fun l => { l with incoming := l.incoming - e.remaining })
  | none => t

/-- TRANSFER_LATE with the linked position and the units not received (R188). -/
def State.transferLate (s : State) (link : Option LineRef) (n : Nat) : State :=
  s.benchReport .transferLate (link.map (·.p)) n

/-- The line of a link is handed to XU again. -/
def State.handLink (s : State) : Option LineRef → State
  | some r => s.handLine r
  | none => s

/-- A GRANT of units creates its expected entry, linked to the ask record it answers (R37, R158).
DEDUCED (log 25): the line is handed to XU again, after a GRANT of all that was asked as well, since
R154 counts the GRANT among the clearings after which BE hands the line. -/
def State.expectGrant (s : State) (k : Station) (n : Seq) (c : ItemCode) (es : List Nat) : State :=
  let entry (link : Option LineRef) : Expected :=
    { source := k, seq := n, code := c, granted := es.length, remaining := es.length, exposures := es
      clock := 0, link := link }
  match s.answered k c with
  | none => s.setXu { s.xu with expected := s.xu.expected ++ [entry none] }
  | some a =>
    let t := (s.clearAsk a.line).modLine a.line.p a.line.line
      (fun l => { l with incoming := l.incoming + es.length })
    (t.setXu { t.xu with expected := t.xu.expected ++ [entry (some a.line)] }).handLine a.line

/-- A GRANT of units that finds the expected list full (R160). -/
def State.turnAway (s : State) (k : Station) (n : Seq) (c : ItemCode) (q : Nat) : State :=
  match s.answered k c with
  | none => (s.transferLate none q).produceTaken k n 0
  | some a => ((s.clearAndHand a.line).transferLate (some a.line) q).produceTaken k n 0

/-- A GRANT of units is taken by R158, or by the full-list rule of R160. -/
def State.takeUnits (s : State) (k : Station) (n : Seq) (c : ItemCode) (es : List Nat) : State :=
  if s.xu.expected.length < Config.maxTransfers then s.expectGrant k n c es
  else s.turnAway k n c es.length

/-- A GRANT of nothing clears the record it answers (R159). -/
def State.takeNothing (s : State) (k : Station) (c : ItemCode) : State :=
  match s.answered k c with
  | none => s
  | some a => s.clearAndHand a.line

/-- A GRANT addressed to this station, by its quantity; a repeated tag ends the older entry first
(R158 to R160). The older entry's line is handed again once the new GRANT is taken (log 25). DESIGN
CHOICE (log 39): a GRANT of 0 ends no entry, whatever its tag, and is taken by R159 alone. -/
def State.takeGrant (s : State) (k : Station) (n : Seq) (c : ItemCode) (es : List Nat) : State :=
  if es.isEmpty then s.takeNothing k c
  else match s.expectedTag k n with
    | none => s.takeUnits k n c es
    | some e => (((s.dropExpected e).transferLate e.link e.remaining).takeUnits k n c es).handLink e.link

/-- GRANT handed to XU (R145, R158, R166). -/
def execGrant (s : State) : Host.Outcome State Fault Refusal :=
  match s.handOver .grant with
  | none => .next s
  | some (h, t) =>
    match Frame.ofBody h.kind h.body with
    | some (.grant k n c es) =>
      if t.exchangeTakes h && decide (k = t.jc.station) && decide (es.length ≤ 4) then
        finish (t.takeGrant h.sender n c (es.map BitVec.toNat))
      else finish t
    | _ => finish t

/-! ### TAKEN and the end of an outbound entry -/

/-- A slot that showed BLUE for a sequence number no longer does (R19, R163). -/
def Slot.forget (n : Seq) : Slot → Slot
  | .empty (some m) => if m = n then .empty none else .empty (some m)
  | x => x

/-- An outbound entry ends: its units leave the device and its slots no longer show BLUE (R163). -/
def State.endOutbound (s : State) (n : Seq) : State :=
  let t := s.setXu { s.xu with outbound := s.xu.outbound.filter (fun o => decide (o.seq ≠ n)) }
  (t.setSu { t.su with slots := t.su.slots.map (Slot.forget n) }).showShelf

/-- A TAKEN addressed to this station ends the entry it matches; missing units are written off (R163). -/
def State.takeTaken (s : State) (k : Station) (n : Seq) (received : Nat) : State :=
  match s.xu.outbound.find? (fun o => decide (o.seq = n) && decide (o.dest = k)) with
  | none => s
  | some o =>
    let t := s.endOutbound n
    if received < o.units.length then t.benchReport .writeOff none (o.units.length - received) else t

/-- TAKEN handed to XU (R145, R163, R166). -/
def execTaken (s : State) : Host.Outcome State Fault Refusal :=
  match s.handOver .taken with
  | none => .next s
  | some (h, t) =>
    match Frame.ofBody h.kind h.body with
    | some (.taken k n q) =>
      if t.exchangeTakes h && decide (k = t.jc.station) then finish (t.takeTaken h.sender n q.toNat)
      else finish t
    | _ => finish t

end Sys2Proof.Machine
end

