-- ==== Sys2Proof/Machine/Resets.lean ====
section
/-! DEFINITION. POWER_ON_RESET and BENCH_RESET (R22, R52, R67, R72, R91, R108, R122, R143, R144, R167,
R186, R201, R204, R209, R212). -/

namespace Sys2Proof.Machine

/-- Every block as power-on reset leaves it, before JC offers its ROLL and PL fills its buffer. -/
def State.cleared (s : State) (station : Station) (positions rate : BitVec 2) : State :=
  { jc := .powerOn station positions rate
    hc := .reset
    lp := .reset
    cu := ⟨[], []⟩
    su := .reset
    be := .all .cleared
    claimCounter := 0
    wf := .all .reset
    pv := .all none
    vu := .all .reset
    xu := .reset
    pl := .allOwed (positions.toNat + 1)
    pending := s.pending }

/-- JC offers a ROLL; an accepted one starts the roll period of an ACTIVE station again, a refused one
is to be offered again (R207). -/
def State.offerRoll (s : State) (fresh : Bool) : State :=
  if s.accepts3 then
    let t := s.transmit (.roll fresh (BitVec.ofNat 8 s.jc.fitted))
    t.setJc { t.jc with
      rollLeft := if t.jc.state = .active then some Config.rollPeriod else none
      rollOwed := false }
  else s.setJc { s.jc with rollLeft := none, rollOwed := true }

/-- POWER_ON_RESET (R204): JOINING with a fresh ROLL, or ISOLATED with NUMBER_CLASH of value 3. -/
def execPowerOnReset (station : BitVec 5) (positions rate : BitVec 2) (s : State) :
    Host.Outcome State Fault Refusal :=
  let t := s.cleared station positions rate
  if t.isolated then
    finish ((State.fillOwed Config.maxPanel t).benchReport .numberClash none 3)
  else finish (State.fillOwed Config.maxPanel (t.offerRoll true))

/-- A notice after a bench reset (R144); a GONE notice is removed. -/
def Notice.benchReset (n : Notice) : Option Notice :=
  let given : Notice :=
    let c := min (n.count + 1) Config.maxReleases
    { n with
      state := if Config.maxReleases ≤ c then .stranded else .opened
      count := c
      releasedByMe := true }
  match n.state with
  | .marked _ => some given
  | .mine _ => some given
  | .gone _ _ => none
  | _ => some n

/-- Every block as bench reset leaves it: straps, SETUP values, station state, join limit, peer table,
sequence number, STOPPED and local stop are kept; a started frame completes (R201, R209). -/
def State.benchCleared (s : State) : State :=
  { jc := { s.jc with rollLeft := none, rollOwed := false }
    hc := { HoldCtl.reset with stopped := s.hc.stopped, localStop := s.hc.localStop }
    lp := { LinePort.reset with started := s.lp.started.map (fun x => { x with holdsPlace := false }) }
    cu := ⟨s.cu.notices.filterMap Notice.benchReset, []⟩
    su := .reset
    be := .all .cleared
    claimCounter := 0
    wf := .all .reset
    pv := .all none
    vu := .all .reset
    xu := { Exchange.reset with seq := s.xu.seq }
    pl := .allOwed s.jc.fitted
    pending := s.pending }

/-- BENCH_RESET (R209): the blocks are cleared in one event, PL owes every item, a fresh ROLL is
offered unless ISOLATED, and the positions look. DESIGN CHOICE (log 41): the POSITION record of a position
that marks a notice at once replaces its unsent EMPTY record in place (R211), so that the panel is sent
CLAIMING alone. -/
def execBenchReset (s : State) : Host.Outcome State Fault Refusal :=
  let t := State.fillOwed Config.maxPanel s.benchCleared
  finish ((if t.isolated then t else t.offerRoll true).lookAll)

end Sys2Proof.Machine
end

