-- ==== Sys2Proof/Machine/Joining.lean ====
section
/-! DEFINITION. JC's commands: JOIN_LIMIT_EXPIRY (R205), ROLL_PERIOD_EXPIRY and ROLL_RETRY (R207),
PEER_ABSENT (R208), ROLL (R140, R150, R154, R155, R207, R208) and SETUP (R206). -/

namespace Sys2Proof.Machine

/-! ### Limits and periods -/

/-- JOIN_LIMIT_EXPIRY: the station enters ACTIVE with the values as they stand (R205). -/
def execJoinLimitExpiry (s : State) : Host.Outcome State Fault Refusal :=
  if s.jc.state = .joining ∧ s.jc.joinLeft = some 0 then finish s.enterActive else .next s

/-- ROLL_PERIOD_EXPIRY: a ROLL with the fresh flag clear is offered (R207). -/
def execRollPeriodExpiry (s : State) : Host.Outcome State Fault Refusal :=
  if s.jc.state = .active ∧ s.jc.rollLeft = some 0 then finish (s.offerRoll false) else .next s

/-- ROLL_RETRY: a refused ROLL is offered again (R207). -/
def execRollRetry (s : State) : Host.Outcome State Fault Refusal :=
  if s.jc.state = .active ∧ s.jc.rollOwed then finish (s.offerRoll false) else .next s

/-- The offer list without a station's entries (R150, R208). -/
def State.dropOffers (s : State) (k : Station) : State :=
  s.setXu { s.xu with offers := s.xu.offers.filter (fun e => decide (e.station ≠ k)) }

/-- PEER_ABSENT: a peer of age 30 s leaves the table, and its offers leave the offer list (R208). -/
def execPeerAbsent (k : Station) (s : State) : Host.Outcome State Fault Refusal :=
  if s.jc.peers.any (fun x => decide (x.station = k) && decide (Config.peerAbsent ≤ x.age)) then
    .next ((s.setJc { s.jc with peers := s.jc.peers.filter (fun x => decide (x.station ≠ k)) }).dropOffers k)
  else .next s

/-! ### ROLL -/

/-- A notice after a fresh ROLL of a station (R140). -/
def Notice.rolled (n : Notice) (k : Station) : Notice :=
  if n.state = .others k then n.reopen else n

/-- CU reopens a station's orders, and the EMPTY positions look (R140). DESIGN CHOICE (log 54): every notice of
the station is reopened first and the positions look once after all of them, so that the lowest rank among all
is taken. -/
def State.reopenOrders (s : State) (k : Station) : State :=
  let t := s.setCu { s.cu with notices := s.cu.notices.map (fun n => n.rolled k) }
  if s.cu.notices.any (fun n => decide (n.state = .others k) && (n.rolled k).offersItself) then t.lookAll
  else t

/-- XU drops a station's offers and asks, and clears the ask records naming it (R150, R154, R155).
DESIGN CHOICE (log 40): the records are cleared one after another in order of asking, and each line is
handed again before the next record is cleared. -/
def State.forgetStation (s : State) (k : Station) : State :=
  let t := s.dropOffers k
  let u := t.setXu { t.xu with askQueue := t.xu.askQueue.filter (fun a => decide (a.asker ≠ k)) }
  ((u.xu.asks.filter (fun a => decide (a.offerer = k))).map (·.line)).foldl State.clearAndHand u

/-- A ROLL from another node: one of this station's own number isolates it, a fresh one reopens the
sender's orders and drops its exchange entries (R207, R208). A fresh one of this station's own number
changes nothing in the notice list (R140); DESIGN CHOICE (log 55): besides the isolation it is not handed to XU
either, so that offers stored under that number stay. -/
def State.takeRoll (s : State) (k : Station) (fresh : Bool) : State :=
  if k = s.jc.station then
    if s.isolated then s else s.enterIsolated.benchReport .numberClash none 2
  else if fresh then (s.reopenOrders k).forgetStation k
  else s

/-- ROLL handed to JC (R207, R208). -/
def execRoll (s : State) : Host.Outcome State Fault Refusal :=
  match s.handOver .roll with
  | none => .next s
  | some (h, t) =>
    match Frame.ofBody h.kind h.body with
    | some (.roll fresh _) => if h.own then finish t else finish (t.takeRoll h.sender fresh)
    | _ => finish t

/-! ### SETUP -/

/-- A value brought into a range (R206). -/
def clamp (lo hi x : Nat) : Nat := max lo (min hi x)

/-- The values a SETUP puts in force (R206). -/
def WireSetup.values (b : WireSetup) : SetupValues :=
  { mode := Rounding.ofCode b.mode
    chillLimit := clamp 300 2700 b.chill.toNat
    gatherLimit := clamp 60 900 b.gather.toNat
    exactWait := clamp 10 120 b.exact.toNat
    surplusHold := clamp 20 300 b.surplus.toNat
    holdMask := b.mask
    autoConfirm := decide (b.auto ≠ 0#8) }

/-- The numbers of the fields of a SETUP that are brought to a bound, in field order (R206). -/
def WireSetup.clamped (b : WireSetup) : List Nat :=
  (if 3 < b.mode.toNat then [1] else [])
    ++ (if clamp 300 2700 b.chill.toNat ≠ b.chill.toNat then [2] else [])
    ++ (if clamp 60 900 b.gather.toNat ≠ b.gather.toNat then [3] else [])
    ++ (if clamp 10 120 b.exact.toNat ≠ b.exact.toNat then [4] else [])
    ++ (if clamp 20 300 b.surplus.toNat ≠ b.surplus.toNat then [5] else [])
    ++ (if 1 < b.auto.toNat then [7] else [])

/-- Whether a SETUP is accepted: JOINING, and the target 0 or this station's number (R206). -/
def State.acceptsSetup (s : State) (b : WireSetup) : Bool :=
  decide (s.jc.state = .joining) && (decide (b.target = 0#8) || decide (b.target = stationByte s.jc.station))

/-- An accepted SETUP: the values are handed out, the clamped fields are reported, and the station
enters ACTIVE (R206). DESIGN CHOICE (log 59): no unit expires in this event. In a run none is near the limit,
since the join limit is 5 s; in a state no run reaches, a unit at or above the new limit waits for the second. -/
def State.takeSetup (s : State) (b : WireSetup) : State :=
  let t := s.setJc { s.jc with setup := b.values }
  (b.clamped.foldl (fun u n => u.benchReport .setupClamped none n) t).enterActive

/-- SETUP handed to JC (R206). -/
def execSetup (s : State) : Host.Outcome State Fault Refusal :=
  match s.handOver .setup with
  | none => .next s
  | some (h, t) =>
    match Frame.ofBody h.kind h.body with
    | some (.setup b) => if t.acceptsSetup b then finish (t.takeSetup b) else finish t
    | _ => finish t

end Sys2Proof.Machine
end

