-- ==== Sys2Proof/Machine/Shelf.lean ====
section
/-! DEFINITION. The shelf's commands: INTAKE_SCAN (R8 to R11, R114), CHUTE_SCAN (R12, R13),
SLOT_RESERVED (R14), SURPLUS_REACHED (R18, R148) and CHILL_EXPIRY (R110, R115 to R118). -/

namespace Sys2Proof.Machine

/-! ### Intake -/

/-- A refused intake scan: its report, the intake lamp RED, AMBER off (R2, R8, R19, R20). -/
def State.refuseIntake (s : State) (r : BenchReport) (v : Nat) : State :=
  let t := s.benchReport r none v
  t.setSu { t.su with intakeLamp := .red, amberSlot := none }

/-- The oldest expected entry of a code (R9). -/
def State.expectedOf (s : State) (c : ItemCode) : Option Expected :=
  s.xu.expected.find? (fun e => decide (e.code = c))

/-- An intake scan uses an expected entry: its first carried exposure and one of its count go, the
linked line's incoming count falls, and at 0 the entry goes and TAKEN is produced (R11, R35, R161). -/
def State.useExpected (s : State) (e : Expected) : State :=
  let same (x : Expected) : Bool := decide (x.source = e.source ∧ x.seq = e.seq)
  let t := match e.link with
    | some r => s.modLine r.p r.line (fun l => { l with incoming := l.incoming - 1 })
    | none => s
  if e.remaining ≤ 1 then
    (t.setXu { t.xu with expected := t.xu.expected.filter (fun x => !same x) }).produceTaken
      e.source e.seq e.granted
  else t.setXu { t.xu with
    expected := t.xu.expected.map (fun x =>
      if same x then { x with remaining := x.remaining - 1, exposures := x.exposures.drop 1 } else x) }

/-- The exposure of a unit scanned in: none unless CHILLED; carried plus arrival clock, held at
65,535, with an expected entry, and 0 without (R9, R114). -/
def scannedExposure (l : Label) : Option Expected → Option Nat
  | none => if l.handling = .chilled then some 0 else none
  | some e =>
    if l.handling = .chilled then some (min Config.maxExposure (e.exposures.headD 0 + e.clock)) else none

/-- The record of a unit scanned in (R3, R9). -/
def State.scannedUnit (s : State) (l : Label) : UnitRec :=
  let e := s.expectedOf l.code
  let u : UnitRec :=
    { number := s.nextNumber, label := l
      source := match e with
        | some x => .received x.source
        | none => .loose
      exposure := scannedExposure l e, expired := false }
  { u with expired := s.overLimit u }

/-- The first state of a unit on the shelf: RETURN, its linked line, or FREE and matching (R10, R35). -/
def State.firstState (s : State) (i : Nat) (u : UnitRec) (link : Option LineRef) : State :=
  if u.expired then
    match link with
    | some r => s.handLine r
    | none => s
  else match link with
    | some r =>
      if (s.build r.p).eligible && s.lineOpen r u then s.takeUnit i r
      else (s.matchUnit i).handLine r
    | none => s.matchUnit i

/-- An intake scan that is not refused enters its unit in the lowest empty slot (R9 to R11, R20). DESIGN
CHOICE (log 43): at the last scan of an entry TAKEN is produced before the unit's first state is decided
and before the linked line is handed to XU, which may ask or want. -/
def State.enterUnit (s : State) (i : Nat) (l : Label) : State :=
  let u := s.scannedUnit l
  let e := s.expectedOf l.code
  let t := s.setSlot i (.occupied u (if u.expired then .returned else .free 0))
  let v := (t.setSu { t.su with lastNumber := u.number, amberSlot := some i, intakeLamp := .green }).showShelf
  let w := match e with
    | some x => v.useExpected x
    | none => v
  w.firstState i u (e.bind (·.link))

/-- INTAKE_SCAN (R9). -/
def execIntakeScan (raw : RawLabel) (s : State) : Host.Outcome State Fault Refusal :=
  match checkLabel raw with
  | .error field => finish (s.refuseIntake .badLabel field)
  | .ok l =>
    match s.su.lowestEmpty with
    | none => finish (s.refuseIntake .tableFull l.code.word)
    | some i => finish (s.enterUnit i l)

/-! ### The chute -/

/-- A refused chute scan: its report and the chute lamp RED (R2, R12, R20). -/
def State.refuseChute (s : State) (r : BenchReport) (v : Nat) : State :=
  let t := s.benchReport r none v
  t.setSu { t.su with chuteLamp := .red }

/-- The RETURN unit of a code with the highest exposure, the lowest slot among equals (R12, step 1). -/
def mostExposedReturn (c : ItemCode) : List (Nat × Slot) → Option (Nat × Nat)
  | [] => none
  | (i, .occupied u .returned) :: xs =>
    let rest := mostExposedReturn c xs
    if u.label.code = c then
      match rest with
      | some (j, e) => if e ≤ u.exposure.getD 0 then some (i, u.exposure.getD 0) else some (j, e)
      | none => some (i, u.exposure.getD 0)
    else rest
  | _ :: xs => mostExposedReturn c xs

/-- The slot of a unit number when its unit is EARMARKED and of a code. -/
def State.earmarkedOf (s : State) (c : ItemCode) (n : UnitNo) : Option Nat :=
  match s.su.slotOf n with
  | none => none
  | some i => match s.su.slot i with
    | .occupied u (.earmarked _ _) => if u.label.code = c then some i else none
    | _ => none

/-- The record a chute scan stands for (R12). -/
def State.chuteChoice (s : State) (c : ItemCode) : Option Nat :=
  match mostExposedReturn c (numbered 0 s.su.slots) with
  | some (i, _) => some i
  | none =>
    match s.su.slots.findIdx? (Slot.isFreeOf c) with
    | some i => some i
    | none => firstSome (s.earmarkedOf c) s.su.earmarkOrder.reverse

/-- The chosen record leaves the device (R13). -/
def State.chuteRemove (s : State) (i : Nat) : State :=
  match s.su.slot i with
  | .occupied u st =>
    let t := (s.dropEarmark u.number).emptySlot i none
    let v := (t.setSu { t.su with chuteLamp := .green }).showShelf.pruneClocks
    match st with
    | .earmarked p l => v.earmarkLost ⟨p, l⟩
    | _ => v
  | _ => s

/-- CHUTE_SCAN (R12). -/
def execChuteScan (raw : RawLabel) (s : State) : Host.Outcome State Fault Refusal :=
  match checkLabel raw with
  | .error field => finish (s.refuseChute .badLabel field)
  | .ok l =>
    match s.chuteChoice l.code with
    | none => finish (s.refuseChute .refused l.code.word)
    | some i => finish (s.chuteRemove i)

/-! ### Slots, surplus and expiry -/

/-- SLOT_RESERVED (R14). -/
def execSlotReserved (s : State) : Host.Outcome State Fault Refusal := finish s.giveSlots

/-- SURPLUS_REACHED: a FREE unit whose free age has reached the surplus hold makes XU look (R18, R148). -/
def execSurplusReached (n : UnitNo) (s : State) : Host.Outcome State Fault Refusal :=
  match s.su.slotOf n with
  | none => .next s
  | some i => match s.su.slot i with
    | .occupied _ (.free age) =>
      if s.jc.setup.surplusHold ≤ age then finish s.surplusLook else .next s
    | _ => .next s

/-- An expiry is held back in the put record of a position (R83, R117). -/
def State.holdBack (s : State) (p : Pos) (n : UnitNo) : State :=
  match s.put p with
  | some r =>
    if r.expiries.contains n then s else s.setPut p (some { r with expiries := r.expiries ++ [n] })
  | none => s

/-- A unit on the shelf expires (R115, R116, R117). -/
def State.expireOnShelf (s : State) (i : Nat) (u : UnitRec) (st : ShelfState) : State :=
  let u' := { u with expired := true }
  match st with
  | .free _ => (s.setSlot i (.occupied u' .returned)).pruneClocks
  | .earmarked p l =>
    ((s.setSlot i (.occupied u' .returned)).showShelf.dropEarmark u.number).earmarkLost ⟨p, l⟩
  | .putting p l => (s.setSlot i (.occupied u' (.putting p l))).holdBack p u.number
  | .returned => s

/-- A placed unit of a build expires (R118). -/
def State.expirePlaced (s : State) (p : Pos) (n : UnitNo) : State :=
  let b := s.build p
  let t := s.setBuild p { b with
    content := b.content.map (fun x =>
      if x.unit.number = n then { x with unit := { x.unit with expired := true } } else x) }
  if t.countsUnloading p then t
  else if t.putPending p then t.holdBack p n
  else t.raiseChill p n

/-- Whether a record expires now: CHILLED, at or above the limit, and not expired before (R110). -/
def State.expires (s : State) (u : UnitRec) : Bool := s.overLimit u && !u.expired

/-- The unsealed build that has a unit placed which expires now. -/
def State.expiringBuild (s : State) (n : UnitNo) : Option Pos :=
  s.fittedPos.find? (fun p =>
    decide ((s.build p).state ≠ .sealed) &&
      (s.build p).content.any (fun x => decide (x.unit.number = n) && s.expires x.unit))

/-- CHILL_EXPIRY (R110): the effect depends on where the unit is. -/
def execChillExpiry (n : UnitNo) (s : State) : Host.Outcome State Fault Refusal :=
  match s.su.slotOf n with
  | some i => match s.su.slot i with
    | .occupied u st => if s.expires u then finish (s.expireOnShelf i u st) else .next s
    | _ => .next s
  | none => match s.expiringBuild n with
    | some p => finish (s.expirePlaced p n)
    | none => .next s

end Sys2Proof.Machine
end

