-- ==== Sys2Proof/Machine/Timers.lean ====
section
/-! DEFINITION. Timers that run out, each judged on the record it names: EXACT_WAIT_EXPIRY (R32),
GATHER_LIMIT_EXPIRY (R39), SUPPRESSION_EXPIRY (R196), OFFER_SECOND_LOOK (R148), WANT_RETRY (R152),
ASK_WAIT_EXPIRY (R154), OFFER_ENTRY_AGED (R150), TRANSFER_LIMIT (R162) and WRITE_OFF (R164). A command
whose timer has not run out changes nothing (log 3). -/

namespace Sys2Proof.Machine

/-! ### Gathering -/

/-- Whether a line's exact wait has run out: RUNNING with nothing left, its build GATHERING (R32). -/
def State.exactWaitDue (s : State) (r : LineRef) : Bool :=
  decide ((s.build r.p).state = .gathering) &&
    match s.line? r with
    | some l => decide (l.exactWait = .running 0)
    | none => false

/-- The line's exact wait becomes EXPIRED, and an uncovered line makes its substitute search (R32, R38). -/
def State.expireExact (s : State) (r : LineRef) : State :=
  let t := s.modLine r.p r.line (fun l => { l with exactWait := .expired, wantRefused := false })
  (t.fillLine (substituteTest r) r).coverage r.p

/-- EXACT_WAIT_EXPIRY (R32). -/
def execExactWaitExpiry (p : Pos) (line : Nat) (s : State) : Host.Outcome State Fault Refusal :=
  if s.exactWaitDue ⟨p, line⟩ then finish (s.expireExact ⟨p, line⟩) else .next s

/-- The sum of the uncovered quantities of a build's lines (R168). -/
def Build.uncoveredSum (b : Build) : Nat := (b.lines.map LineRec.uncovered).sum

/-- The gather limit has run out: the order is released, or the build is held with GATHER_LATE (R39). -/
def State.gatherLate (s : State) (p : Pos) : State :=
  if (s.build p).content.isEmpty then
    match (s.build p).link with
    | some o => (s.releaseOrder o).enterEmpty p
    | none => s.enterEmpty p
  else s.raise p (.plain .gatherLate none (s.build p).uncoveredSum)

/-- GATHER_LIMIT_EXPIRY (R39). -/
def execGatherLimitExpiry (p : Pos) (s : State) : Host.Outcome State Fault Refusal :=
  if (s.build p).state = .gathering ∧ (s.build p).gatherLeft = some 0 then finish (s.gatherLate p)
  else .next s

/-! ### Suppression, offers and wants -/

/-- SUPPRESSION_EXPIRY: claims are no longer suppressed, and the EMPTY positions look (R27, R196). -/
def execSuppressionExpiry (s : State) : Host.Outcome State Fault Refusal :=
  if s.lp.suppression = some 0 then finish (s.setLp { s.lp with suppression := none }).lookAll
  else .next s

/-- OFFER_SECOND_LOOK: XU looks at every code with surplus (R148). -/
def execOfferSecondLook (s : State) : Host.Outcome State Fault Refusal := finish s.surplusLook

/-- A line whose WANT was refused is tried again, or is no longer tried (R152). -/
def State.retryLine (s : State) (r : LineRef) : State :=
  match s.line? r with
  | none => s
  | some l =>
    if l.wantRefused then
      if s.canAsk r && (s.askOf r).isNone && (bestOffer l.item.code s.xu.offers).isNone && s.gateOpen
          && !l.wantSent then s.wantFor r l
      else s.modLine r.p r.line (fun x => { x with wantRefused := false })
    else s

/-- WANT_RETRY (R152). DESIGN CHOICE (log 46): the lines are tried in claim order and line order. -/
def execWantRetry (s : State) : Host.Outcome State Fault Refusal :=
  finish (s.allLines.foldl State.retryLine s)

/-- ASK_WAIT_EXPIRY: the record is removed with no frame sent, and the line is handed again (R154). -/
def execAskWaitExpiry (p : Pos) (line : Nat) (s : State) : Host.Outcome State Fault Refusal :=
  match s.askOf ⟨p, line⟩ with
  | some a => if a.wait = 0 then finish (s.clearAndHand ⟨p, line⟩) else .next s
  | none => .next s

/-- OFFER_ENTRY_AGED: an entry of 20 s leaves the offer list (R150). -/
def execOfferEntryAged (k : Station) (c : ItemCode) (s : State) : Host.Outcome State Fault Refusal :=
  .next (s.setXu { s.xu with
    offers := s.xu.offers.filter (fun e =>
      !(decide (e.station = k) && decide (e.code = c) && decide (Config.offerAge ≤ e.age))) })

/-! ### Transfers -/

/-- An expected entry has run out of time: it is removed, TAKEN is produced with what was received,
TRANSFER_LATE is sent, and its line is handed again (R36, R162). DESIGN CHOICE (log 43): TAKEN is produced
before the line is handed. -/
def State.transferEnds (s : State) (e : Expected) : State :=
  (((s.dropExpected e).produceTaken e.source e.seq (e.granted - e.remaining)).transferLate e.link
    e.remaining).handLink e.link

/-- TRANSFER_LIMIT (R162). -/
def execTransferLimit (k : Station) (n : Seq) (s : State) : Host.Outcome State Fault Refusal :=
  match s.expectedTag k n with
  | some e => if Config.transferLimit ≤ e.clock then finish (s.transferEnds e) else .next s
  | none => .next s

/-- WRITE_OFF (R164). -/
def execWriteOff (n : Seq) (s : State) : Host.Outcome State Fault Refusal :=
  match s.xu.outbound.find? (fun o => decide (o.seq = n)) with
  | some o =>
    if Config.writeOffLimit ≤ o.time then
      finish ((s.endOutbound n).benchReport .writeOff none o.units.length)
    else .next s
  | none => .next s

end Sys2Proof.Machine
end

