-- ==== Sys2Proof/Machine/Weighing.lean ====
section
/-! DEFINITION. SWEEP (R68 to R71, R76) and PUT_TIMEOUT (R81). -/

namespace Sys2Proof.Machine

/-- SWEEP: WF reads the cells of every fitted platform, then each platform's result is taken by PV and
BE, in letter order (R68; log 22). -/
def execSweep (readings : PerPos Quad) (s : State) : Host.Outcome State Fault Refusal :=
  let t := s.fittedPos.foldl (State.readPlatform readings) s
  finish (t.fittedPos.foldl (State.sweepResult readings) t)

/-- Whether the put limit of a position runs: a put that is judged and not SETTLED (R81). -/
def State.limitRuns (s : State) (p : Pos) (r : PutRec) : Bool :=
  decide (r.kind = .put) && s.judged p r && decide (r.phase ≠ .settled)

/-- PUT_TIMEOUT: a limit that has counted down to 0 faults the put (R81, R84). -/
def execPutTimeout (p : Pos) (s : State) : Host.Outcome State Fault Refusal :=
  match s.put p with
  | none => .next s
  | some r =>
    if s.limitRuns p r ∧ r.limitLeft = 0 then finish (s.faultOp p r .putTimeout Config.putLimit)
    else .next s

end Sys2Proof.Machine
end

