-- ==== Sys2Proof/Machine/Clock.lean ====
section
/-! DEFINITION. One second of the block: every counter the manual counts by the second, and the commands
that fall due by it (R18, R24, R32, R39, R81, R109, R113, R147, R150, R151, R164, R196, R205, R207,
R208). DESIGN CHOICE: the step counts a second on an empty queue (log 2). -/

namespace Sys2Proof.Machine

/-! ### Counting -/

/-- An exposure counts up, held at 65,535 (R109). -/
def UnitRec.second (u : UnitRec) : UnitRec :=
  { u with exposure := u.exposure.map (fun e => min Config.maxExposure (e + 1)) }

/-- A slot's second: exposure in every state (R109), free age while FREE (R18). -/
def Slot.second : Slot → Slot
  | .occupied u (.free age) => .occupied u.second (.free (age + 1))
  | .occupied u st => .occupied u.second st
  | x => x

/-- A line's second: its exact wait counts down while RUNNING (R32). -/
def LineRec.second (l : LineRec) : LineRec :=
  match l.exactWait with
  | .running n => { l with exactWait := .running (n - 1) }
  | .expired => l

/-- A build's second: exposures unless SEALED (R109, R111), gather limit and exact waits in GATHERING
(R32, R39). -/
def Build.second (b : Build) : Build :=
  let c := if b.state = .sealed then b
    else { b with content := b.content.map (fun x => { x with unit := x.unit.second }) }
  if b.state = .gathering then
    { c with gatherLeft := b.gatherLeft.map (· - 1), lines := b.lines.map LineRec.second }
  else c

/-- A position's second: the put limit counts down while it runs (R81). -/
def State.limitSecond (s : State) (p : Pos) : State :=
  match s.put p with
  | some r => if s.limitRuns p r then s.setPut p (some { r with limitLeft := r.limitLeft - 1 }) else s
  | none => s

/-- XU's second: offer ages, ask waits, arrival clocks, grant times and offer clocks (R113, R147, R150,
R151, R164). -/
def Exchange.second (x : Exchange) : Exchange :=
  { x with
    offers := x.offers.map (fun e => { e with age := e.age + 1 })
    asks := x.asks.map (fun a => { a with wait := a.wait - 1 })
    expected := x.expected.map (fun e => { e with clock := e.clock + 1 })
    outbound := x.outbound.map (fun o => { o with time := o.time + 1 })
    clocks := x.clocks.map (fun c => { c with seconds := c.seconds + 1 }) }

/-- JC's second: join limit, roll period and peer ages (R205, R207, R208). -/
def Join.second (j : Join) : Join :=
  { j with
    joinLeft := j.joinLeft.map (· - 1)
    rollLeft := j.rollLeft.map (· - 1)
    peers := j.peers.map (fun x => { x with age := x.age + 1 }) }

/-- Every counter after one more second. -/
def State.counted (s : State) : State :=
  let t := Pos.all.foldl State.limitSecond s
  { t with
    jc := t.jc.second
    lp := { t.lp with suppression := t.lp.suppression.map (· - 1) }
    su := { t.su with slots := t.su.slots.map Slot.second }
    be := ⟨t.be.a.second, t.be.b.second, t.be.c.second, t.be.d.second⟩
    xu := t.xu.second }

/-! ### What falls due -/

/-- Units that expire, in slot order and then position and put order (R110). DESIGN CHOICE (log 59): a unit that
a lowered chill limit alone has put at or above the limit, in a state no run reaches, is one of them. -/
def State.dueChill (s : State) : List Instr :=
  let placed := s.fittedPos.flatMap (fun p =>
    if (s.build p).state = .sealed then [] else (s.build p).content.map (·.unit))
  ((s.su.slots.filterMap Slot.unit? ++ placed).filter s.expires).map (fun u => .chillExpiry u.number)

/-- Puts whose limit has reached 0 (R81). -/
def State.duePuts (s : State) : List Instr :=
  (s.fittedPos.filter (fun p => match s.put p with
    | some r => s.limitRuns p r && decide (r.limitLeft = 0)
    | none => false)).map .putTimeout

/-- Exact waits and gather limits that have run out (R32, R39). -/
def State.dueGathering (s : State) : List Instr :=
  ((s.fittedPos.flatMap s.linesOf).filter s.exactWaitDue).map (fun r => .exactWaitExpiry r.p r.line)
    ++ (s.fittedPos.filter (fun p => decide ((s.build p).state = .gathering) &&
        decide ((s.build p).gatherLeft = some 0))).map .gatherLimitExpiry

/-- Records of XU whose time has come (R150, R154, R162, R164). -/
def Exchange.due (x : Exchange) : List Instr :=
  (x.asks.filter (fun a => decide (a.wait = 0))).map (fun a => .askWaitExpiry a.line.p a.line.line)
    ++ (x.offers.filter (fun e => decide (Config.offerAge ≤ e.age))).map
        (fun e => .offerEntryAged e.station e.code)
    ++ (x.expected.filter (fun e => decide (Config.transferLimit ≤ e.clock))).map
        (fun e => .transferLimit e.source e.seq)
    ++ (x.outbound.filter (fun o => decide (Config.writeOffLimit ≤ o.time))).map (fun o => .writeOff o.seq)

/-- LP's and JC's timers that have run out (R196, R205, R207, R208). -/
def State.dueStation (s : State) : List Instr :=
  (if s.lp.suppression = some 0 then [.suppressionExpiry] else [])
    ++ (if s.jc.joinLeft = some 0 then [.joinLimitExpiry] else [])
    ++ (if s.jc.rollLeft = some 0 then [.rollPeriodExpiry] else [])
    ++ (if s.jc.rollOwed then [.rollRetry] else [])
    ++ (s.jc.peers.filter (fun x => decide (Config.peerAbsent ≤ x.age))).map (fun x => .peerAbsent x.station)

/-- FREE units that become surplus at this second, XU's look of every second, and the WANTs to be tried
again (R18, R148, R152). -/
def State.dueOffers (s : State) : List Instr :=
  (s.su.slots.filterMap (fun x => match x with
    | .occupied u (.free age) =>
      if age = s.jc.setup.surplusHold then some (.surplusReached u.number) else none
    | _ => none))
    ++ [.offerSecondLook]
    ++ (if s.allLines.any (fun r => match s.line? r with
          | some l => l.wantRefused
          | none => false) then [.wantRetry] else [])

/-- One second passes: the counters count, and the commands due by it wait in the queue. -/
def State.tick (s : State) : State :=
  let t := s.counted
  { t with
    pending := t.pending ++ t.dueChill ++ t.duePuts ++ t.dueGathering ++ t.xu.due ++ t.dueStation
      ++ t.dueOffers }

end Sys2Proof.Machine
end

