-- ==== Sys2Proof/Machine/Keys.lean ====
section
/-! DEFINITION. The operator keys: which are accepted (R172, R173) and what CONFIRM (R78), REJECT (R80,
R175), RESUME (R174), UNDO (R176) and ABANDON (R180) do. -/

namespace Sys2Proof.Machine

/-- A refused key: REFUSED with the position and the action's number (R172). -/
def State.refuseKey (s : State) (p : Pos) (action : Nat) : Host.Outcome State Fault Refusal :=
  finish (s.benchReport .refused (some p) action)

/-- Whether HC refuses every key for a position: STOPPED, or beyond the position strap (R172). -/
def State.keysShut (s : State) (p : Pos) : Bool := s.hc.stopped || !s.isFitted p

/-- The put of a position whose build is PUTTING, as CONFIRM and REJECT need it (R172). -/
def State.keyPut (s : State) (p : Pos) : Option PutRec :=
  if (s.build p).state = .putting then
    match s.put p with
    | some r => if r.kind = .put then some r else none
    | none => none
  else none

/-! ### The table of R173 -/

/-- Whether REJECT is accepted for a primary cause and a next state (R173). -/
def rejectAccepted (c : Cause) (next : SavedState) : Bool :=
  decide (next ≠ .unloading) &&
    match c with
    | .scaleOverrange | .putRemoved | .putMismatch | .putTimeout => true
    | _ => false

/-- Whether RESUME is accepted for a primary cause and a next state (R173). -/
def resumeAccepted (c : Cause) (next : SavedState) : Bool :=
  match c with
  | .scaleOverrange | .putMismatch => true
  | .putRemoved | .putTimeout | .invalid | .clamped | .bandLow | .bandHigh | .inexact | .gatherLate =>
    decide (next ≠ .unloading)
  | _ => false

/-- Whether UNDO is accepted for a primary cause and a next state (R173). -/
def undoAccepted (c : Cause) (next : SavedState) : Bool :=
  decide (next ≠ .unloading) &&
    match c with
    | .overweight | .invalid | .clamped | .bandLow | .bandHigh | .inexact | .gatherLate => true
    | _ => false

/-- Whether ABANDON is accepted for a primary cause and a next state (R173). -/
def abandonAccepted (c : Cause) (next : SavedState) : Bool :=
  decide (next ≠ .unloading) || decide (c = .orderGone)

/-- The hold record of a HELD build. -/
def State.keyHold (s : State) (p : Pos) : Option Hold :=
  if (s.build p).state = .held then s.hold p else none

/-- The hold record of a HELD build that has no removal resolving it (R173). -/
def State.keyHoldOpen (s : State) (p : Pos) : Option Hold :=
  match s.keyHold p with
  | some h => if h.resolving = .none then some h else none
  | none => none

/-! ### CONFIRM -/

/-- An accepted CONFIRM acts by the phase (R78). -/
def State.confirmKey (s : State) (p : Pos) (r : PutRec) : State :=
  match r.phase, r.settledDelta with
  | .settled, some d => s.confirmPut p d
  | _, _ => s.setPut p (some { r with confirmMark := true })

/-- CONFIRM key (R78, R172). -/
def execConfirm (p : Pos) (s : State) : Host.Outcome State Fault Refusal :=
  if s.keysShut p then s.refuseKey p 1
  else match s.keyPut p with
    | some r => finish (s.confirmKey p r)
    | none => s.refuseKey p 1

/-! ### REJECT -/

/-- REJECT of a put of a build that is not HELD: the put is cancelled, and the build regathers (R42, R80). -/
def State.rejectKey (s : State) (p : Pos) (r : PutRec) : State :=
  let t := s.rejectPut p r
  if (t.build p).state = .putting then t.regather p else t

/-- REJECT as the resolution of a put fault (R80, R175). -/
def State.rejectHeld (s : State) (p : Pos) : State :=
  (match s.put p with
    | some r => if r.kind = OpKind.put then s.rejectPut p r else s
    | none => s).resolveToGathering p

/-- REJECT key (R80, R172, R173, R175). -/
def execReject (p : Pos) (s : State) : Host.Outcome State Fault Refusal :=
  if s.keysShut p then s.refuseKey p 2
  else match s.keyPut p with
    | some r => finish (s.rejectKey p r)
    | none => match s.keyHoldOpen p with
      | some h => if rejectAccepted h.primary.cause h.next then finish (s.rejectHeld p) else s.refuseKey p 2
      | none => s.refuseKey p 2

/-! ### RESUME -/

/-- A restarted operation (R89). -/
def PutRec.restart (r : PutRec) : PutRec :=
  { r with
    phase := .awaitBase, baseline := none, settledDelta := none, confirmMark := false
    limitLeft := if r.kind = .put then Config.putLimit else r.limitLeft
    resuming := false, failed := false }

/-- What RESUME of a primary cause does to the pending operation (R89, R174). -/
def resumeEffect (c : Cause) (r : PutRec) : PutRec :=
  match c with
  | .putMismatch | .putRemoved | .putTimeout => r.restart
  | .scaleOverrange => if r.phase = .faulted then { r with phase := r.before } else r
  | _ => r

/-- An accepted RESUME (R174). -/
def State.resumeKey (s : State) (p : Pos) (h : Hold) : State :=
  let t := match s.put p with
    | some r => s.setPut p (some (resumeEffect h.primary.cause r))
    | none => s
  let h' := if h.primary.byCheck then { h with resumed := h.resumed ++ [h.primary.cause] } else h
  (t.setHold p (some h')).proceed p

/-- RESUME key (R172 to R174). -/
def execResume (p : Pos) (s : State) : Host.Outcome State Fault Refusal :=
  if s.keysShut p then s.refuseKey p 3
  else match s.keyHoldOpen p with
    | some h => if resumeAccepted h.primary.cause h.next then finish (s.resumeKey p h) else s.refuseKey p 3
    | none => s.refuseKey p 3

/-! ### UNDO -/

/-- An accepted UNDO: the removal of the last placed unit is asked for, once a slot is reserved (R176). -/
def State.undoKey (s : State) (p : Pos) (h : Hold) : State :=
  ((s.setHold p (some { h with resolving := .undo })).requestSlot p).tryRemoval p

/-- UNDO key (R172, R173, R176). -/
def execUndo (p : Pos) (s : State) : Host.Outcome State Fault Refusal :=
  if s.keysShut p then s.refuseKey p 4
  else match s.keyHoldOpen p with
    | some h =>
      if undoAccepted h.primary.cause h.next && !(s.build p).content.isEmpty && (s.put p).isNone then
        finish (s.undoKey p h)
      else s.refuseKey p 4
    | none => s.refuseKey p 4

/-! ### ABANDON -/

/-- The pending operation at ABANDON: a put is cancelled, an UNDO or CHILL removal is withdrawn, an
UNLOAD removal is kept (R180). -/
def State.dropOp (s : State) (p : Pos) : State :=
  match s.put p with
  | none => s
  | some r =>
    match r.kind with
    | .put => s.cancelPut p r
    | .removal .unload => s
    | .removal _ => (s.setPut p none).showTray p

/-- The slot of the unit whose put an ABANDON cancels. -/
def State.cancelledSlot (s : State) (p : Pos) : Option Nat :=
  match s.put p with
  | some r => if r.kind = .put then s.su.slotOf r.unit else none
  | none => none

/-- The unload reason of a build (R49). -/
def State.reasonOf (s : State) (p : Pos) : UnloadReason :=
  match (s.build p).link with
  | none => .release
  | some o => match s.notice? o with
    | some n => match n.state with
      | .gone _ _ => .silent
      | _ => .release
    | none => .release

/-- The first step of ABANDON: the secondary set is emptied and a CHILL_EXPIRED dropped with its named
list, whose cells turn OFF (R180). -/
def State.dropCauses (s : State) (p : Pos) (h : Hold) : State :=
  (s.setHold p (some { h with secondary := [], named := [] })).showTray p

/-- An accepted ABANDON (R49, R180). The units it frees are offered to matching together, in lowest-slot
order (R34). -/
def State.abandonKey (s : State) (p : Pos) (h : Hold) : State :=
  let slots := sortBy (fun i j => decide (i < j)) ((s.cancelledSlot p).toList ++ s.earmarkedSlots p)
  let t := (s.dropCauses p h).dropOp p
  let u := ((if h.next = .unloading then t else t.releaseSlot p).setHold p none)
  let v := u.setBuild p { u.build p with
    state := .unloading, unloadReason := some (s.reasonOf p), plan := [], trayWanted := false,
    regatherDue := false }
  let w := (((((v.unlinkBuild p).freeEarmarks p).resumeOp p).showBuild p).showTray p).matchUnits slots
  w.unloadOn p

/-- ABANDON key (R172, R173, R180). -/
def execAbandon (p : Pos) (s : State) : Host.Outcome State Fault Refusal :=
  if s.keysShut p then s.refuseKey p 5
  else match s.keyHold p with
    | some h =>
      if abandonAccepted h.primary.cause h.next then finish (s.abandonKey p h) else s.refuseKey p 5
    | none => s.refuseKey p 5

end Sys2Proof.Machine
end

