-- ==== Sys2Proof/Machine/LineCmds.lean ====
section
/-! DEFINITION. LP's commands: FRAME_RECEIVE (R193, R195, R196), CONTENTION (R191), CONTENTION_FAULT
(R192), OWN_FRAME_COMPLETE (R194) and TX_SPACE_GRANT (R198). -/

namespace Sys2Proof.Machine

/-! ### Receiving -/

/-- The frames from other stations in the receive buffer (R195). -/
def LinePort.received (lp : LinePort) : Nat := lp.handover.countP (fun h => !h.own)

/-- Those of classes 1 to 3. -/
def LinePort.received13 (lp : LinePort) : Nat :=
  lp.handover.countP (fun h => !h.own && decide (h.kind.cls ≠ 0))

/-- The sequence without its latest class 0 frame from another station (R195). -/
def dropLatest0 : List Handed → List Handed
  | [] => []
  | h :: hs =>
    if hs.any (fun x => !x.own && decide (x.kind.cls = 0)) then h :: dropLatest0 hs
    else if !h.own && decide (h.kind.cls = 0) then hs
    else h :: hs

/-- A class 0 frame finds its slot, in the place of the latest one when the buffer is full (R195). -/
def State.receive0 (s : State) (h : Handed) : State :=
  let base := if s.lp.received < Config.maxReceive then s.lp.handover else dropLatest0 s.lp.handover
  s.setLp { s.lp with handover := base ++ [h] }

/-- A dropped frame: FRAME_DROPPED with its kind code, and claims are suppressed for 15 s (R196). -/
def State.dropFrame (s : State) (h : Handed) : State :=
  let t := s.benchReport .frameDropped none h.kind.code.toNat
  t.setLp { t.lp with suppression := some Config.suppression }

/-- A frame that passes its test is offered to the receive buffer (R195, R196; log 7). -/
def State.receive (s : State) (h : Handed) : State :=
  if h.kind.cls = 0 then s.receive0 h
  else if s.lp.received13 < Config.maxReceive - 1 ∧ s.lp.received < Config.maxReceive then
    s.setLp { s.lp with handover := s.lp.handover ++ [h] }
  else s.dropFrame h

/-- FRAME_RECEIVE (R193, R195, R196). -/
def execFrameReceive (bytes : List Byte) (s : State) : Host.Outcome State Fault Refusal :=
  match readFrame bytes with
  | some h => finish (s.receive h)
  | none => .next s

/-! ### Sending -/

/-- Precedence in contention: class first, then station number; lower wins (R191). -/
def contentionNumber (c : Contention) : Nat := c.cls.toNat * 32 + c.station.toNat

/-- The contention field of a frame of this station (R189). -/
def State.fieldOf (s : State) (f : Frame) : Contention := ⟨BitVec.ofNat 2 f.cls, s.jc.station⟩

/-- Whether a frame wins against the fields the other nodes send at the same idle line (R191). -/
def State.winsOver (s : State) (f : Frame) (rivals : List Contention) : Bool :=
  rivals.all (fun r => decide (contentionNumber (s.fieldOf f) ≤ contentionNumber r))

/-- At an idle line the head of the transmit queue begins to contend (R191). -/
def State.beginContention (s : State) : State :=
  match s.lp.started, s.lp.contending, s.lp.queue with
  | none, none, f :: fs =>
    if s.isolated then s else s.setLp { s.lp with queue := fs, contending := some ⟨f, false⟩ }
  | _, _, _ => s

/-- The frame starts: its whole field has read back as sent (R191). -/
def State.startFrame (s : State) (f : Frame) : State :=
  s.setLp { s.lp with contending := none, started := some ⟨f, true⟩ }

/-- CONTENTION: a contention begins, or is decided (R191; log 6). A frame that has lost goes back to its
place; one whose withdrawal was held is removed on a loss, and the withdrawal is without effect on a win
(R199). -/
def execContention (stage : ContentionStage) (s : State) : Host.Outcome State Fault Refusal :=
  match stage with
  | .begins => .next s.beginContention
  | .decided rivals =>
    match s.lp.contending with
    | none => .next s
    | some c =>
      if s.winsOver c.frame rivals then .next (s.startFrame c.frame)
      else if c.withdrawn then finishServing (s.setLp { s.lp with contending := none }).freedPlace
      else .next (s.setLp { s.lp.putBack c.frame with contending := none })

/-- An aborted frame goes back to the queue at its place; one whose place a reset or an isolation took
is discarded (R192, R200, R201; log 19). -/
def State.abortFrame (s : State) (x : Started) : State :=
  let lp := if x.holdsPlace && !s.isolated then s.lp.putBack x.frame else s.lp
  s.setLp { lp with started := none, faults := s.lp.faults + 1 }

/-- CONTENTION_FAULT: the third in a row isolates the station, with NUMBER_CLASH of value 1 (R192). -/
def execContentionFault (s : State) : Host.Outcome State Fault Refusal :=
  match s.lp.started with
  | none => .next s
  | some x =>
    let t := s.abortFrame x
    if Config.maxFaults ≤ t.lp.faults && !t.isolated then
      finish (t.enterIsolated.benchReport .numberClash none 1)
    else finish t

/-- The own frame of a completion joins the hand-over sequence behind the frames already received
(R194). -/
def State.completeFrame (s : State) (x : Started) : State :=
  s.setLp { s.lp with
    started := none, faults := 0
    handover := s.lp.handover ++ [⟨true, s.jc.station, x.frame.kind, x.frame.body⟩] }

/-- OWN_FRAME_COMPLETE (R191, R194, R198). -/
def execOwnFrameComplete (s : State) : Host.Outcome State Fault Refusal :=
  match s.lp.started with
  | none => .next s
  | some x => finishServing (s.completeFrame x).freedPlace

/-- TX_SPACE_GRANT (R198). -/
def execTxSpaceGrant (s : State) : Host.Outcome State Fault Refusal := finishServing s.freedPlace

end Sys2Proof.Machine
end

