-- ==== Sys2Proof/Machine/Stops.lean ====
section
/-! DEFINITION. The stop input and the hall's frames: STOP_ASSERTED, STOP_RELEASED (R182), HALT (R183)
and GO (R184). -/

namespace Sys2Proof.Machine

/-- STOP_ASSERTED (R182): a local stop not asserted before stops the bench and queues HALT. -/
def execStopAsserted (s : State) : Host.Outcome State Fault Refusal :=
  if s.hc.localStop then .next s
  else
    let t := s.setHc { s.hc with localStop := true }
    finish ((if t.hc.stopped then t else t.enterStopped).produceHalt)

/-- STOP_RELEASED (R182): the bench stays STOPPED. -/
def execStopReleased (s : State) : Host.Outcome State Fault Refusal :=
  .next (s.setHc { s.hc with localStop := false })

/-- HALT handed to HC (R183); one whose body is not empty is discarded (R193). -/
def execHalt (s : State) : Host.Outcome State Fault Refusal :=
  match s.handOver .halt with
  | none => .next s
  | some (h, t) =>
    match Frame.ofBody h.kind h.body with
    | some .halt => if h.own || t.hc.stopped then finish t else finish t.enterStopped
    | _ => finish t

/-- GO handed to HC, of any sender (R184; log 23); one whose body is not empty is discarded (R193). -/
def execGo (s : State) : Host.Outcome State Fault Refusal :=
  match s.handOver .go with
  | none => .next s
  | some (h, t) =>
    match Frame.ofBody h.kind h.body with
    | some .go => if t.hc.localStop || !t.hc.stopped then finish t else finishServing t.clearStopped
    | _ => finish t

end Sys2Proof.Machine
end

