-- ==== Sys2Proof/Machine/PanelCmds.lean ====
section
/-! DEFINITION. PL's commands: OUTBOUND_RECORD_SENT (R211, R212), PANEL_RECORD_TIMEOUT and
PANEL_RECORD_DISCARDED (R210). -/

namespace Sys2Proof.Machine

/-- The first record of the buffer has been sent: it leaves, and owed items fill the places (R211, R212). -/
def State.recordSent (s : State) : State :=
  State.fillOwed Config.maxPanel (s.setPl { s.pl with buffer := s.pl.buffer.drop 1 })

/-- OUTBOUND_RECORD_SENT (R211, R212). -/
def execOutboundRecordSent (s : State) : Host.Outcome State Fault Refusal := .next s.recordSent

/-- PL goes back to waiting for a start byte (R210). -/
def State.awaitStart (s : State) : State := s.setPl { s.pl with inbound := [] }

/-- The state a command goes on to; it stands for no other outcome (no command of a record has one). -/
def goOn (o : Host.Outcome State Fault Refusal) (f : State → Host.Outcome State Fault Refusal) :
    Host.Outcome State Fault Refusal :=
  match o with
  | .next t => f t
  | .fault r => .fault r
  | .refused r => .refused r

/-- A key by the number of its action (R172, R203). -/
def takeKey (p : Pos) (action : Nat) (s : State) : Host.Outcome State Fault Refusal :=
  match action with
  | 1 => execConfirm p s
  | 2 => execReject p s
  | 3 => execResume p s
  | 4 => execUndo p s
  | 5 => execAbandon p s
  | _ => .next s

/-- A record that passes is handed to its owner: SCAN to SU, KEY and STOP to HC, RESET as a bench reset
(R210). -/
def takeRecord (r : PanelIn) (s : State) : Host.Outcome State Fault Refusal :=
  match r with
  | .scan true label => execIntakeScan label s
  | .scan false label => execChuteScan label s
  | .key p action => takeKey p action s
  | .stop true => execStopAsserted s
  | .stop false => execStopReleased s
  | .reset => execBenchReset s

/-- PL takes one inbound byte, and the record it completes is taken before the next byte (R210). -/
def takeByte (b : Byte) (s : State) : Host.Outcome State Fault Refusal :=
  let (part, done) := panelFeed s.pl.inbound b
  let t := s.setPl { s.pl with inbound := part }
  match done with
  | none => .next t
  | some r => takeRecord r t

/-- PL takes inbound bytes in the order they arrive. -/
def takeBytes : List Byte → State → Host.Outcome State Fault Refusal
  | [], s => .next s
  | b :: bs, s => goOn (takeByte b s) (takeBytes bs)

/-- PANEL_RECORD_TIMEOUT: the record partly read is discarded (R210). -/
def execPanelRecordTimeout (s : State) : Host.Outcome State Fault Refusal := .next s.awaitStart

/-- PANEL_RECORD_DISCARDED: bytes arrive on the inbound link; a record among them that fails is discarded
without report and PL waits for a start byte again, one that passes is taken, and the bytes of a record
not yet whole stay partly read (R210; log 26). -/
def execPanelRecordDiscarded (bytes : List Byte) (s : State) : Host.Outcome State Fault Refusal :=
  takeBytes bytes s

end Sys2Proof.Machine
end

