-- ==== Sys2Proof/Machine/Dispatch.lean ====
section
/-! DEFINITION. The effect of a command on everything but the queue: one arm for each constructor, each
one direct call of its meaning. -/

namespace Sys2Proof.Machine

def exec (i : Instr) (s : State) : Host.Outcome State Fault Refusal :=
  match i with
  | .powerOnReset station positions rate => Sys2Proof.Machine.execPowerOnReset station positions rate s
  | .benchReset => Sys2Proof.Machine.execBenchReset s
  | .intakeScan label => Sys2Proof.Machine.execIntakeScan label s
  | .chuteScan label => Sys2Proof.Machine.execChuteScan label s
  | .confirm p => Sys2Proof.Machine.execConfirm p s
  | .reject p => Sys2Proof.Machine.execReject p s
  | .resume p => Sys2Proof.Machine.execResume p s
  | .undo p => Sys2Proof.Machine.execUndo p s
  | .abandon p => Sys2Proof.Machine.execAbandon p s
  | .stopAsserted => Sys2Proof.Machine.execStopAsserted s
  | .stopReleased => Sys2Proof.Machine.execStopReleased s
  | .panelRecordTimeout => Sys2Proof.Machine.execPanelRecordTimeout s
  | .sweep readings => Sys2Proof.Machine.execSweep readings s
  | .slotReserved => Sys2Proof.Machine.execSlotReserved s
  | .putTimeout p => Sys2Proof.Machine.execPutTimeout p s
  | .exactWaitExpiry p line => Sys2Proof.Machine.execExactWaitExpiry p line s
  | .gatherLimitExpiry p => Sys2Proof.Machine.execGatherLimitExpiry p s
  | .chillExpiry unit => Sys2Proof.Machine.execChillExpiry unit s
  | .surplusReached unit => Sys2Proof.Machine.execSurplusReached unit s
  | .offerSecondLook => Sys2Proof.Machine.execOfferSecondLook s
  | .wantRetry => Sys2Proof.Machine.execWantRetry s
  | .askWaitExpiry p line => Sys2Proof.Machine.execAskWaitExpiry p line s
  | .offerEntryAged station code => Sys2Proof.Machine.execOfferEntryAged station code s
  | .transferLimit station seq => Sys2Proof.Machine.execTransferLimit station seq s
  | .writeOff seq => Sys2Proof.Machine.execWriteOff seq s
  | .suppressionExpiry => Sys2Proof.Machine.execSuppressionExpiry s
  | .joinLimitExpiry => Sys2Proof.Machine.execJoinLimitExpiry s
  | .rollPeriodExpiry => Sys2Proof.Machine.execRollPeriodExpiry s
  | .rollRetry => Sys2Proof.Machine.execRollRetry s
  | .peerAbsent station => Sys2Proof.Machine.execPeerAbsent station s
  | .frameReceive bytes => Sys2Proof.Machine.execFrameReceive bytes s
  | .contention stage => Sys2Proof.Machine.execContention stage s
  | .contentionFault => Sys2Proof.Machine.execContentionFault s
  | .ownFrameComplete => Sys2Proof.Machine.execOwnFrameComplete s
  | .txSpaceGrant => Sys2Proof.Machine.execTxSpaceGrant s
  | .notice => Sys2Proof.Machine.execNotice s
  | .claim => Sys2Proof.Machine.execClaim s
  | .prior => Sys2Proof.Machine.execPrior s
  | .release => Sys2Proof.Machine.execRelease s
  | .done => Sys2Proof.Machine.execDone s
  | .offer => Sys2Proof.Machine.execOffer s
  | .want => Sys2Proof.Machine.execWant s
  | .ask => Sys2Proof.Machine.execAsk s
  | .askServe => Sys2Proof.Machine.execAskServe s
  | .grant => Sys2Proof.Machine.execGrant s
  | .taken => Sys2Proof.Machine.execTaken s
  | .roll => Sys2Proof.Machine.execRoll s
  | .setup => Sys2Proof.Machine.execSetup s
  | .halt => Sys2Proof.Machine.execHalt s
  | .go => Sys2Proof.Machine.execGo s
  | .outboundRecordSent => Sys2Proof.Machine.execOutboundRecordSent s
  | .panelRecordDiscarded bytes => Sys2Proof.Machine.execPanelRecordDiscarded bytes s

end Sys2Proof.Machine
end

