-- ==== Sys2Proof/WellFormed.lean ====
section
/-! DEFINITION. Which commands the ports can carry: operands in the ranges the manual gives them. -/

namespace Sys2Proof

/-- A load cell reads 0 to 6,000 g (R68). -/
def quadInRange (q : Quad) : Bool :=
  decide (q.c0 ≤ Config.saturated) && decide (q.c1 ≤ Config.saturated)
    && decide (q.c2 ≤ Config.saturated) && decide (q.c3 ≤ Config.saturated)

/-- A build has at most eight lines (R24). -/
def lineInRange (line : Nat) : Bool := decide (line < 8)

/-- A frame on the line is at most its header, a body of 72 bytes and its check (R189). -/
def frameInRange (bytes : List Byte) : Bool := decide (bytes.length ≤ Config.maxBody + 5)

/-- A station number is 1 to 31 (R189). -/
def stationInRange (k : Station) : Bool := decide (k ≠ 0#5)

/-- A frame a station can send: its station field 1 to 31, at most four exposures in a GRANT, one to eight
lines in a NOTICE (R145, R126, R193, R202). -/
def Machine.Frame.wellFormed : Machine.Frame → Bool
  | .prior _ holder => stationInRange holder
  | .ask offerer _ _ => stationInRange offerer
  | .grant asker _ _ exposures => stationInRange asker && decide (exposures.length ≤ 4)
  | .taken offerer _ _ => stationInRange offerer
  | .notice body => decide (1 ≤ body.lines.length) && decide (body.lines.length ≤ 8)
  | .halt => true
  | .go => true
  | .claim _ => true
  | .release _ => true
  | .done _ _ _ _ => true
  | .offer _ _ => true
  | .want _ _ => true
  | .roll _ _ => true
  | .setup _ => true

/-- The nodes that contend have station numbers (R189). -/
def stageInRange : ContentionStage → Bool
  | .begins => true
  | .decided rivals => rivals.all (fun r => stationInRange r.station)

/-- Whether a command is one the ports can carry. -/
def Instr.wellFormed : Instr → Bool
  | .powerOnReset _ _ _ => true
  | .benchReset => true
  | .intakeScan _ => true
  | .chuteScan _ => true
  | .confirm _ => true
  | .reject _ => true
  | .resume _ => true
  | .undo _ => true
  | .abandon _ => true
  | .stopAsserted => true
  | .stopReleased => true
  | .panelRecordTimeout => true
  | .sweep r => quadInRange r.a && quadInRange r.b && quadInRange r.c && quadInRange r.d
  | .slotReserved => true
  | .putTimeout _ => true
  | .exactWaitExpiry _ line => lineInRange line
  | .gatherLimitExpiry _ => true
  | .chillExpiry _ => true
  | .surplusReached _ => true
  | .offerSecondLook => true
  | .wantRetry => true
  | .askWaitExpiry _ line => lineInRange line
  | .offerEntryAged station _ => stationInRange station
  | .transferLimit station _ => stationInRange station
  | .writeOff _ => true
  | .suppressionExpiry => true
  | .joinLimitExpiry => true
  | .rollPeriodExpiry => true
  | .rollRetry => true
  | .peerAbsent station => stationInRange station
  | .frameReceive bytes => frameInRange bytes
  | .contention stage => stageInRange stage
  | .contentionFault => true
  | .ownFrameComplete => true
  | .txSpaceGrant => true
  | .notice => true
  | .claim => true
  | .prior => true
  | .release => true
  | .done => true
  | .offer => true
  | .want => true
  | .ask => true
  | .askServe => true
  | .grant => true
  | .taken => true
  | .roll => true
  | .setup => true
  | .halt => true
  | .go => true
  | .outboundRecordSent => true
  | .panelRecordDiscarded _ => true

end Sys2Proof
end

