-- ==== Sys2Proof/Safety.lean ====
section
/-! DEFINITION. What a safe run is, in the terms claims use: the capacities the manual gives the part's
tables, lists, queues and buffers, which every step keeps; what the panel has been told, which every step
keeps true; a queue of commands the ports can carry; and, written out from the manual's rules, a position's way
back to EMPTY, an order given up, and the orders by which SU, XU and TP choose. -/

namespace Sys2Proof.Machine

/-- The capacities of the part hold. -/
structure State.Bounded (s : State) : Prop where
  /-- The stock table has its 48 slots (R5). -/
  slots : s.su.slots.length = 48
  /-- One value is kept for each of the 86 lamps (R212). -/
  lamps : s.pl.lamps.length = 86
  /-- The outbound panel buffer holds at most 16 records (R211). -/
  buffer : s.pl.buffer.length ≤ 16
  /-- The notice list holds at most 32 notices (R123). -/
  notices : s.cu.notices.length ≤ 32
  /-- CU holds at most 16 waiting frames (R129). -/
  claimWaiting : s.cu.waiting.length ≤ 16
  /-- XU holds at most 16 waiting frames (R146). -/
  exchangeWaiting : s.xu.waiting.length ≤ 16
  /-- The offer list holds at most 16 entries (R150). -/
  offers : s.xu.offers.length ≤ 16
  /-- The ask queue holds at most 8 entries (R155). -/
  askQueue : s.xu.askQueue.length ≤ 8
  /-- The outbound list holds at most 8 entries (R156). -/
  outbound : s.xu.outbound.length ≤ 8
  /-- The expected list holds at most 8 entries (R160). -/
  expected : s.xu.expected.length ≤ 8
  /-- The transmit queue holds at most 8 frames, a started one included (R197). -/
  places : s.lp.places ≤ 8
  /-- The receive buffer holds at most 12 frames (R195). -/
  received : s.lp.received ≤ 12
  /-- At most 11 of them are of classes 1 to 3 (R195). -/
  received13 : s.lp.received13 ≤ 11

/-- What the panel was last told, or is owed, of a lamp: indices 0 to 47 slot lamps, 48 and 49 scanner
lamps, from 50 on the 8 cells of each tray, from 82 on the POSITION lamps (R212). -/
def State.lampShown (s : State) (n : Nat) : Option LampShow := (s.pl.lamps[n]?).map (·.shown)

/-- A placed unit of a build that a CHILL_EXPIRED names lies over a cell. -/
def State.NamedOver (s : State) (p : Pos) (cell : Nat) (x : Placed) : Prop :=
  ∃ h, s.hold p = some h ∧ x ∈ (s.build p).content ∧ x.unit.number ∈ h.named
    ∧ cell ∈ cellMask x.unit.label.size x.start

/-- The removal of a placed unit is pending. -/
def State.RemovalPending (s : State) (p : Pos) (x : Placed) : Prop :=
  ∃ r, s.put p = some r ∧ r.kind ≠ .put ∧ r.unit = x.unit.number

/-- A lamp of a pending operation while the bench is not STOPPED: rows 2 to 6 of R90. -/
def PutRec.lamp (r : PutRec) (held : Prop) [Decidable held] : LampShow :=
  if r.phase = .faulted ∨ (held ∧ (r.kind = .put ∨ r.kind = .removal .unload)) then ⟨.amber, false⟩
  else if r.kind = .put then ⟨.green, decide (r.phase = .settled)⟩
  else ⟨.red, r.failed && decide (r.phase = .awaitBase)⟩

/-- What the panel was last told, or is owed, is true of the state: the slot lamps by the table of R19, the
scanner lamps by R20, the tray lamps by that of R90, the POSITION lamps and records by R26, and while
STOPPED the RED flashing lamps alone (R21, R88). -/
structure State.PanelTrue (s : State) : Prop where
  /-- A RETURN unit's slot flashes RED, STOPPED or not. -/
  returned : ∀ i u, i < 48 → s.su.slot i = .occupied u .returned → s.lampShown i = some ⟨.red, true⟩
  /-- Any other slot is dark while STOPPED. -/
  stoppedSlot : ∀ i, i < 48 → s.hc.stopped = true → (∀ u, s.su.slot i ≠ .occupied u .returned) →
    s.lampShown i = some ⟨.off, false⟩
  /-- A PUTTING unit's slot is GREEN. -/
  putting : ∀ i u p l, i < 48 → s.hc.stopped = false → s.su.slot i = .occupied u (.putting p l) →
    s.lampShown i = some ⟨.green, false⟩
  /-- The slot of the latest intake scan is AMBER while its unit is FREE or EARMARKED, and the slot of
  any other such unit is dark. -/
  shelved : ∀ i u st, i < 48 → s.hc.stopped = false → s.su.slot i = .occupied u st → st ≠ .returned →
    (∀ p l, st ≠ .putting p l) →
    s.lampShown i = some ⟨if s.su.amberSlot = some i then .amber else .off, false⟩
  /-- A reserved slot flashes AMBER. -/
  reserved : ∀ i p, i < 48 → s.hc.stopped = false → s.su.slot i = .reserved p →
    s.lampShown i = some ⟨.amber, true⟩
  /-- An empty slot is BLUE while the GRANT that emptied it has its outbound entry, and dark otherwise. -/
  empty : ∀ i g, i < 48 → s.hc.stopped = false → s.su.slot i = .empty g →
    s.lampShown i = some ⟨if g = none then .off else .blue, false⟩
  /-- The scanner lamps keep their colour, and are dark while STOPPED. -/
  scanners : s.lampShown 48 = some ⟨if s.hc.stopped then .off else s.su.intakeLamp, false⟩
    ∧ s.lampShown 49 = some ⟨if s.hc.stopped then .off else s.su.chuteLamp, false⟩
  /-- A named unit's cells flash RED, STOPPED or not, unless its own removal is pending (log 13). -/
  named : ∀ p c x, s.isFitted p = true → c < 8 → s.NamedOver p c x → ¬ s.RemovalPending p x →
    s.lampShown (50 + 8 * p.index + c) = some ⟨.red, true⟩
  /-- The cells of a pending operation show it by rows 2 to 6 of R90. -/
  operation : ∀ p c r, s.isFitted p = true → c < 8 → s.hc.stopped = false →
    (∀ x, s.NamedOver p c x → s.RemovalPending p x) → s.put p = some r → c ∈ cellMask r.size r.start →
    s.lampShown (50 + 8 * p.index + c) = some (r.lamp ((s.build p).state = .held))
  /-- A cell under neither is dark. -/
  bare : ∀ p c, s.isFitted p = true → c < 8 → (∀ x, s.NamedOver p c x → s.RemovalPending p x) →
    (∀ r, s.put p = some r → c ∉ cellMask r.size r.start) →
    s.lampShown (50 + 8 * p.index + c) = some ⟨.off, false⟩
  /-- While STOPPED a cell under no named unit is dark. -/
  stoppedCell : ∀ p c, s.isFitted p = true → c < 8 → s.hc.stopped = true → (∀ x, ¬ s.NamedOver p c x) →
    s.lampShown (50 + 8 * p.index + c) = some ⟨.off, false⟩
  /-- While STOPPED the POSITION lamps are dark. -/
  stoppedPosition : ∀ p, s.isFitted p = true → s.hc.stopped = true →
    s.lampShown (82 + p.index) = some ⟨.off, false⟩
  /-- A POSITION lamp shows its build by the table of R26. -/
  position : ∀ p, s.isFitted p = true → s.hc.stopped = false →
    ((s.build p).state = .empty → s.lampShown (82 + p.index) = some ⟨.off, false⟩)
    ∧ ((s.build p).state = .claiming → s.lampShown (82 + p.index) = some ⟨.amber, true⟩)
    ∧ ((s.build p).state = .gathering → s.lampShown (82 + p.index) = some ⟨.amber, false⟩)
    ∧ ((s.build p).state = .putting → (s.build p).trayWanted = true →
        s.lampShown (82 + p.index) = some ⟨.blue, true⟩)
    ∧ ((s.build p).state = .putting → (s.build p).trayWanted = false →
        s.lampShown (82 + p.index) = some ⟨.green, false⟩)
    ∧ ((s.build p).state = .sealed → s.lampShown (82 + p.index) = some ⟨.green, true⟩)
    ∧ ((s.build p).state = .unloading → p ∈ s.su.requests →
        s.lampShown (82 + p.index) = some ⟨.blue, false⟩)
    ∧ ((s.build p).state = .unloading → p ∉ s.su.requests →
        s.lampShown (82 + p.index) = some ⟨.red, false⟩)
    ∧ ((s.build p).state = .held → s.lampShown (82 + p.index) = some ⟨.red, true⟩)
  /-- A POSITION record carries the state, n, and the primary cause while HELD. -/
  record : ∀ p, s.isFitted p = true →
    (s.pl.positions.get p).shown.state = (s.build p).state
    ∧ (s.pl.positions.get p).shown.n = ((s.build p).lines.map (fun l => l.item.quantity)).sum
    ∧ (s.pl.positions.get p).shown.primary =
        (if (s.build p).state = .held then (s.hold p).map (fun h => h.primary.cause) else none)
  /-- Its k is the put index of the put pending or next to start, the saved one while HELD, that of the last
  placed unit in UNLOADING, and 0 in the states that name none. -/
  recordIndex : ∀ p, s.isFitted p = true →
    (∀ r, (s.build p).state = .putting → s.put p = some r → (s.pl.positions.get p).shown.k = r.index)
    ∧ (∀ e es, (s.build p).state = .putting → s.put p = none → (s.build p).plan = e :: es →
        (s.pl.positions.get p).shown.k = e.index)
    ∧ (∀ h, (s.build p).state = .held → s.hold p = some h → (s.pl.positions.get p).shown.k = h.savedIndex)
    ∧ ((s.build p).state = .unloading →
        (s.pl.positions.get p).shown.k = (((s.build p).content.getLast?).map (·.index)).getD 0)
    ∧ ((s.build p).state ∈ [.empty, .claiming, .gathering, .sealed] →
        (s.pl.positions.get p).shown.k = 0)

/-! ### Keys and reports -/

/-- The keys that HC refuses for a HELD build, by the primary cause and the next state (R173); the actions
are numbered as in R172: 1 CONFIRM, 2 REJECT, 3 RESUME, 4 UNDO, 5 ABANDON. -/
def State.HoldRefuses (s : State) (p : Pos) (h : Hold) (action : Nat) : Prop :=
  (action ≠ 5 ∧ h.resolving ≠ .none)
  ∨ (action = 2 ∧ (h.next = .unloading
      ∨ h.primary.cause ∉ [Cause.scaleOverrange, .putRemoved, .putMismatch, .putTimeout]))
  ∨ (action = 3 ∧ (h.primary.cause ∈ [Cause.chillExpired, .orderGone, .planFull, .overweight]
      ∨ (h.next = .unloading ∧ h.primary.cause ∉ [Cause.scaleOverrange, .putMismatch])))
  ∨ (action = 4 ∧ (h.next = .unloading ∨ (s.build p).content = [] ∨ (s.put p).isSome = true
      ∨ h.primary.cause ∉ [Cause.overweight, .invalid, .clamped, .bandLow, .bandHigh, .inexact, .gatherLate]))
  ∨ (action = 5 ∧ h.next = .unloading ∧ h.primary.cause ≠ .orderGone)

/-- The keys that HC refuses (R172): every key while STOPPED and beyond the position strap; in a HELD build
CONFIRM and what R173 refuses; in any other RESUME, UNDO and ABANDON, and CONFIRM and REJECT where no put of
a PUTTING build is pending. -/
def State.RefusesKey (s : State) (p : Pos) (action : Nat) : Prop :=
  s.hc.stopped = true ∨ s.isFitted p = false
  ∨ ((s.build p).state = .held ∧ (action = 1 ∨ ∃ h, s.hold p = some h ∧ s.HoldRefuses p h action))
  ∨ ((s.build p).state ≠ .held ∧ (3 ≤ action ∨ s.keyPut p = none))

/-- A REPORT is in the panel's buffer unless the panel is owed something: a report that finds no room is
dropped, and position A is owed for it (R211). -/
def State.Told (s : State) (code : Nat) (p : Option Pos) (u : Option UnitNo) (v : Nat) : Prop :=
  s.pl.anyOwed = false → .report code p u v ∈ s.pl.buffer

/-! ### Orders given up and positions left -/

/-- CU has produced RELEASE of an order on the way from `s` to `t`: it is in the transmit queue where that had
space, waits with CU behind at most 15 other frames where it had none, and is discarded while ISOLATED (R129,
R135, R200). -/
def State.Releases (s t : State) (o : OrderId) : Prop :=
  (s.jc.state ≠ .isolated → s.lp.hasSpace = true → Frame.release o ∈ t.lp.queue)
  ∧ (s.jc.state ≠ .isolated → s.lp.hasSpace = false → s.cu.waiting.length < 16 →
      Frame.release o ∈ t.cu.waiting)
  ∧ (s.jc.state = .isolated → t.lp = s.lp)

/-- An order's notice has been given up (R135): OPEN with released-by-me set, or STRANDED at a count of 3. -/
def Notice.given (n : Notice) : Notice :=
  { n with state := if 3 ≤ n.count then .stranded else .opened, releasedByMe := true }

/-- No RELEASE of an order has been produced on the way from `s` to `t`. -/
def State.NoRelease (s t : State) (o : OrderId) : Prop :=
  (Frame.release o ∈ t.lp.queue → Frame.release o ∈ s.lp.queue)
  ∧ (Frame.release o ∈ t.cu.waiting → Frame.release o ∈ s.cu.waiting)

/-- A position has left its build of an order and entered EMPTY on the way from `s` to `t` (R50); it may have
marked another order at once (R27). -/
structure State.Emptied (s t : State) (p : Pos) (o : OrderId) : Prop where
  /-- The build record is cleared, or that of a position CLAIMING another order. -/
  build : t.build p = .cleared ∨ ∃ n ∈ t.cu.notices, n.order ≠ o ∧ n.state = .marked p
    ∧ t.build p = { Build.cleared with state := .claiming, link := some n.order }
  /-- The hold record is clear. -/
  hold : t.hold p = none
  /-- No put or removal is pending. -/
  put : t.put p = none
  /-- The cause set and the sticky flags are empty. -/
  valuation : t.vu.get p = .reset
  /-- No slot request of the position waits. -/
  request : p ∉ t.su.requests
  /-- No unit is EARMARKED for the position any more. -/
  unearmarked : ∀ i u l, t.su.slot i ≠ .occupied u (.earmarked p l)
  /-- A unit that was (and is not the one being put) is FREE, or another position's line has taken it. -/
  freed : ∀ i u l, s.su.slot i = .occupied u (.earmarked p l) → (∀ r, s.put p = some r → r.unit ≠ u.number) →
    t.su.slot i = .occupied u (.free 0) ∨ ∃ q k, q ≠ p ∧ (t.su.slot i = .occupied u (.earmarked q k)
      ∨ t.su.slot i = .occupied u (.putting q k))
  /-- No expected entry is linked to the position. -/
  unlinked : ∀ e ∈ t.xu.expected, ∀ r, e.link = some r → r.p ≠ p
  /-- No ask record is of its lines. -/
  asks : ∀ a ∈ t.xu.asks, a.line.p ≠ p

/-! ### Choices -/

/-- The record of an item code that a chute scan stands for (R12): the RETURN unit with the highest exposure,
the lowest slot among equals; without one the FREE unit in the lowest slot; without either the EARMARKED unit
that comes latest in the earmark order. -/
def State.ChuteStandsFor (s : State) (c : ItemCode) (i : Nat) : Prop :=
  ∃ u st, s.su.slot i = .occupied u st ∧ u.label.code = c
    ∧ ((st = .returned ∧ ∀ j v, s.su.slot j = .occupied v .returned → v.label.code = c →
          v.exposure.getD 0 < u.exposure.getD 0 ∨ (v.exposure.getD 0 = u.exposure.getD 0 ∧ i ≤ j))
      ∨ ((∀ j v, s.su.slot j = .occupied v .returned → v.label.code ≠ c)
        ∧ (((∃ age, st = .free age) ∧
              ∀ j v age, s.su.slot j = .occupied v (.free age) → v.label.code = c → i ≤ j)
          ∨ ((∀ j v age, s.su.slot j = .occupied v (.free age) → v.label.code ≠ c)
            ∧ (∃ p l, st = .earmarked p l) ∧ s.su.slotOf u.number = some i
            ∧ ∃ xs ys, s.su.earmarkOrder = xs ++ u.number :: ys
              ∧ ∀ n ∈ ys, ∀ j v p l, s.su.slotOf n = some j → s.su.slot j = .occupied v (.earmarked p l) →
                v.label.code ≠ c))))

/-- A unit record of the station holds a number: on the shelf, in a content list or in the outbound list (R4). -/
def State.HoldsNumber (s : State) (n : UnitNo) : Prop :=
  (∃ i u st, s.su.slot i = .occupied u st ∧ u.number = n)
  ∨ (∃ p, ∃ x ∈ (s.build p).content, x.unit.number = n)
  ∨ ∃ o ∈ s.xu.outbound, ∃ u ∈ o.units, u.number = n

/-- The order in which XU chooses units to grant (R156): CHILLED units first, most exposed first with the lower
slot among equals, then the others in lowest-slot order. -/
def Grantable.Sooner (x y : Grantable) : Prop :=
  match x.unit.exposure, y.unit.exposure with
  | some a, some b => b < a ∨ (a = b ∧ x.slot < y.slot)
  | some _, none => True
  | none, some _ => False
  | none, none => x.slot < y.slot

/-- A tray type's cells, the cells of its lower layer, those of its chill pocket, and its net weight limit in
grams (R53). -/
def TrayType.table : TrayType → Nat × Nat × Nat × Nat
  | .large => (8, 4, 2, 9000)
  | .medium => (4, 2, 1, 5000)
  | .small => (2, 1, 1, 2500)

/-- The keys of plan order (R60): group, size, line and unit number. -/
def PlanUnit.keys (u : PlanUnit) : List Nat :=
  [match u.handling with
    | .chilled => 0
    | .fragile => 1
    | .ambient => if 1500 < u.weight then 2 else 3,
   match u.size with
    | .quad => 0
    | .double => 1
    | .single => 2,
   u.line, u.unit.toNat]

/-- A step that neither faults nor refuses. -/
def State.GoesOn (s : State) : Prop := ∃ t, step s = .next t

/-- Every waiting command is one the ports can carry. -/
def State.QueueWellFormed (s : State) : Prop := s.pending.all Instr.wellFormed = true

end Sys2Proof.Machine
end

