-- ==== Sys2Proof/Certificates/Slice0/Obligations.lean ====
section
/-! DEFINITION. The statements for the provers: the step, the resets, the shelf, the keys, stops,
weighing and puts, valuation and plans, timers, the exchange, notices and claims, the bench line,
joining and the panel link. In a statement about a frame command the frame is the one hand-over gives
(`State.handOver`), and `u` is the state once it has been handed over. Where a statement writes
`t.setPl s.pl = …`, everything but the panel link's record is as the right side says. -/

open Sys2Proof Sys2Proof.Machine

/-! ### The step -/

/-- A step takes the command at the front of the queue and runs it on the queue's rest. -/
def Obligations.StepRunsFrontCommand : Prop :=
  ∀ (s : State) (i : Instr) (rest : List Instr), s.pending = i :: rest →
    step s = exec i { s with pending := rest }

/-- On an empty queue one second passes: grant times, offer ages, arrival clocks, offer clocks and peer
ages count up; ask waits, the suppression timer, the join limit and the roll period count down, as do the
gather limit and the RUNNING exact waits of a build while it is GATHERING, and the put limit of a pending
put unless it is suspended (STOPPED or HELD), FAULTED or SETTLED; the platforms and notices stand, and
XU's look of every second is due. The second on an empty queue is the model's choice (log 2). -/
def Obligations.IdleSecondCounts : Prop :=
  ∀ s : State, s.pending = [] →
    ∃ t, step s = .next t
      ∧ t.xu.outbound = s.xu.outbound.map (fun o => { o with time := o.time + 1 })
      ∧ t.xu.asks = s.xu.asks.map (fun a => { a with wait := a.wait - 1 })
      ∧ t.xu.offers = s.xu.offers.map (fun e => { e with age := e.age + 1 })
      ∧ t.xu.expected = s.xu.expected.map (fun e => { e with clock := e.clock + 1 })
      ∧ t.xu.clocks = s.xu.clocks.map (fun c => { c with seconds := c.seconds + 1 })
      ∧ t.jc.peers = s.jc.peers.map (fun x => { x with age := x.age + 1 })
      ∧ t.lp = { s.lp with suppression := s.lp.suppression.map (· - 1) }
      ∧ t.jc.joinLeft = s.jc.joinLeft.map (· - 1) ∧ t.jc.rollLeft = s.jc.rollLeft.map (· - 1)
      ∧ (∀ p, ((s.build p).state = .gathering →
            (t.build p).gatherLeft = (s.build p).gatherLeft.map (· - 1)
            ∧ (t.build p).lines = (s.build p).lines.map (fun l => match l.exactWait with
                | .running n => { l with exactWait := .running (n - 1) }
                | .expired => l))
          ∧ ((s.build p).state ≠ .gathering →
            (t.build p).gatherLeft = (s.build p).gatherLeft ∧ (t.build p).lines = (s.build p).lines))
      ∧ (∀ p, t.put p = (s.put p).map (fun r =>
          if r.kind = .put ∧ s.hc.stopped = false ∧ (s.build p).state ≠ .held ∧ r.phase ≠ .faulted
              ∧ r.phase ≠ .settled then { r with limitLeft := r.limitLeft - 1 } else r))
      ∧ t.hc = s.hc ∧ t.cu = s.cu ∧ t.wf = s.wf ∧ t.vu = s.vu ∧ t.pl = s.pl
      ∧ Instr.offerSecondLook ∈ t.pending

/-- In the second of an empty queue (log 2) every exposure on the shelf and in a build that is not SEALED
goes up by one, held at 65,535, and a FREE unit's free age by one; exposures of a SEALED build and of
granted units stand. -/
def Obligations.ExposureCounts : Prop :=
  ∀ s : State, s.pending = [] →
    ∃ t, step s = .next t
      ∧ (∀ i u age, s.su.slot i = .occupied u (.free age) → t.su.slot i =
          .occupied { u with exposure := u.exposure.map (fun e => min 65535 (e + 1)) } (.free (age + 1)))
      ∧ (∀ i u st, s.su.slot i = .occupied u st → (∀ age, st ≠ .free age) → t.su.slot i =
          .occupied { u with exposure := u.exposure.map (fun e => min 65535 (e + 1)) } st)
      ∧ (∀ p, (s.build p).state ≠ .sealed → (t.build p).content.map (fun x => x.unit.exposure) =
          (s.build p).content.map (fun x => x.unit.exposure.map (fun e => min 65535 (e + 1))))
      ∧ (∀ p, (s.build p).state = .sealed → (t.build p).content = (s.build p).content)
      ∧ t.xu.outbound.map (fun o => o.units) = s.xu.outbound.map (fun o => o.units)

/-- No command of the part ends in a fault or a refusal, in any state. -/
def Obligations.EveryCommandGoesOn : Prop :=
  ∀ (c : Instr) (s : State), ∃ t, exec c s = .next t

/-- Right after reset the thirteen capacities of `State.Bounded` hold: 48 slots, 86 lamps, and the limits
of the panel's buffer, the notice list, CU's and XU's waiting frames, the offer list, the ask queue, the
outbound list, the expected list, the transmit queue, the receive buffer, and its frames of classes 1 to
3. What the panel is told or owed is true then: every lamp OFF and every position EMPTY. -/
def Obligations.ResetIsBounded : Prop := State.reset.Bounded ∧ State.reset.PanelTrue

/-- Every step keeps the thirteen capacities of `State.Bounded`: 48 slots, 86 lamps, and the limits of
the panel's buffer, the notice list, CU's and XU's waiting frames, the offer list, the ask queue, the
outbound list, the expected list, the transmit queue, the receive buffer, and its frames of classes 1 to
3. In a state that has them, it keeps what the panel was last told, or is owed, true of the state
(`State.PanelTrue`): the slot, scanner, tray and POSITION lamps by their tables, dark while STOPPED but for
the RED flashing ones, and the POSITION records. Where a lamp or a record was not true before,
OFFER_SECOND_LOOK, which changes nothing they show, makes it so: a lamp that shows another value gets a LAMP
record of its value in the outbound buffer or is owed, and so does a POSITION record. That lamps going dark, or
flashing RED, while STOPPED are sent or owed rests on log 11 (DEDUCED: R26 and R90 have changes not sent while
STOPPED); which cells of a named unit flash, on log 13. -/
def Obligations.StepKeepsBounded : Prop :=
  (∀ s t : State, s.Bounded → step s = .next t → t.Bounded)
  ∧ (∀ s t : State, s.Bounded → s.PanelTrue → step s = .next t → t.PanelTrue)
  ∧ ∀ s : State, s.Bounded → ∃ t, exec .offerSecondLook s = .next t
    ∧ t.PanelTrue ∧ t.su = s.su ∧ t.be = s.be ∧ t.pv = s.pv ∧ t.hc = s.hc
    ∧ (∀ n id, LampId.all[n]? = some id → t.lampShown n ≠ s.lampShown n →
        ∃ c, t.pl.lamps[n]? = some c ∧ (c.owed = true ∨ .lamp id c.shown ∈ t.pl.buffer))
    ∧ ∀ p, (t.pl.positions.get p).shown ≠ (s.pl.positions.get p).shown →
        (t.pl.positions.get p).owed = true
          ∨ ∃ lost, .position p (t.pl.positions.get p).shown lost ∈ t.pl.buffer

/-! ### Resets -/

/-- POWER_ON_RESET with the straps of the model's reset state leaves that state (the straps are the
model's choice, log 1). -/
def Obligations.ResetIsPowerOnReset : Prop :=
  ∀ s : State, exec (.powerOnReset 1#5 3#2 0#2) s = .next { State.reset with pending := s.pending }

/-- POWER_ON_RESET with a bench number enters JOINING with a join limit of 5 s, the power-on SETUP
values and a fresh ROLL in the transmit queue, and every other block cleared. With a number no bench can
use it enters ISOLATED and offers no ROLL; its NUMBER_CLASH finds the panel's buffer filled with owed
items and is dropped with the reports-lost mark (R211, R212; log 12). -/
def Obligations.PowerOnSamplesStraps : Prop :=
  ∀ (station : BitVec 5) (positions rate : BitVec 2) (s : State),
    (1 ≤ station.toNat → station.toNat ≤ 28 →
      ∃ t, exec (.powerOnReset station positions rate) s = .next t
        ∧ t.jc = { state := .joining, station := station, fitted := positions.toNat + 1, rate := rate,
                   joinLeft := some 5, setup := .powerOn, rollLeft := none, rollOwed := false, peers := [] }
        ∧ t.lp = { LinePort.reset with queue := [.roll true (BitVec.ofNat 8 (positions.toNat + 1))] }
        ∧ t.hc = .reset ∧ t.cu = ⟨[], []⟩ ∧ t.su = .reset ∧ t.be = .all .cleared ∧ t.claimCounter = 0
        ∧ t.wf = .all .reset ∧ t.pv = .all none ∧ t.vu = .all .reset ∧ t.xu = .reset
        ∧ t.pending = s.pending)
    ∧ ((station.toNat = 0 ∨ 29 ≤ station.toNat) →
      ∃ t, exec (.powerOnReset station positions rate) s = .next t
        ∧ t.jc.state = .isolated ∧ t.jc.joinLeft = none ∧ t.jc.setup = .powerOn
        ∧ t.jc.fitted = positions.toNat + 1
        ∧ t.lp = .reset ∧ t.su = .reset ∧ t.be = .all .cleared ∧ t.pl.reportsLost = true)

/-- BENCH_RESET keeps station state, straps, SETUP values, join limit, peer table, sequence number,
STOPPED, local stop and the frame that has started; it clears the shelf, the build records, the holds, the
platforms, the puts, the cause records, the rest of LP and of XU and the claim counter. No frame of before
waits with HC, CU or XU, and the transmit queue holds the CLAIM of each position that marks a notice at
once, in letter order, and behind them the fresh ROLL, and nothing else; while ISOLATED it is empty. An
ACTIVE station's roll period starts again. The notice list is kept in its order: a MARKED or MINE notice
gains one on its count, up to 3, has released-by-me set and becomes OPEN, or STRANDED at 3, and a GONE
notice goes. A position is then EMPTY, or CLAIMING the notice it has marked at once. Own completed frames that
wait in the hand-over sequence go as well: the model's choice (log 19). -/
def Obligations.BenchResetKeepsAndClears : Prop :=
  ∀ s : State, ∃ t, exec .benchReset s = .next t
    ∧ t.jc.state = s.jc.state ∧ t.jc.station = s.jc.station ∧ t.jc.fitted = s.jc.fitted
    ∧ t.jc.rate = s.jc.rate ∧ t.jc.setup = s.jc.setup ∧ t.jc.joinLeft = s.jc.joinLeft
    ∧ t.jc.peers = s.jc.peers
    ∧ t.hc.stopped = s.hc.stopped ∧ t.hc.localStop = s.hc.localStop ∧ t.hc.holds = .all none
    ∧ t.hc.haltsWaiting = 0
    ∧ t.lp.started.map (·.frame) = s.lp.started.map (·.frame) ∧ t.lp.handover = []
    ∧ t.lp.contending = none
    ∧ t.cu.notices.map (fun n => (n.order, n.info, n.count, n.releasedByMe))
        = s.cu.notices.filterMap (fun n => match n.state with
            | .gone _ _ => none
            | .marked _ => some (n.order, n.info, min (n.count + 1) 3, true)
            | .mine _ => some (n.order, n.info, min (n.count + 1) 3, true)
            | _ => some (n.order, n.info, n.count, n.releasedByMe))
    ∧ (∀ n ∈ s.cu.notices, ((∃ p, n.state = .marked p) ∨ ∃ p, n.state = .mine p) →
        (∀ m ∈ s.cu.notices, m.order = n.order → m = n) →
        ∃ m ∈ t.cu.notices, m.order = n.order ∧ m.state = (if 2 ≤ n.count then .stranded else .opened))
    ∧ (∀ p, (t.build p).content = [] ∧ (t.build p).plan = [] ∧ (t.build p).lines = []
        ∧ (t.build p).exclusion = [] ∧ (t.build p).tare = none ∧ (t.build p).claimOrder = none
        ∧ (t.build p).gatherLeft = none ∧ (t.build p).unloadReason = none
        ∧ ((t.build p).state = .empty ∧ (t.build p).link = none ∨ (t.build p).state = .claiming
            ∧ ∃ n ∈ t.cu.notices, n.state = .marked p ∧ (t.build p).link = some n.order))
    ∧ t.lp.queue = Pos.all.filterMap (fun p => (t.build p).link.map Frame.claim)
        ++ (if s.jc.state = .isolated then [] else [.roll true (BitVec.ofNat 8 s.jc.fitted)])
    ∧ (s.jc.state ≠ .active → ∀ p, (t.build p).state = .empty)
    ∧ t.cu.waiting = [] ∧ t.jc.rollOwed = false
    ∧ t.jc.rollLeft = (if s.jc.state = .active then some 10 else none)
    ∧ t.lp.faults = 0 ∧ t.lp.suppression = none
    ∧ t.su = .reset ∧ t.wf = .all .reset ∧ t.pv = .all none ∧ t.vu = .all .reset
    ∧ t.xu = { Exchange.reset with seq := s.xu.seq } ∧ t.claimCounter = 0 ∧ t.pending = s.pending
    ∧ (s.jc.state ≠ .isolated → Frame.roll true (BitVec.ofNat 8 s.jc.fitted) ∈ t.lp.queue)

/-! ### The shelf -/

/-- A scan that is refused changes its scanner's lamp to RED and nothing else but the panel link, an
intake scan putting the AMBER slot lamp out as well. -/
def Obligations.RefusedScansTurnLampRed : Prop :=
  ∀ (raw : RawLabel) (s : State),
    ((∃ field, checkLabel raw = .error field) ∨ s.su.lowestEmpty = none →
      ∃ t, exec (.intakeScan raw) s = .next t
        ∧ t.setPl s.pl = s.setSu { s.su with intakeLamp := .red, amberSlot := none })
    ∧ ((∃ field, checkLabel raw = .error field) ∨
        (∃ l, checkLabel raw = .ok l ∧ s.chuteChoice l.code = none) →
      ∃ t, exec (.chuteScan raw) s = .next t
        ∧ t.setPl s.pl = s.setSu { s.su with chuteLamp := .red })

/-- An intake scan that is not refused gives the unit the next number and the lowest empty slot, and
turns the intake lamp GREEN and the slot's lamp AMBER. A unit at the chill limit is RETURN. Any other goes
to the line of the expected entry it uses, where that line's build is eligible (GATHERING, or PUTTING with
an uncovered line), the line is uncovered and the unit is not excluded; else to the first line of the fitted
builds in claim order and line order that is so and whose code is the unit's, or whose exact wait is EXPIRED
with the unit an acceptable substitute; else it stays FREE. The line that takes it holds one unit more, and
the unit is EARMARKED, or PUTTING where its put starts at once. The number is the first above the last one given,
going round after 65535, that no record on the shelf, in a content list or in the outbound list holds. Without an
expected entry of the code the unit is LOOSE, at exposure 0 if CHILLED. With one, the oldest is used: the unit is
RECEIVED from its source, and if CHILLED has the entry's first carried exposure plus its arrival clock, at most
65,535; the entry loses one of its remaining count and that carried exposure, and at its last unit it leaves the
list and TAKEN of all granted units is queued, or waits with XU where the queue has no space, or is discarded
while ISOLATED; and the incoming count of its linked line falls by one. (No other entry has
its tag: R160.) That TAKEN is produced before the linked line is handed to XU, and so takes a last free place of
the queue ahead of that line's ASK or WANT, is the model's choice (log 43). -/
def Obligations.IntakeScanEntersUnit : Prop :=
  ∀ (raw : RawLabel) (l : Label) (i : Nat) (s : State),
    checkLabel raw = .ok l → s.su.lowestEmpty = some i →
    ∃ t, exec (.intakeScan raw) s = .next t
      ∧ (t.su.slot i).unit? = some (s.scannedUnit l)
      ∧ t.su.lastNumber = s.nextNumber ∧ t.su.intakeLamp = .green ∧ t.su.amberSlot = some i
      ∧ t.su.chuteLamp = s.su.chuteLamp ∧ t.jc = s.jc ∧ t.wf = s.wf ∧ t.pending = s.pending
      ∧ (s.overLimit (s.scannedUnit l) = true → t.su.slot i = .occupied (s.scannedUnit l) .returned)
      ∧ (s.overLimit (s.scannedUnit l) = false →
        ∀ (open_ takes : LineRef → Prop),
          (∀ x, open_ x ↔ (s.scannedUnit l).number ∉ (s.build x.p).exclusion
            ∧ ((s.build x.p).state = .gathering
              ∨ (s.build x.p).state = .putting ∧ ∃ k ∈ (s.build x.p).lines, 0 < k.uncovered)
            ∧ ∃ k, s.line? x = some k ∧ 0 < k.uncovered) →
          (∀ x, takes x ↔ open_ x ∧ s.isFitted x.p = true ∧ (s.build x.p).claimOrder ≠ none
            ∧ ∃ k, s.line? x = some k ∧ (k.item.code = l.code
              ∨ (k.exactWait = .expired ∧ s.acceptable x (s.scannedUnit l) = true))) →
          (∀ r, ((s.expectedOf l.code).bind (·.link) = some r ∧ open_ r
              ∨ (∀ x, (s.expectedOf l.code).bind (·.link) = some x → ¬ open_ x) ∧ takes r
                ∧ ∀ x, takes x → x ≠ r → ∃ m n, (s.build r.p).claimOrder = some m
                  ∧ (s.build x.p).claimOrder = some n ∧ (m < n ∨ (x.p = r.p ∧ r.line < x.line))) →
            (t.su.slot i = .occupied (s.scannedUnit l) (.earmarked r.p r.line)
              ∨ t.su.slot i = .occupied (s.scannedUnit l) (.putting r.p r.line))
            ∧ (t.line? r).map LineRec.heldUnits = (s.line? r).map (fun k => k.heldUnits + 1))
          ∧ ((∀ x, (s.expectedOf l.code).bind (·.link) = some x → ¬ open_ x) → (∀ x, ¬ takes x) →
            t.su.slot i = .occupied (s.scannedUnit l) (.free 0)))
      ∧ (s.allUnits.length < 65536 → ¬ s.HoldsNumber t.su.lastNumber
        ∧ ∀ n : UnitNo, (n - (s.su.lastNumber + 1#16)).toNat
            < (t.su.lastNumber - (s.su.lastNumber + 1#16)).toNat → s.HoldsNumber n)
      ∧ ∀ v, (t.su.slot i).unit? = some v →
        v.number = t.su.lastNumber ∧ v.label = l
        ∧ ((∀ e ∈ s.xu.expected, e.code ≠ l.code) →
          v.source = .loose ∧ v.exposure = (if l.handling = .chilled then some 0 else none)
          ∧ t.xu.expected = s.xu.expected)
        ∧ ∀ xs e ys, s.xu.expected = xs ++ e :: ys → e.code = l.code → (∀ x ∈ xs, x.code ≠ l.code) →
          v.source = .received e.source
          ∧ v.exposure = (if l.handling = .chilled then
              some (min 65535 (e.exposures.headD 0 + e.clock)) else none)
          ∧ (∀ r k, e.link = some r → s.line? r = some k →
            (t.line? r).map (·.incoming) = some (k.incoming - 1))
          ∧ ((∀ x ∈ xs ++ ys, ¬ (x.source = e.source ∧ x.seq = e.seq)) →
            (1 < e.remaining → t.xu.expected = xs ++
              { e with remaining := e.remaining - 1, exposures := e.exposures.drop 1 } :: ys)
            ∧ ∀ f, f = Frame.taken e.source e.seq (BitVec.ofNat 8 e.granted) → e.remaining ≤ 1 →
              t.xu.expected = xs ++ ys
              ∧ (s.jc.state = .isolated → t.lp = s.lp)
              ∧ (s.jc.state ≠ .isolated → s.lp.hasSpace = true → f ∈ t.lp.queue)
              ∧ (s.jc.state ≠ .isolated → s.lp.hasSpace = false → s.xu.waiting.length < 16 →
                ⟨f, none⟩ ∈ t.xu.waiting))

/-- A chute scan that finds a unit of the code takes its record out of its slot, and the chute lamp
turns GREEN. It finds the record of R12 (`State.ChuteStandsFor`: the most exposed RETURN unit, else the lowest
FREE one, else the EARMARKED one that comes latest in the earmark order), and none where every unit of the code
is PUTTING. Every other slot keeps its unit, the number leaves the earmark order, and no expected or outbound
entry changes. A unit of no line changes no build. The line of an EARMARKED unit loses one earmark: a GATHERING
build gathers on with its gather limit as it was, a PUTTING one with a put pending goes on with it and regathers
after it, and a PUTTING one with none regathers at once, GATHERING with a full gather limit while a line is
uncovered. -/
def Obligations.ChuteScanRemovesUnit : Prop :=
  (∀ (c : ItemCode) (s : State),
    (∀ i u st, s.su.slot i = .occupied u st → u.label.code = c → ∃ p l, st = .putting p l) →
      s.chuteChoice c = none)
  ∧ ∀ (raw : RawLabel) (l : Label) (i : Nat) (s : State),
    checkLabel raw = .ok l → (s.chuteChoice l.code = some i ∨ s.ChuteStandsFor l.code i) →
    ∃ t, exec (.chuteScan raw) s = .next t
      ∧ (t.su.slot i).unit? = none ∧ t.su.chuteLamp = .green
      ∧ t.su.lastNumber = s.su.lastNumber ∧ t.su.intakeLamp = s.su.intakeLamp
      ∧ t.jc = s.jc ∧ t.wf = s.wf ∧ t.pending = s.pending
      ∧ (∀ j, s.ChuteStandsFor l.code j → s.chuteChoice l.code = some j)
      ∧ s.ChuteStandsFor l.code i
      ∧ (∀ j, j ≠ i → (t.su.slot j).unit? = (s.su.slot j).unit?)
      ∧ t.xu.expected = s.xu.expected ∧ t.xu.outbound = s.xu.outbound
      ∧ (∀ u st, s.su.slot i = .occupied u st → (∀ p k, st ≠ .earmarked p k) →
        t.be = s.be ∧ t.su.earmarkOrder = s.su.earmarkOrder.filter (fun n => decide (n ≠ u.number)))
      ∧ (∀ u p k, s.su.slot i = .occupied u (.earmarked p k) →
        (((s.build p).state ≠ .putting ∨ s.putPending p = true) →
          t.su.earmarkOrder = s.su.earmarkOrder.filter (fun n => decide (n ≠ u.number))
          ∧ (t.line? ⟨p, k⟩).map (·.earmarked) = (s.line? ⟨p, k⟩).map (fun x => x.earmarked - 1)
          ∧ (t.build p).state = (s.build p).state ∧ (t.build p).gatherLeft = (s.build p).gatherLeft)
        ∧ ((s.build p).state = .putting → s.putPending p = true → (t.build p).regatherDue = true)
        ∧ ((s.build p).state = .putting → s.putPending p = false → (t.build p).covered = false →
          (t.build p).state = .gathering ∧ (t.build p).plan = []
          ∧ (t.build p).gatherLeft = some s.jc.setup.gatherLimit))

/-- SLOT_RESERVED gives the lowest empty slot to the request that has waited longest, and goes on while a
request waits and a slot is empty: every request has its slot or waits on. No unit of the shelf, number,
scanner lamp or AMBER mark changes. -/
def Obligations.SlotReservedServesRequests : Prop :=
  ∀ s : State, ∃ t, exec .slotReserved s = .next t
    ∧ (∀ p ps i, s.su.requests = p :: ps → s.su.lowestEmpty = some i → t.su.slot i = .reserved p)
    ∧ (∀ p ∈ s.su.requests, p ∈ t.su.requests ∨ ∃ i, t.su.slot i = .reserved p)
    ∧ (t.su.requests = [] ∨ t.su.lowestEmpty = none)
    ∧ (∀ i, (t.su.slot i).unit? = (s.su.slot i).unit?)
    ∧ t.su.lastNumber = s.su.lastNumber ∧ t.su.earmarkOrder = s.su.earmarkOrder
    ∧ t.su.intakeLamp = s.su.intakeLamp ∧ t.su.chuteLamp = s.su.chuteLamp ∧ t.su.amberSlot = s.su.amberSlot
    ∧ t.be = s.be ∧ t.cu = s.cu ∧ t.xu = s.xu ∧ t.lp = s.lp ∧ t.jc = s.jc ∧ t.wf = s.wf

/-- A FREE unit that expires becomes RETURN where it stands, with no cause raised. So does an EARMARKED
one: unless its build is PUTTING with no put pending (which regathers at once) it leaves the earmark order
and its line loses one earmark, and nothing else of the shelf or of HC changes; a PUTTING build with a put
pending goes on with it and regathers after it. A unit of a GATHERING or PUTTING build that expires in its
tray with no put pending holds the build with CHILL_EXPIRED naming it, and its removal starts at once, with
no key, unless the bench is STOPPED. -/
def Obligations.ChillExpiryActsByPlace : Prop :=
  ∀ (n : UnitNo) (s : State),
    (∀ i u age, s.su.slotOf n = some i → s.su.slot i = .occupied u (.free age) → s.expires u = true →
      ∃ t, exec (.chillExpiry n) s = .next t
        ∧ t.su.slots = s.su.slots.set i (.occupied { u with expired := true } .returned)
        ∧ t.hc = s.hc ∧ t.be = s.be ∧ t.pv = s.pv ∧ t.cu = s.cu ∧ t.lp = s.lp ∧ t.jc = s.jc
        ∧ t.su.earmarkOrder = s.su.earmarkOrder)
    ∧ (∀ i u p l, s.su.slotOf n = some i → s.su.slot i = .occupied u (.earmarked p l) → s.expires u = true →
      ∃ t, exec (.chillExpiry n) s = .next t
        ∧ t.su.slot i = .occupied { u with expired := true } .returned
        ∧ (((s.build p).state ≠ .putting ∨ s.putPending p = true) →
          t.su = { s.su with
            slots := s.su.slots.set i (.occupied { u with expired := true } .returned)
            earmarkOrder := s.su.earmarkOrder.filter (fun v => decide (v ≠ u.number)) }
          ∧ (t.line? ⟨p, l⟩).map (·.earmarked) = (s.line? ⟨p, l⟩).map (fun x => x.earmarked - 1)
          ∧ t.hc = s.hc ∧ t.pv = s.pv ∧ t.cu = s.cu ∧ (t.build p).state = (s.build p).state)
        ∧ ((s.build p).state = .putting → s.putPending p = true → (t.build p).regatherDue = true))
    ∧ (∀ p, s.su.slotOf n = none → s.expiringBuild n = some p → s.put p = none → s.hold p = none →
      ((s.build p).state = .gathering ∨ (s.build p).state = .putting) →
      ∃ t h, exec (.chillExpiry n) s = .next t
        ∧ (t.build p).state = .held ∧ t.hold p = some h
        ∧ h.primary = ⟨.chillExpired, false⟩ ∧ h.named = [n] ∧ h.secondary = []
        ∧ h.next = h.saved ∧ h.saved = (s.build p).savedState
        ∧ (s.hc.stopped = false → h.resolving = .chill
          ∧ ∀ x, (s.build p).content.find? (fun y => decide (y.unit.number = n)) = some x →
            t.put p = some (removalRecord .chill x (s.baseline p)))
        ∧ (s.hc.stopped = true → h.resolving = .none ∧ t.put p = none))

/-! ### Keys -/

/-- Every key is refused while the bench is STOPPED and for a position beyond the strap. CONFIRM and
REJECT without a pending put of a PUTTING build, CONFIRM in a HELD build, and RESUME, UNDO and ABANDON in
a build that is not HELD are refused. In a HELD build RESUME, REJECT, UNDO and ABANDON are refused for
the primary causes and next states that do not accept them, all but ABANDON while resolving is UNDO or
CHILL, and UNDO with an empty content list or a put record that is not idle. A refused key changes
nothing but the panel link. -/
def Obligations.KeysRefused : Prop :=
  ∀ (p : Pos) (s : State),
    ((s.hc.stopped = true ∨ s.isFitted p = false) →
      ∀ c ∈ [Instr.confirm p, .reject p, .resume p, .undo p, .abandon p],
        ∃ t, exec c s = .next t ∧ t.setPl s.pl = s)
    ∧ (s.keyPut p = none → ∃ t, exec (.confirm p) s = .next t ∧ t.setPl s.pl = s)
    ∧ ((s.build p).state ≠ .held →
        (s.keyPut p = none → ∃ t, exec (.reject p) s = .next t ∧ t.setPl s.pl = s)
        ∧ (∀ c ∈ [Instr.resume p, .undo p, .abandon p], ∃ t, exec c s = .next t ∧ t.setPl s.pl = s))
    ∧ (∀ h, (s.build p).state = .held → s.hold p = some h →
        ((h.resolving ≠ .none ∨ h.primary.cause ∈ [Cause.chillExpired, .orderGone, .planFull, .overweight]
            ∨ (h.next = .unloading ∧ h.primary.cause ∉ [Cause.scaleOverrange, .putMismatch])) →
          ∃ t, exec (.resume p) s = .next t ∧ t.setPl s.pl = s)
        ∧ ((h.resolving ≠ .none ∨ h.next = .unloading
            ∨ h.primary.cause ∉ [Cause.scaleOverrange, .putRemoved, .putMismatch, .putTimeout]) →
          ∃ t, exec (.reject p) s = .next t ∧ t.setPl s.pl = s)
        ∧ ((h.resolving ≠ .none ∨ h.next = .unloading
            ∨ h.primary.cause ∉
                [Cause.overweight, .invalid, .clamped, .bandLow, .bandHigh, .inexact, .gatherLate]
            ∨ (s.build p).content = [] ∨ (s.put p).isSome = true) →
          ∃ t, exec (.undo p) s = .next t ∧ t.setPl s.pl = s)
        ∧ ((h.next = .unloading ∧ h.primary.cause ≠ .orderGone) →
          ∃ t, exec (.abandon p) s = .next t ∧ t.setPl s.pl = s))

/-- CONFIRM before the settle sets the confirm mark and nothing else. CONFIRM of a SETTLED put places the
unit: its record joins the content list with its placement and the settled delta as measured weight,
valued at that weight, and leaves its slot. The causes of the valuation join the build's sticky flags and
are its cause set until its next valuation operation; INVALID in the hold mask holds the build. -/
def Obligations.ConfirmPlacesUnit : Prop :=
  ∀ (p : Pos) (r : PutRec) (s : State), s.keysShut p = false → s.keyPut p = some r →
    (r.phase ≠ .settled →
      ∃ t, exec (.confirm p) s = .next t
        ∧ t.setPl s.pl = s.setPut p (some { r with confirmMark := true }))
    ∧ (∀ (d : Int) (i : Nat) (u : UnitRec) (st : ShelfState), r.phase = .settled → r.settledDelta = some d →
      s.su.slotOf r.unit = some i → s.su.slot i = .occupied u st →
      ∃ t, exec (.confirm p) s = .next t
        ∧ (t.build p).content = (s.build p).content
            ++ [⟨u, r.line, r.start, r.index, d, (valueUnit s.jc.setup.mode u.label d).value⟩]
        ∧ (t.su.slot i).unit? = none
        ∧ (t.build p).exclusion = (s.build p).exclusion
        ∧ (((s.vu.get p).sticky.union (valueUnit s.jc.setup.mode u.label d).causes).union
            (t.vu.get p).sticky = (t.vu.get p).sticky)
        ∧ ((s.build p).plan.filter (fun e => decide (e.unit ≠ u.number)) ≠ [] →
          (s.build p).regatherDue = false →
          t.vu.get p = ⟨(valueUnit s.jc.setup.mode u.label d).causes,
            (s.vu.get p).sticky.union (valueUnit s.jc.setup.mode u.label d).causes⟩)
        ∧ ((valueUnit s.jc.setup.mode u.label d).causes.invalid = true →
          s.jc.setup.holdMask.invalid = true → s.hold p = none →
          ∃ h, t.hold p = some h ∧ h.primary = ⟨.invalid, false⟩ ∧ h.saved = .putting
            ∧ (t.build p).state = .held)
        ∧ t.jc = s.jc ∧ t.wf = s.wf ∧ t.hc.stopped = s.hc.stopped)

/-- REJECT of a pending put, in PUTTING or as the resolution of a put fault, puts the unit in the
build's exclusion list; no unit of the content list is touched. With no expiry held back, a build that was
PUTTING regathers, and a HELD one takes up the secondary cause of the lowest code with GATHERING as its next
state, causes of a check dropped, or leaves HELD and regathers where there is none. A build that regathers
is GATHERING with a full gather limit while a line is uncovered. -/
def Obligations.RejectExcludesUnit : Prop :=
  ∀ (p : Pos) (r : PutRec) (s : State), s.keysShut p = false → s.put p = some r → r.kind = .put →
    ((s.build p).state = .putting ∨
      ∃ h, s.keyHoldOpen p = some h ∧ rejectAccepted h.primary.cause h.next = true) →
    ∃ t, exec (.reject p) s = .next t
      ∧ (t.build p).exclusion = addExclusion (s.build p).exclusion r.unit
      ∧ (t.build p).content = (s.build p).content
      ∧ (r.expiries = [] → (s.build p).state = .putting → (t.build p).covered = false →
          (t.build p).state = .gathering ∧ (t.build p).plan = [] ∧ t.put p = none
          ∧ (t.build p).gatherLeft = some s.jc.setup.gatherLimit)
      ∧ (∀ h, r.expiries = [] → s.keyHoldOpen p = some h →
          (∀ c cs, sortBy (fun x y : HeldCause => decide (x.cause.code < y.cause.code))
              (h.secondary.filter (fun x => !x.byCheck)) = c :: cs →
            ∃ h', (t.build p).state = .held ∧ t.hold p = some h' ∧ h'.primary = c ∧ h'.secondary = cs
              ∧ h'.next = .gathering)
          ∧ (h.secondary.filter (fun x => !x.byCheck) = [] → (t.build p).covered = false →
            (t.build p).state = .gathering ∧ t.hold p = none ∧ (t.build p).plan = [] ∧ t.put p = none
            ∧ (t.build p).gatherLeft = some s.jc.setup.gatherLimit))

/-- RESUME of a put fault with a secondary cause waiting restarts the put with a full limit and takes
up the secondary cause of the lowest code; the build stays HELD. With none waiting the build leaves HELD
into its next state. Into PUTTING it goes with the restarted put: with every line covered it plans again,
and a plan that fails holds it anew with PLAN_FULL; with a line uncovered it waits for that put to end
(log 15). Into GATHERING it regathers: GATHERING with a full gather limit while a line is uncovered. Into
CHECK the check is run again, with the cause now resumed and those this hold resumed before not raised
again. Into UNLOADING it keeps the pending removal.
RESUME of SCALE_OVERRANGE into PUTTING clears the put's fault: it has the phase the fault interrupted, its
baseline, confirm mark and limit left, is judged anew from the first stable reading once the build leaves HELD,
and in AWAIT_BASE takes a stable reading of 100 g or more as its baseline at once (log 14; before the new plan is
asked for, log 52). RESUME of INVALID, CLAMPED or INEXACT into PUTTING, with no put pending, takes up a secondary
cause as any other does, or leaves HELD: with a line uncovered the build regathers, GATHERING with a full gather
limit while it stays so; with every line covered it plans again, and the next put starts where the tare is taken,
or the check is run where no unit is left to put; a plan that fails holds it anew with PLAN_FULL. -/
def Obligations.ResumeTakesUpNextCause : Prop :=
  ∀ (p : Pos) (h : Hold) (s : State), s.keysShut p = false → s.keyHoldOpen p = some h →
    (∀ (r : PutRec), s.put p = some r → r.kind = .put →
      (h.primary.cause = .putMismatch ∨ h.primary.cause = .putRemoved ∨ h.primary.cause = .putTimeout) →
      h.next = .putting →
      (∀ (c : HeldCause) (cs : List HeldCause),
        sortBy (fun x y : HeldCause => decide (x.cause.code < y.cause.code))
          (h.secondary.filter (fun x => !x.byCheck)) = c :: cs →
        ∃ t h', exec (.resume p) s = .next t
          ∧ (t.build p).state = .held ∧ t.hold p = some h' ∧ h'.primary = c ∧ h'.secondary = cs
          ∧ h'.next = .putting ∧ h'.saved = h.saved
          ∧ t.put p = some { r with
              phase := .awaitBase, baseline := none, settledDelta := none, confirmMark := false,
              limitLeft := 90, resuming := false, failed := false })
      ∧ (h.secondary.filter (fun x => !x.byCheck) = [] →
        ∃ t, exec (.resume p) s = .next t
          ∧ (t.put p).map (fun q => (q.unit, q.limitLeft, q.confirmMark)) = some (r.unit, 90, false)
          ∧ ((s.build p).covered = false →
              (t.build p).state = .putting ∧ t.hold p = none ∧ (t.build p).regatherDue = true)
          ∧ ((s.build p).covered = true →
              (∀ es, s.plan p = .ok es →
                (t.build p).state = .putting ∧ t.hold p = none ∧ (t.build p).plan = es)
              ∧ (∀ e, s.plan p = .error e → ∃ h', (t.build p).state = .held ∧ t.hold p = some h'
                ∧ h'.primary = ⟨.planFull, false⟩ ∧ h'.saved = .gathering))))
    ∧ (resumeAccepted h.primary.cause h.next = true → h.secondary.filter (fun x => !x.byCheck) = [] →
      (h.next = .gathering →
        ∃ t, exec (.resume p) s = .next t
          ∧ ((t.build p).covered = false → (t.build p).state = .gathering ∧ t.hold p = none
            ∧ (t.build p).gatherLeft = some s.jc.setup.gatherLimit))
      ∧ (h.next = .unloading → (s.build p).content ≠ [] → (s.put p).isSome = true →
        ∃ t, exec (.resume p) s = .next t ∧ (t.build p).state = .unloading ∧ t.hold p = none
          ∧ (t.build p).content = (s.build p).content ∧ (t.put p).isSome = true))
    ∧ (resumeAccepted h.primary.cause h.next = true → h.next = .check → s.put p = none →
      h.primary.byCheck = true →
      (∀ c cs, sortBy (fun x y : HeldCause => decide (x.cause.code < y.cause.code)) h.secondary = c :: cs →
        ∃ t h', exec (.resume p) s = .next t ∧ (t.build p).state = .held ∧ t.hold p = some h'
          ∧ h'.primary = c ∧ h'.secondary = cs ∧ h'.next = .check
          ∧ h'.resumed = h.resumed ++ [h.primary.cause])
      ∧ (h.secondary = [] → ∃ t, exec (.resume p) s = .next t
        ∧ t.setPl s.pl = (((s.setHold p none).setBuild p { s.build p with state := .putting }).runCheck p
            (h.resumed ++ [h.primary.cause])).setPl s.pl))
    ∧ (∀ (r : PutRec), s.put p = some r → r.kind = .put → r.phase = .faulted →
      h.primary.cause = .scaleOverrange → h.next = .putting →
      (∀ (c : HeldCause) (cs : List HeldCause),
        sortBy (fun x y : HeldCause => decide (x.cause.code < y.cause.code))
          (h.secondary.filter (fun x => !x.byCheck)) = c :: cs →
        ∃ t h', exec (.resume p) s = .next t
          ∧ (t.build p).state = .held ∧ t.hold p = some h' ∧ h'.primary = c ∧ h'.secondary = cs
          ∧ h'.next = .putting ∧ t.put p = some { r with phase := r.before })
      ∧ (h.secondary.filter (fun x => !x.byCheck) = [] →
        ∃ t, exec (.resume p) s = .next t
          ∧ (r.before ≠ .awaitBase → t.put p = some { r with phase := r.before, resuming := true })
          ∧ (r.before = .awaitBase →
              (∀ g, s.stable p = some g → 100 ≤ g → t.put p = some { r with
                  phase := .awaitMove, baseline := some g, failed := false })
              ∧ ((∀ g, s.stable p = some g → g < 100) → t.put p = some { r with phase := .awaitBase }))
          ∧ ((s.build p).covered = false →
              (t.build p).state = .putting ∧ t.hold p = none ∧ (t.build p).regatherDue = true)
          ∧ ((s.build p).covered = true →
              (∀ es, s.plan p = .ok es →
                (t.build p).state = .putting ∧ t.hold p = none ∧ (t.build p).plan = es)
              ∧ (∀ e, s.plan p = .error e → ∃ h', (t.build p).state = .held ∧ t.hold p = some h'
                ∧ h'.primary = ⟨.planFull, false⟩ ∧ h'.saved = .gathering))))
    ∧ (h.primary.cause ∈ [Cause.invalid, .clamped, .inexact] → h.next = .putting → s.put p = none →
      (∀ (c : HeldCause) (cs : List HeldCause),
        sortBy (fun x y : HeldCause => decide (x.cause.code < y.cause.code))
          (h.secondary.filter (fun x => !x.byCheck)) = c :: cs →
        ∃ t h', exec (.resume p) s = .next t
          ∧ (t.build p).state = .held ∧ t.hold p = some h' ∧ h'.primary = c ∧ h'.secondary = cs
          ∧ h'.next = .putting)
      ∧ (h.secondary.filter (fun x => !x.byCheck) = [] →
        ∃ t, exec (.resume p) s = .next t
          ∧ ((s.build p).covered = false → (t.build p).covered = false →
              (t.build p).state = .gathering ∧ t.hold p = none ∧ (t.build p).plan = [] ∧ t.put p = none
              ∧ (t.build p).gatherLeft = some s.jc.setup.gatherLimit)
          ∧ ((s.build p).covered = true →
              (∀ e es i u k, s.plan p = .ok (e :: es) → (s.build p).tare ≠ none →
                s.su.slotOf e.unit = some i → s.su.slot i = .occupied u (.earmarked p k) →
                (t.build p).state = .putting ∧ t.hold p = none ∧ (t.build p).plan = e :: es
                ∧ t.su.slot i = .occupied u (.putting p k)
                ∧ t.put p = some (putRecord u e (s.baseline p)))
              ∧ (s.plan p = .ok [] → (s.build p).tare ≠ none →
                ∃ v : State, v.setPl s.pl = (s.setHold p none).setBuild p { s.build p with
                    state := .putting, plan := [], trayWanted := false, regatherDue := false }
                  ∧ t.setPl s.pl = (v.runCheck p []).setPl s.pl)
              ∧ (∀ e, s.plan p = .error e → ∃ h', (t.build p).state = .held ∧ t.hold p = some h'
                ∧ h'.primary = ⟨.planFull, false⟩ ∧ h'.saved = .gathering ∧ t.put p = none))))

/-- An accepted UNDO takes the lowest empty slot for the last placed unit and starts its removal. -/
def Obligations.UndoReservesAndStarts : Prop :=
  ∀ (p : Pos) (h : Hold) (x : Placed) (i : Nat) (s : State),
    s.keysShut p = false → s.keyHoldOpen p = some h → undoAccepted h.primary.cause h.next = true →
    (s.build p).lastPlaced = some x → s.put p = none →
    s.su.reservedSlot p = none → s.su.requests.contains p = false → s.su.lowestEmpty = some i →
    ∃ t, exec (.undo p) s = .next t
      ∧ t.su = { s.su with slots := s.su.slots.set i (.reserved p) }
      ∧ t.hold p = some { h with resolving := .undo }
      ∧ t.put p = some (removalRecord .undo x (s.baseline p))
      ∧ t.be = s.be ∧ t.cu = s.cu ∧ t.xu = s.xu ∧ t.lp = s.lp

/-- An accepted ABANDON of a build with placed units clears its hold, records the unload reason and
enters UNLOADING with an empty plan and its content list as it was. With an empty content list the unloading ends
at once: the notice of an order that is GONE is removed and no RELEASE is produced; any other notice is OPEN, or
STRANDED at 3, with released-by-me set, and RELEASE is produced (`State.Releases`); and the position enters EMPTY
(`State.Emptied`). -/
def Obligations.AbandonUnloads : Prop :=
  ∀ (p : Pos) (h : Hold) (s : State), s.keysShut p = false → s.keyHold p = some h →
    abandonAccepted h.primary.cause h.next = true →
    ((s.build p).content ≠ [] →
      ∃ t, exec (.abandon p) s = .next t
        ∧ (t.build p).state = .unloading ∧ t.hold p = none
        ∧ (t.build p).unloadReason = some (s.reasonOf p)
        ∧ (t.build p).plan = [] ∧ (t.build p).content = (s.build p).content
        ∧ (t.build p).exclusion = (s.build p).exclusion)
    ∧ (∀ o n, (s.build p).content = [] → (s.build p).link = some o → s.notice? o = some n →
      ∃ t, exec (.abandon p) s = .next t ∧ s.Emptied t p o
        ∧ ((∀ q k, n.state ≠ .gone q k) → s.Releases t o ∧ t.notice? o = some n.given)
        ∧ ((∃ q k, n.state = .gone q k) → s.NoRelease t o ∧ ∀ m ∈ t.cu.notices, m.order ≠ o))

/-! ### Stops -/

/-- STOP_ASSERTED with the local stop released asserts it, stops the bench, empties XU's ask queue and
queues HALT, which waits with HC for space and is discarded while ISOLATED; asserted again it changes
nothing; STOP_RELEASED releases the local stop and leaves the bench STOPPED. No hold record changes.
After power-on reset the bench is not STOPPED and the local stop is released. -/
def Obligations.StopInput : Prop :=
  ∀ s : State,
    (s.hc.localStop = false →
      ∃ t, exec .stopAsserted s = .next t
        ∧ t.hc.stopped = true ∧ t.hc.localStop = true ∧ t.hc.holds = s.hc.holds
        ∧ (s.hc.stopped = false → t.xu.askQueue = [])
        ∧ (s.jc.state ≠ .isolated → s.lp.hasSpace = true → t.lp = s.lp.enqueue .halt)
        ∧ (s.jc.state ≠ .isolated → s.lp.hasSpace = false → t.hc.haltsWaiting = s.hc.haltsWaiting + 1)
        ∧ (s.jc.state = .isolated → t.lp = s.lp ∧ t.hc.haltsWaiting = s.hc.haltsWaiting))
    ∧ (s.hc.localStop = true → exec .stopAsserted s = .next s)
    ∧ (∀ k n b, ∃ t, exec (.powerOnReset k n b) s = .next t ∧ t.hc.stopped = false ∧ t.hc.localStop = false)
    ∧ exec .stopReleased s = .next (s.setHc { s.hc with localStop := false })

/-- A HALT of another station stops the bench and leaves the local stop and the hold records; this
station's own HALT changes nothing but the hand-over. GO clears STOPPED when the local stop is released,
and leaves the bench STOPPED while it is asserted; one that finds the bench not STOPPED changes nothing
but the hand-over. A HALT or GO whose body is not empty changes nothing but the hand-over. That a GO of
any sender acts is the model's choice (log 23).
When a GO clears STOPPED, operations go on first (`x`): a suspended one that is not FAULTED and that no hold
suspends is judged anew from the first stable reading, or in AWAIT_BASE takes a stable reading of 100 g or more as
its baseline at once (log 14); a held-back put of a PUTTING build with its tare starts, and so does a held-back
UNLOAD, UNDO or CHILL removal. Then the fitted positions look in letter order (`State.look`: `StationTimersRunOut`),
then every line is handed to XU in claim order and line order, and last asks are served. The order of these is
the model's choice (logs 38 and 45). -/
def Obligations.HaltAndGo : Prop :=
  ∀ (h : Handed) (u s : State),
    (s.handOver .halt = some (h, u) → Frame.ofBody h.kind h.body = some .halt → h.own = false →
      ∃ t, exec .halt s = .next t
        ∧ t.hc.stopped = true ∧ t.hc.localStop = s.hc.localStop ∧ t.hc.holds = s.hc.holds
        ∧ t.hc.haltsWaiting = s.hc.haltsWaiting ∧ t.cu = s.cu ∧ t.su = s.su ∧ t.wf = s.wf ∧ t.pv = s.pv)
    ∧ (s.handOver .halt = some (h, u) → h.own = true → ∃ t, exec .halt s = .next t ∧ t.setPl s.pl = u)
    ∧ (s.handOver .halt = some (h, u) → h.body ≠ [] → ∃ t, exec .halt s = .next t ∧ t.setPl s.pl = u)
    ∧ (s.handOver .go = some (h, u) → h.body ≠ [] → ∃ t, exec .go s = .next t ∧ t.setPl s.pl = u)
    ∧ (s.handOver .go = some (h, u) → Frame.ofBody h.kind h.body = some .go → s.hc.stopped = true →
      ∃ t, exec .go s = .next t
        ∧ t.hc.stopped = s.hc.localStop ∧ t.hc.localStop = s.hc.localStop ∧ t.wf = s.wf)
    ∧ (s.handOver .go = some (h, u) → Frame.ofBody h.kind h.body = some .go → s.hc.stopped = true →
      s.hc.localStop = false →
      ∃ x y : State, y = x.fittedPos.foldl State.look x
        ∧ exec .go s = finishServing (y.allLines.foldl State.handLine y)
        ∧ x.hc.stopped = false ∧ x.hc.localStop = false ∧ x.jc = u.jc ∧ x.cu.notices = s.cu.notices
        ∧ x.xu = s.xu ∧ x.wf = s.wf
        ∧ ∀ p, s.isFitted p = true →
          (∀ r, s.put p = some r →
            ((r.phase = .faulted ∨ s.heldSuspends p r = true) → x.put p = some r)
            ∧ (r.phase ≠ .faulted → s.heldSuspends p r = false →
              (r.phase ≠ .awaitBase → x.put p = some { r with resuming := true })
              ∧ (r.phase = .awaitBase →
                (∀ g, s.stable p = some g → 100 ≤ g → x.put p = some { r with
                    phase := .awaitMove, baseline := some g, failed := false })
                ∧ ((∀ g, s.stable p = some g → g < 100) → x.put p = some r))))
          ∧ (s.put p = none →
            (∀ e es i v k, (s.build p).state = .putting → (s.build p).tare ≠ none →
              (s.build p).trayWanted = false → (s.build p).regatherDue = false →
              (s.build p).plan = e :: es → s.su.slotOf e.unit = some i →
              s.su.slot i = .occupied v (.earmarked p k) →
              x.put p = some (putRecord v e (s.baseline p)) ∧ x.su.slot i = .occupied v (.putting p k))
            ∧ (∀ z, (s.build p).state = .unloading → s.su.reservedSlot p ≠ none →
              (s.build p).content.getLast? = some z →
              x.put p = some (removalRecord .unload z (s.baseline p)))
            ∧ (∀ q z, (s.build p).state = .held → s.hold p = some q → q.resolving = .undo →
              s.su.reservedSlot p ≠ none → (s.build p).content.getLast? = some z →
              x.put p = some (removalRecord .undo z (s.baseline p)))
            ∧ (∀ q n ns z, (s.build p).state = .held → s.hold p = some q → q.resolving ≠ .undo →
              q.primary.cause = .chillExpired → q.named = n :: ns →
              (s.build p).content.find? (fun y => decide (y.unit.number = n)) = some z →
              x.put p = some (removalRecord .chill z (s.baseline p))
              ∧ x.hold p = some { q with resolving := .chill })))
    ∧ (s.handOver .go = some (h, u) → s.hc.stopped = false → ∃ t, exec .go s = .next t ∧ t.setPl s.pl = u)

/-! ### Weighing, puts, valuation and plans -/

/-- SWEEP appends the gross of its four cells to every fitted platform's history of the latest four; with
four grosses their sum divided by 4 and rounded down joins the latest ten filtered values, and with fewer
no value does; whether a cell was saturated joins the marks of the latest thirteen sweeps. The platform
has a stable reading, the latest filtered value, exactly when it has ten filtered values within 2 g of
each other and none of the thirteen sweeps is marked. Platforms that are not fitted are left. Then PV takes
each fitted platform's result, and BE the tare and the dispatch, in letter order (log 22). PV changes nothing
while the bench is STOPPED, the operation is FAULTED, or a hold suspends it. Otherwise a saturated cell
faults a put, holding its build with SCALE_OVERRANGE, and so it does an UNLOAD removal, and sends any other
removal back to AWAIT_BASE; and with no cell saturated the result acts by the phase: the baseline at a stable
reading of 100 g or more, movement at 5 g, the settle judged by its delta from the baseline, and a SETTLED
settle discarded at 5 g; or after a suspension, by STOPPED or HELD alike, by the first stable reading, where a
SETTLED put stands below 5 g from its settle and is judged anew at exactly 5 g (R88's 'within 5 g' read so, and
its rule applied after a hold: log 14, DEDUCED). A stable reading of 100 g or more
is the tare of a PUTTING build that wants its tray, and the first planned put starts. -/
def Obligations.SweepFiltersEveryPlatform : Prop :=
  (∀ (readings : PerPos Quad) (s : State), ∃ t, exec (.sweep readings) s = .next t
    ∧ (∀ p, s.isFitted p = true → ∀ (q : Quad) (gs fs : List Nat) (ms : List Bool), readings.get p = q →
        gs = (s.wf.get p).grosses ++ [q.c0 + q.c1 + q.c2 + q.c3] →
        fs = (s.wf.get p).filtered ++ [(t.wf.get p).grosses.sum / 4] →
        ms = (s.wf.get p).overMarks ++ [decide (6000 ≤ q.c0 ∨ 6000 ≤ q.c1 ∨ 6000 ≤ q.c2 ∨ 6000 ≤ q.c3)] →
        (t.wf.get p).grosses = gs.drop (gs.length - 4)
        ∧ (4 ≤ (t.wf.get p).grosses.length → (t.wf.get p).filtered = fs.drop (fs.length - 10))
        ∧ ((t.wf.get p).grosses.length < 4 → (t.wf.get p).filtered = (s.wf.get p).filtered)
        ∧ (t.wf.get p).overMarks = ms.drop (ms.length - 13))
    ∧ (∀ p g, t.stable p = some g ↔
        (t.wf.get p).filtered.length = 10 ∧ (t.wf.get p).filtered.getLast? = some g
        ∧ (∀ x ∈ (t.wf.get p).filtered, ∀ y ∈ (t.wf.get p).filtered, x ≤ y + 2)
        ∧ ∀ m ∈ (t.wf.get p).overMarks, m = false)
    ∧ (∀ p, s.isFitted p = false → t.wf.get p = s.wf.get p)
    ∧ t.jc = s.jc ∧ t.hc.stopped = s.hc.stopped)
  ∧ (∀ (readings : PerPos Quad) (s : State), exec (.sweep readings) s = finish (s.fittedPos.foldl
      (fun u p => ((u.sweepOp p (readings.get p)).takeTare p).dispatch p)
      (s.fittedPos.foldl (State.readPlatform readings) s)))
  ∧ (∀ (p : Pos) (r : PutRec) (q : Quad) (s : State), s.put p = some r →
    ((s.hc.stopped = true ∨ r.phase = .faulted
        ∨ ((s.build p).state = .held ∧ (r.kind = .put ∨ r.kind = .removal .unload))) → s.sweepOp p q = s)
    ∧ (s.hc.stopped = false → r.phase ≠ .faulted →
        ¬ ((s.build p).state = .held ∧ (r.kind = .put ∨ r.kind = .removal .unload)) →
      ((6000 ≤ q.c0 ∨ 6000 ≤ q.c1 ∨ 6000 ≤ q.c2 ∨ 6000 ≤ q.c3) →
        (∀ pu, r.kind = .removal pu → pu ≠ .unload → (s.sweepOp p q).put p = some { r with
            phase := .awaitBase, baseline := none, failed := true, resuming := false })
        ∧ (((r.kind = .put ∧ (s.build p).state = .putting)
              ∨ (r.kind = .removal .unload ∧ (s.build p).state = .unloading)) → s.hold p = none →
          ∃ h, (s.sweepOp p q).hold p = some h ∧ h.primary = ⟨.scaleOverrange, false⟩
            ∧ h.saved = (s.build p).savedState ∧ h.savedIndex = r.index
            ∧ ((s.sweepOp p q).build p).state = .held
            ∧ (s.sweepOp p q).put p = some { r with
                phase := .faulted, before := r.phase, confirmMark := false, resuming := false }))
      ∧ (q.c0 < 6000 → q.c1 < 6000 → q.c2 < 6000 → q.c3 < 6000 → r.phase = .awaitBase →
        (∀ g, s.stable p = some g → 100 ≤ g → (s.sweepOp p q).put p = some { r with
            phase := .awaitMove, baseline := some g, failed := false, resuming := false })
        ∧ ((∀ g, s.stable p = some g → g < 100) → (s.sweepOp p q).put p = some r))
      ∧ (q.c0 < 6000 → q.c1 < 6000 → q.c2 < 6000 → q.c3 < 6000 → ∀ b : Nat, r.baseline = some b →
        (r.phase = .awaitSettle →
          (∀ x : Nat, s.stable p = some x → s.sweepOp p q =
              (s.judge p { r with resuming := false } ((x : Int) - b)).showTray p)
          ∧ (s.stable p = none → (s.sweepOp p q).put p = some r))
        ∧ (r.phase = .awaitMove → r.resuming = false →
          (∀ f : Nat, (s.wf.get p).filteredValue = some f → 5 ≤ ((f : Int) - b).natAbs →
            (s.sweepOp p q).put p = some { r with phase := .awaitSettle })
          ∧ ((∀ f : Nat, (s.wf.get p).filteredValue = some f → ((f : Int) - b).natAbs < 5) →
            (s.sweepOp p q).put p = some r))
        ∧ (r.phase = .awaitMove → r.resuming = true →
          (∀ x : Nat, s.stable p = some x →
            (5 ≤ ((x : Int) - b).natAbs → s.sweepOp p q = (s.judge p
              { r with phase := .awaitSettle, resuming := false } ((x : Int) - b)).showTray p)
            ∧ (((x : Int) - b).natAbs < 5 →
              (s.sweepOp p q).put p = some { r with resuming := false }))
          ∧ (s.stable p = none → (s.sweepOp p q).put p = some r))
        ∧ (∀ d : Int, r.phase = .settled → r.settledDelta = some d → r.resuming = false →
          (∀ f : Nat, (s.wf.get p).filteredValue = some f → 5 ≤ ((f : Int) - (b + d)).natAbs →
            (s.sweepOp p q).put p = some { r with phase := .awaitSettle, settledDelta := none })
          ∧ ((∀ f : Nat, (s.wf.get p).filteredValue = some f → ((f : Int) - (b + d)).natAbs < 5) →
            (s.sweepOp p q).put p = some r))
        ∧ (∀ d : Int, r.phase = .settled → r.settledDelta = some d → r.resuming = true →
          (∀ x : Nat, s.stable p = some x →
            (5 ≤ ((x : Int) - (b + d)).natAbs → s.sweepOp p q = (s.judge p
              { r with phase := .awaitSettle, settledDelta := none, resuming := false }
                ((x : Int) - b)).showTray p)
            ∧ (((x : Int) - (b + d)).natAbs < 5 →
              (s.sweepOp p q).put p = some { r with resuming := false }))
          ∧ (s.stable p = none → (s.sweepOp p q).put p = some r)))))
  ∧ (∀ (p : Pos) (s : State), (s.build p).state = .putting → (s.build p).trayWanted = true →
    (∀ g, s.stable p = some g → 100 ≤ g → s.hc.stopped = false →
      ((s.takeTare p).build p).tare = some g ∧ ((s.takeTare p).build p).trayWanted = false
      ∧ ∀ e es i u l, (s.build p).plan = e :: es → (s.build p).regatherDue = false → s.put p = none →
          s.su.slotOf e.unit = some i → s.su.slot i = .occupied u (.earmarked p l) →
          (s.takeTare p).put p = some (putRecord u e (some g)))
    ∧ ((s.hc.stopped = true ∨ ∀ g, s.stable p = some g → g < 100) → s.takeTare p = s))

/-- At the settle a put faults with PUT_REMOVED at −5 g or less, else with PUT_MISMATCH outside its
tolerance, and holds the build; within the tolerance, with auto-confirm off and the mark clear, it
becomes SETTLED, and with auto-confirm on or the mark set it is confirmed at once: the unit leaves its slot
and joins the content list with this delta as measured weight, valued at it. PUT_TIMEOUT at a limit of 0 faults the put and holds its build with saved state
PUTTING. -/
def Obligations.PutJudgedAtSettle : Prop :=
  ∀ (p : Pos) (r : PutRec) (s : State),
    s.put p = some r → r.kind = .put → (s.build p).state = .putting → s.hold p = none →
    (∀ delta : Int, delta ≤ -5 → ∃ h, (s.judge p r delta).hold p = some h ∧ h.primary = ⟨.putRemoved, false⟩
        ∧ h.saved = .putting ∧ h.savedIndex = r.index ∧ ((s.judge p r delta).build p).state = .held
        ∧ (s.judge p r delta).put p = some { r with
            phase := .faulted, before := r.phase, confirmMark := false, resuming := false })
    ∧ (∀ delta : Int, -5 < delta → r.tolerance < (delta - r.expected).natAbs →
        ∃ h, (s.judge p r delta).hold p = some h ∧ h.primary = ⟨.putMismatch, false⟩
        ∧ h.saved = .putting ∧ ((s.judge p r delta).build p).state = .held)
    ∧ (∀ delta : Int, -5 < delta → (delta - r.expected).natAbs ≤ r.tolerance → s.jc.setup.autoConfirm = false →
        r.confirmMark = false →
        s.judge p r delta = s.setPut p (some { r with
          phase := .settled, settledDelta := some delta, resuming := false }))
    ∧ (∀ (delta : Int) (i : Nat) (u : UnitRec) (st : ShelfState) (t : State), -5 < delta →
        (delta - r.expected).natAbs ≤ r.tolerance → (s.jc.setup.autoConfirm = true ∨ r.confirmMark = true) →
        s.su.slotOf r.unit = some i → s.su.slot i = .occupied u st → s.judge p r delta = t →
        (t.build p).content = (s.build p).content
          ++ [⟨u, r.line, r.start, r.index, delta, (valueUnit s.jc.setup.mode u.label delta).value⟩]
        ∧ (t.su.slot i).unit? = none
        ∧ (t.build p).exclusion = (s.build p).exclusion
        ∧ (((s.vu.get p).sticky.union (valueUnit s.jc.setup.mode u.label delta).causes).union
            (t.vu.get p).sticky = (t.vu.get p).sticky)
        ∧ ((valueUnit s.jc.setup.mode u.label delta).causes.invalid = true →
          s.jc.setup.holdMask.invalid = true →
          ∃ h, t.hold p = some h ∧ h.primary = ⟨.invalid, false⟩ ∧ h.saved = .putting
            ∧ (t.build p).state = .held)
        ∧ t.jc = s.jc ∧ t.wf = s.wf ∧ t.hc.stopped = s.hc.stopped)
    ∧ (s.hc.stopped = false → r.phase ≠ .settled → r.phase ≠ .faulted → r.limitLeft = 0 →
      ∃ t h, exec (.putTimeout p) s = .next t
        ∧ (t.build p).state = .held ∧ t.hold p = some h ∧ h.primary = ⟨.putTimeout, false⟩
        ∧ h.saved = .putting ∧ h.next = .putting ∧ h.savedIndex = r.index
        ∧ t.put p = some { r with
            phase := .faulted, before := r.phase, confirmMark := false, resuming := false }
        ∧ t.su = s.su ∧ t.cu = s.cu ∧ t.xu = s.xu ∧ t.lp = s.lp)

/-- A removal whose delta is in tolerance and not positive is verified: the unit leaves the content list
and no other unit does; one removed by UNDO or UNLOAD is in the slot reserved for it, and one removed by
UNDO is in the exclusion list. After a CHILL removal the unit leaves the named list, and while another is
named its CHILL removal starts, unless the bench is STOPPED. After the last of them, and after an UNDO, the
cause is resolved with GATHERING as the next state: the secondary cause of the lowest code becomes primary,
causes of a check dropped, and so CHILL_EXPIRED where no unit is named any more; or with none the build
leaves HELD and regathers, GATHERING with a full gather limit while a line is uncovered. The removal of the last
unit of a build in UNLOADING ends it: with the unload reason SILENT the notice is removed and no RELEASE is
produced; with any other the notice is OPEN, or STRANDED at 3, with released-by-me set, and RELEASE is produced
(`State.Releases`); and the position enters EMPTY (`State.Emptied`). A delta outside the tolerance, and any
positive delta, fails it: an UNDO or CHILL removal waits in AWAIT_BASE for a new baseline with no cause raised,
and an UNLOAD removal faults and holds the build with PUT_MISMATCH and saved state UNLOADING. -/
def Obligations.RemovalJudged : Prop :=
  ∀ (p : Pos) (r : PutRec) (pu : Purpose) (delta : Int) (s : State), r.kind = .removal pu →
    (∀ x, (s.build p).content.find? (fun y => decide (y.unit.number = r.unit)) = some x →
      (delta - r.expected).natAbs ≤ r.tolerance → delta ≤ 0 →
      ((s.judge p r delta).build p).content
          = (s.build p).content.filter (fun y => decide (y.unit.number ≠ r.unit))
      ∧ (pu ≠ .chill → ∀ i, s.su.reservedSlot p = some i →
          ((s.judge p r delta).su.slot i).unit?.map (·.number) = some r.unit)
      ∧ (pu = .undo →
          ((s.judge p r delta).build p).exclusion = addExclusion (s.build p).exclusion r.unit)
      ∧ (∀ h us t, s.judge p r delta = t → s.hold p = some h → (s.build p).state = .held →
          h.named.filter (fun v => decide (v ≠ r.unit)) = us →
        (pu = .chill → us ≠ [] →
          (t.build p).state = .held
          ∧ (t.hold p).map (fun k => (k.primary, k.named, k.secondary, k.next))
              = some (h.primary, us, h.secondary, h.next)
          ∧ (s.hc.stopped = true → t.put p = none)
          ∧ (∀ v vs y, us = v :: vs → h.primary.cause = .chillExpired → h.resolving ≠ .undo →
              s.hc.stopped = false →
              (s.build p).content.find? (fun z => decide (z.unit.number = v)) = some y →
              t.put p = some (removalRecord .chill y (s.baseline p))))
        ∧ ((pu = .undo ∨ (pu = .chill ∧ us = [])) →
          (∀ c cs, sortBy (fun x y : HeldCause => decide (x.cause.code < y.cause.code))
              (h.secondary.filter (fun c => !c.byCheck && (decide (c.cause ≠ .chillExpired) || !us.isEmpty)))
                = c :: cs →
            ∃ h', (t.build p).state = .held ∧ t.hold p = some h' ∧ h'.primary = c ∧ h'.secondary = cs
              ∧ h'.named = us ∧ h'.next = .gathering)
          ∧ ((h.secondary.filter (fun c => !c.byCheck && (decide (c.cause ≠ .chillExpired) || !us.isEmpty)))
                = [] → (t.build p).covered = false →
            (t.build p).state = .gathering ∧ t.hold p = none
            ∧ (t.build p).gatherLeft = some s.jc.setup.gatherLimit))))
    ∧ ((r.tolerance < (delta - r.expected).natAbs ∨ 0 < delta) →
      (pu ≠ .unload → s.judge p r delta = s.setPut p (some { r with
          phase := .awaitBase, baseline := none, failed := true, resuming := false }))
      ∧ (pu = .unload → s.put p = some r → (s.build p).state = .unloading → s.hold p = none →
          ∃ h, (s.judge p r delta).hold p = some h ∧ h.primary = ⟨.putMismatch, false⟩
            ∧ h.saved = .unloading ∧ h.next = .unloading ∧ ((s.judge p r delta).build p).state = .held
            ∧ (s.judge p r delta).put p = some { r with
                phase := .faulted, before := r.phase, confirmMark := false, resuming := false }))
    ∧ (∀ x o t, pu = .unload → (s.build p).state = .unloading → (s.build p).link = some o →
      (s.build p).content.find? (fun y => decide (y.unit.number = r.unit)) = some x →
      (s.build p).content.filter (fun y => decide (y.unit.number ≠ r.unit)) = [] →
      (delta - r.expected).natAbs ≤ r.tolerance → delta ≤ 0 → s.judge p r delta = t →
      s.Emptied t p o
      ∧ ((s.build p).unloadReason ≠ some .silent →
          s.Releases t o ∧ ∀ n, s.notice? o = some n → t.notice? o = some n.given)
      ∧ ((s.build p).unloadReason = some .silent → s.NoRelease t o ∧ ∀ n ∈ t.cu.notices, n.order ≠ o))

/-- The check: a weight total above the tray limit holds the build with OVERWEIGHT; a placed total below
or above the band of the ordered total raises BAND_LOW or BAND_HIGH, which hold it when they are in the
hold mask and this hold has not resumed them; the causes become the cause set and join the sticky flags.
With none of these the build is SEALED and DONE, with the sticky flags and the totals, enters a queue that
has space. Dispatch: a stable gross below 100 g under a SEALED build removes its notice and clears its
records, and nothing happens at 100 g or more. The totals are those that do not saturate. -/
def Obligations.CheckSealDispatch : Prop :=
  ∀ (p : Pos) (s : State),
    (∀ (i : NoticeInfo) (resumed : List Cause) (T S : Nat) (w : Int) (t : State), s.infoOf p = some i →
      s.hold p = none → s.runCheck p resumed = t →
      T = ((s.build p).lines.map (fun l => l.item.quantity * l.item.value)).sum →
      S = ((s.build p).content.map (·.value)).sum → w = ((s.build p).content.map (·.weight)).sum →
      T ≤ 16777215 → S ≤ 16777215 →
      ((t.vu.get p).causes.bandLow = true ↔ 100 * S < T * (100 - min i.down 50))
      ∧ ((t.vu.get p).causes.bandHigh = true ↔ T * (100 + min i.up 50) < 100 * S)
      ∧ (t.vu.get p).causes = { CauseSet.none with
          bandLow := (t.vu.get p).causes.bandLow, bandHigh := (t.vu.get p).causes.bandHigh }
      ∧ (t.vu.get p).sticky = (s.vu.get p).sticky.union (t.vu.get p).causes
      ∧ ((i.tray.limit : Int) < w → ∃ h, t.hold p = some h ∧ h.primary = ⟨.overweight, true⟩
          ∧ h.saved = .check ∧ h.next = .check ∧ (t.build p).state = .held)
      ∧ (w ≤ (i.tray.limit : Int) → ((t.vu.get p).causes.bandLow && s.jc.setup.holdMask.bandLow) = true →
          Cause.bandLow ∉ resumed → ∃ h, t.hold p = some h ∧ h.primary = ⟨.bandLow, true⟩
          ∧ h.saved = .check ∧ h.next = .check ∧ (t.build p).state = .held)
      ∧ (w ≤ (i.tray.limit : Int) → ((t.vu.get p).causes.bandHigh && s.jc.setup.holdMask.bandHigh) = true →
          Cause.bandHigh ∉ resumed → ∃ h, t.hold p = some h ∧ h.primary = ⟨.bandHigh, true⟩
          ∧ h.saved = .check ∧ h.next = .check ∧ (t.build p).state = .held)
      ∧ (w ≤ (i.tray.limit : Int) →
          ((t.vu.get p).causes.bandLow = true → s.jc.setup.holdMask.bandLow = true → .bandLow ∈ resumed) →
          ((t.vu.get p).causes.bandHigh = true → s.jc.setup.holdMask.bandHigh = true → .bandHigh ∈ resumed) →
          (t.build p).state = .sealed ∧ t.hold p = none ∧ (t.build p).content = (s.build p).content
          ∧ (s.jc.state ≠ .isolated → s.lp.hasSpace = true → ∀ o, (s.build p).link = some o →
              t.lp = s.lp.enqueue
                (.done o (t.vu.get p).sticky (BitVec.ofNat 24 S) (BitVec.ofNat 16 w.toNat)))))
    ∧ (∀ g, (s.build p).state = .sealed → s.stable p = some g →
      (g < 100 → ((s.dispatch p).build p).content = [] ∧ (s.dispatch p).hold p = none
        ∧ (s.dispatch p).put p = none ∧ (s.dispatch p).vu.get p = .reset
        ∧ (((s.dispatch p).build p).state = .empty ∨ ((s.dispatch p).build p).state = .claiming)
        ∧ ∀ o, (s.build p).link = some o → ∀ n ∈ (s.dispatch p).cu.notices, n.order ≠ o)
      ∧ (100 ≤ g → s.dispatch p = s))

/-- A WEIGHT unit of rate 0, or of 0 g or less, is worth 0 with INVALID alone. Any other has a rounded
value w: within half a unit of rate × grams / 1000 in the two nearest modes, a tie going to the even one
or up; cut off in DOWN and carried up in UP, by less than one. It is worth w, or 999,999 where w is
above; CLAMPED is raised exactly then, and INEXACT exactly when the division leaves a remainder. -/
def Obligations.ValueRoundsByMode : Prop :=
  ∀ (m : Rounding) (rate : Nat) (g : Int),
    ((rate = 0 ∨ g ≤ 0) → valueByWeight m rate g = ⟨0, { CauseSet.none with invalid := true }⟩)
    ∧ (∀ k : Nat, 0 < rate → 0 < k → g = k → ∃ w : Nat,
      (m = .nearestEven ∨ m = .nearestUp → 1000 * w ≤ rate * k + 500 ∧ rate * k ≤ 1000 * w + 500)
      ∧ (m = .nearestEven → rate * k % 1000 = 500 → w % 2 = 0)
      ∧ (m = .nearestUp → rate * k % 1000 = 500 → 1000 * w = rate * k + 500)
      ∧ (m = .down → 1000 * w ≤ rate * k ∧ rate * k < 1000 * w + 1000)
      ∧ (m = .up → rate * k ≤ 1000 * w ∧ 1000 * w < rate * k + 1000)
      ∧ (valueByWeight m rate g).value = min w 999999
      ∧ ((valueByWeight m rate g).causes.clamped = true ↔ 999999 < w)
      ∧ ((valueByWeight m rate g).causes.inexact = true ↔ rate * k % 1000 ≠ 0)
      ∧ (valueByWeight m rate g).causes.invalid = false)

/-- The band of a value is the range of whole numbers between V × (100 − d) / 100 and V × (100 + u) / 100,
with percentages above 50 used as 50. A unit is an acceptable substitute for a line exactly when the line's
rule is FAMILY and its family is the line's, or CLASS and its handling class is the line's ordered class,
and its estimate lies in the band of the line's value with the notice's percentages: the label's value, or
for a WEIGHT unit its rate at the label weight, rounded in the mode in force and at most 999,999. -/
def Obligations.BandIsExactRange : Prop :=
  (∀ v d u n : Nat,
    ((bandLow v d ≤ n ∧ n ≤ bandHigh v u) ↔
      (v * (100 - min d 50) ≤ 100 * n ∧ 100 * n ≤ v * (100 + min u 50))))
  ∧ ∀ (s : State) (r : LineRef) (u : UnitRec) (l : LineRec) (i : NoticeInfo) (n : Nat),
    s.line? r = some l → s.infoOf r.p = some i →
    n = (match u.label.pricing with
      | .fixed => u.label.value
      | .byWeight => if u.label.value = 0 ∨ u.label.weight = 0 then 0 else
          min 999999 (roundValue s.jc.setup.mode (u.label.value * u.label.weight / 1000)
            (u.label.value * u.label.weight % 1000))) →
    (s.acceptable r u = true ↔
      ((l.item.rule = .family ∧ u.label.code.family = l.item.code.family)
        ∨ (l.item.rule = .cls ∧ l.orderedClass = some u.label.handling))
      ∧ l.item.value * (100 - min i.down 50) ≤ 100 * n ∧ 100 * n ≤ l.item.value * (100 + min i.up 50))

/-- A plan that is found gives every unit a permitted placement, on cells that no other placed or
planned unit takes; a unit with no permitted placement in the tray makes every plan that has it fail.
A placement is permitted exactly when its start cell is aligned, its cells are one run in one layer of the tray,
in the chill pocket for a CHILLED unit, in the upper layer for a FRAGILE one, and in the lower layer for one
above 1,500 g (`TrayType.table`). A request whose weight is above the limit fails with the sum, and no other
does so. Any other takes the units in plan order (group, size, line, number: `PlanUnit.keys`) and gives each the
lowest start cell whose cells are all free and which is permitted; the first unit that has none fails the request
with its number. The plan holds an entry for each unit with its line, size and start cell, those of the lower
layer first and each layer in plan order, with put indexes from the first on. A build plans the units EARMARKED
for it with their label weights, around the measured weights and cells of its placed units, with put indexes from
the number of placed units plus one; and with a put pending around that unit too, from plus two, its own entry
kept in front (the model's choice, log 53). -/
def Obligations.PlanPlacesPermitted : Prop :=
  (∀ (t : TrayType) (occupied : List Nat) (us : List PlanUnit) (fs : List Fitted),
    placeAll t occupied us = .ok fs →
    fs.map (·.unit) = us
    ∧ (∀ f ∈ fs, permitted t f.unit f.start = true)
    ∧ (∀ f ∈ fs, ∀ c ∈ cellMask f.unit.size f.start, c ∉ occupied)
    ∧ fs.Pairwise (fun f g => ∀ c ∈ cellMask f.unit.size f.start, c ∉ cellMask g.unit.size g.start))
  ∧ (∀ (t : TrayType) (w : Int) (occupied : List Nat) (n : Nat) (us : List PlanUnit) (u : PlanUnit),
    u ∈ us → (∀ c, permitted t u c = false) →
    ∃ e, planRequest t w occupied n us = .error e)
  ∧ (∀ (t : TrayType) (u : PlanUnit) (c cells lower pocket limit n : Nat),
    t.table = (cells, lower, pocket, limit) →
    n = (match u.size with | .single => 1 | .double => 2 | .quad => 4) →
    t.limit = limit ∧ cellMask u.size c = List.range' c n
    ∧ (permitted t u c = true ↔ c % n = 0 ∧ c + n ≤ cells ∧ (c + n ≤ lower ∨ lower ≤ c)
        ∧ (u.handling = .chilled → c + n ≤ pocket) ∧ (u.handling = .fragile → lower ≤ c)
        ∧ (1500 < u.weight → c + n ≤ lower)))
  ∧ (∀ (t : TrayType) (occupied : List Nat) (us : List PlanUnit),
    (∀ xs f ys, placeAll t occupied us = .ok (xs ++ f :: ys) → ∀ c, c < f.start →
      permitted t f.unit c = true → ∃ x ∈ cellMask f.unit.size c,
        x ∈ occupied ∨ ∃ g ∈ xs, x ∈ cellMask g.unit.size g.start)
    ∧ (∀ e, placeAll t occupied us = .error e → ∃ xs u ys fs, us = xs ++ u :: ys ∧ e = .place u.unit
      ∧ placeAll t occupied xs = .ok fs ∧ ∀ c, permitted t u c = true → ∃ x ∈ cellMask u.size c,
        x ∈ occupied ∨ ∃ g ∈ fs, x ∈ cellMask g.unit.size g.start))
  ∧ (∀ (t : TrayType) (w sum : Int) (occupied : List Nat) (k cells lower pocket limit : Nat)
      (us vs : List PlanUnit), t.table = (cells, lower, pocket, limit) → sum = w + (us.map (·.weight)).sum →
    (limit < sum → planRequest t w occupied k us = .error (.weight sum))
    ∧ (sum ≤ limit → us.Perm vs → vs.Pairwise (fun x y => x.keys < y.keys) →
      (∀ e, placeAll t occupied vs = .error e → planRequest t w occupied k us = .error e)
      ∧ ∀ fs, placeAll t occupied vs = .ok fs → ∃ es, planRequest t w occupied k us = .ok es
        ∧ es.map (fun e => (e.unit, e.line, e.size, e.start))
          = (fs.filter (fun f => decide (f.start < lower)) ++ fs.filter (fun f => decide (lower ≤ f.start))).map
              (fun f => (f.unit.unit, f.unit.line, f.unit.size, f.start))
        ∧ es.map (·.index) = List.range' k fs.length))
  ∧ (∀ (p : Pos) (w : Int) (cells : List Nat) (i : NoticeInfo) (s : State), s.infoOf p = some i →
    w = ((s.build p).content.map (·.weight)).sum →
    cells = ((s.build p).content.map (fun x => cellMask x.unit.label.size x.start)).flatten →
    (∀ v, v ∈ s.unitsToPlan p ↔ ∃ j u l, s.su.slot j = .occupied u (.earmarked p l)
      ∧ v = ⟨u.number, l, u.label.handling, u.label.size, u.label.weight⟩)
    ∧ (s.putPending p = false → s.plan p
        = planRequest i.tray w cells ((s.build p).content.length + 1) (s.unitsToPlan p))
    ∧ (∀ r, s.put p = some r → r.kind = .put → s.plan p
        = (planRequest i.tray (w + r.refWeight) (cellMask r.size r.start ++ cells)
            ((s.build p).content.length + 2) (s.unitsToPlan p)).map
              (⟨r.unit, r.line, r.size, r.start, r.index⟩ :: ·)))

/-! ### Timers of builds -/

/-- A RUNNING exact wait that has run out becomes EXPIRED; the line keeps its item and its placed
units, whatever its substitute search earmarks. The search takes FREE units of another code that are not
excluded and are acceptable substitutes, the lowest slots first, until the line is covered: each is
EARMARKED for the line, or PUTTING where its put starts at once, and every other FREE unit stays. -/
def Obligations.ExactWaitExpires : Prop :=
  ∀ (p : Pos) (line : Nat) (l : LineRec) (s : State), s.exactWaitDue ⟨p, line⟩ = true →
    s.line? ⟨p, line⟩ = some l →
    ∃ t l', exec (.exactWaitExpiry p line) s = .next t
      ∧ t.line? ⟨p, line⟩ = some l' ∧ l'.exactWait = .expired
      ∧ l'.item = l.item ∧ l'.placed = l.placed
      ∧ t.jc = s.jc ∧ t.wf = s.wf ∧ t.hc.stopped = s.hc.stopped
      ∧ ∀ found : List Nat, found = ((List.range 48).filter (fun i => match (s.su.slot i).freeUnit with
            | some u => decide (u.label.code ≠ l.item.code)
                && !(s.build p).exclusion.contains u.number && s.acceptable ⟨p, line⟩ u
            | none => false)).take l.uncovered →
          (found ≠ [] → l'.heldUnits = l.heldUnits + found.length)
          ∧ ∀ i u age, s.su.slot i = .occupied u (.free age) →
            (i ∈ found → t.su.slot i = .occupied u (.earmarked p line)
              ∨ t.su.slot i = .occupied u (.putting p line))
            ∧ (i ∉ found → t.su.slot i = .occupied u (.free age))

/-- At the gather limit a build with no placed unit gives its order up, OPEN or at a count of 3
STRANDED, with released-by-me set: RELEASE of it is queued, or waits with CU where the queue has no space, or is
discarded while ISOLATED (`State.Releases`), and the position enters EMPTY, its build, hold and put cleared, its
earmarks FREE again or taken by another position's line, its expected entries unlinked (`State.Emptied`); it may
mark another order at once. A build with placed units is HELD with GATHER_LATE. -/
def Obligations.GatherLimitEnds : Prop :=
  ∀ (p : Pos) (s : State), (s.build p).state = .gathering → (s.build p).gatherLeft = some 0 →
    (∀ o n, (s.build p).content = [] → (s.build p).link = some o → s.notice? o = some n →
      ∃ t, exec (.gatherLimitExpiry p) s = .next t
        ∧ t.notice? o = some { n with
            state := if 3 ≤ n.count then .stranded else .opened, releasedByMe := true }
        ∧ s.Releases t o ∧ s.Emptied t p o)
    ∧ ((s.build p).content ≠ [] → s.hold p = none →
      ∃ t h, exec (.gatherLimitExpiry p) s = .next t
        ∧ (t.build p).state = .held ∧ t.hold p = some h ∧ h.primary = ⟨.gatherLate, false⟩
        ∧ h.saved = .gathering ∧ h.next = .gathering ∧ t.su = s.su ∧ t.cu = s.cu)

/-! ### The exchange -/

/-- A unit that becomes surplus makes the look of every second; with the gate closed the look changes
nothing; with one code in surplus that may be offered, OFFER with the FREE count is queued and the
code's clock is set to 0. -/
def Obligations.SurplusLooks : Prop :=
  ∀ s : State,
    (∀ n i u age, s.su.slotOf n = some i → s.su.slot i = .occupied u (.free age) →
      s.jc.setup.surplusHold ≤ age → exec (.surplusReached n) s = exec .offerSecondLook s)
    ∧ (s.gateOpen = false → ∃ t, exec .offerSecondLook s = .next t ∧ t.setPl s.pl = s)
    ∧ (∀ c, s.gateOpen = true → s.surplusCodes = [c] → s.clockAllows c s.jc.setup.surplusHold = true →
      s.accepts3 = true →
      ∃ t, exec .offerSecondLook s = .next t
        ∧ t.setPl s.pl = (s.setLp (s.lp.enqueue (.offer c (BitVec.ofNat 16 (s.su.freeCount c))))).setXu
            { s.xu with clocks := s.xu.clocks.filter (fun k => decide (k.code ≠ c)) ++ [⟨c, 0⟩] })

/-- WANT_RETRY makes and changes no record of XU; a lone line that still qualifies gets its WANT into
the transmit queue, and its want sent is set. -/
def Obligations.WantRetryOffersWant : Prop :=
  ∀ s : State, ∃ t, exec .wantRetry s = .next t
    ∧ t.xu = s.xu ∧ t.su = s.su ∧ t.cu = s.cu ∧ t.hc = s.hc ∧ t.pv = s.pv ∧ t.wf = s.wf ∧ t.jc = s.jc
    ∧ (∀ p, (t.build p).state = (s.build p).state ∧ (t.build p).content = (s.build p).content)
    ∧ (∀ r l, s.allLines = [r] → s.line? r = some l → l.wantRefused = true → s.canAsk r = true →
        s.askOf r = none → bestOffer l.item.code s.xu.offers = none → s.gateOpen = true →
        l.wantSent = false → s.accepts3 = true →
        t.lp = s.lp.enqueue (.want l.item.code (BitVec.ofNat 8 l.uncommitted))
          ∧ ∃ l', t.line? r = some l' ∧ l'.wantSent = true)

/-- An ask wait that has run out removes its record; a record the line has afterwards is a new one. -/
def Obligations.AskWaitClearsRecord : Prop :=
  ∀ (p : Pos) (line : Nat) (a : AskRec) (s : State), s.askOf ⟨p, line⟩ = some a → a.wait = 0 →
    ∃ t, exec (.askWaitExpiry p line) s = .next t
      ∧ (∀ b, t.askOf ⟨p, line⟩ = some b → b.wait = 10)
      ∧ (s.hc.stopped = true → t.askOf ⟨p, line⟩ = none)
      ∧ (∀ b, b.line ≠ ⟨p, line⟩ → (b ∈ t.xu.asks ↔ b ∈ s.xu.asks))
      ∧ t.su = s.su ∧ t.cu = s.cu ∧ t.xu.expected = s.xu.expected

/-- Entries that have aged leave: an offer of 20 s its list, and a peer of 30 s the peer table, with
its offers. -/
def Obligations.AgedEntriesLeave : Prop :=
  ∀ (k : Station) (c : ItemCode) (s : State),
    (∃ t, exec (.offerEntryAged k c) s = .next t
      ∧ (∀ e, e ∈ t.xu.offers ↔ e ∈ s.xu.offers ∧ ¬ (e.station = k ∧ e.code = c ∧ 20 ≤ e.age))
      ∧ t.setXu s.xu = s)
    ∧ ((∃ x ∈ s.jc.peers, x.station = k ∧ 30 ≤ x.age) →
      ∃ t, exec (.peerAbsent k) s = .next t
        ∧ (∀ x, x ∈ t.jc.peers ↔ x ∈ s.jc.peers ∧ x.station ≠ k)
        ∧ (∀ e, e ∈ t.xu.offers ↔ e ∈ s.xu.offers ∧ e.station ≠ k)
        ∧ t.xu.askQueue = s.xu.askQueue ∧ t.cu = s.cu)

/-- An expected entry of 180 s leaves the expected list and no other entry does; its linked line's
incoming count falls by what had not come; and TAKEN with the received count is queued, or waits with XU
for space behind at most 15 other frames, or is discarded while ISOLATED. An outbound entry of 210 s leaves
the outbound list, and no slot shows BLUE for it. That TAKEN is produced before the linked line is handed to
XU, and so takes a last free place of the queue ahead of that line's ASK or WANT, is the model's choice
(log 43). -/
def Obligations.TransfersRunOut : Prop :=
  ∀ (k : Station) (n : Seq) (s : State),
    (∀ e, s.expectedTag k n = some e → 180 ≤ e.clock →
      ∃ t, exec (.transferLimit k n) s = .next t
        ∧ (∀ x, x ∈ t.xu.expected ↔ x ∈ s.xu.expected ∧ ¬ (x.source = k ∧ x.seq = n))
        ∧ (∀ r l, e.link = some r → s.line? r = some l →
            (t.line? r).map (·.incoming) = some (l.incoming - e.remaining))
        ∧ (∀ f, f = Frame.taken k n (BitVec.ofNat 8 (e.granted - e.remaining)) →
            (s.jc.state = .isolated → t.lp = s.lp)
            ∧ (s.jc.state ≠ .isolated → s.lp.hasSpace = true →
                f ∈ t.lp.queue ∧ (e.link = none → t.lp = s.lp.enqueue f))
            ∧ (s.jc.state ≠ .isolated → s.lp.hasSpace = false → s.xu.waiting.length < 16 →
                ⟨f, none⟩ ∈ t.xu.waiting ∧ (e.link = none → t.xu.waiting = s.xu.waiting ++ [⟨f, none⟩])))
        ∧ t.su = s.su ∧ t.cu = s.cu ∧ t.xu.outbound = s.xu.outbound)
    ∧ (∀ o, s.xu.outbound.find? (fun x => decide (x.seq = n)) = some o → 210 ≤ o.time →
      ∃ t, exec (.writeOff n) s = .next t
        ∧ (∀ x, x ∈ t.xu.outbound ↔ x ∈ s.xu.outbound ∧ x.seq ≠ n)
        ∧ t.su.slots = s.su.slots.map (Slot.forget n)
        ∧ t.be = s.be ∧ t.cu = s.cu ∧ t.xu.expected = s.xu.expected)

/-- An OFFER of another station enters the offer list at its end with age 0, in place of an older one
of its station and code, when no line here asks for the code at once. Where one line here can ask for the
code, it asks at once, at the entry of the code with the largest quantity, the oldest on a tie: an ASK of
the least of its uncommitted quantity, the entry's quantity and 4 is queued, or waits with XU for space;
the entry is lowered by it and leaves at 0; the ask record with a wait of 10 s is made at the end of the
records, and the line's pending ask is that quantity. -/
def Obligations.OfferEntersList : Prop :=
  ∀ (h : Handed) (c : ItemCode) (q : BitVec 16) (u s : State), s.handOver .offer = some (h, u) →
    Frame.ofBody h.kind h.body = some (.offer c q) → h.own = false → q ≠ 0#16 →
    s.jc.state = .active →
    ((s.hc.stopped = true ∨ ∀ r ∈ s.allLines, ∀ l, s.line? r = some l → l.item.code ≠ c) →
    ∃ t, exec .offer s = .next t
      ∧ t.xu.offers = joinOffers s.xu.offers h.sender c q.toNat
      ∧ t.xu.offers.getLast? = some ⟨h.sender, c, min q.toNat 255, 0⟩
      ∧ t.be = s.be ∧ t.cu = s.cu ∧ t.su = s.su ∧ t.hc = s.hc)
    ∧ (∀ r l e xs ys a f, s.hc.stopped = false →
      s.allLines.filter (fun x => decide ((s.line? x).map (·.item.code) = some c)) = [r] →
      s.line? r = some l → s.canAsk r = true → s.askOf r = none → s.xu.waiting.length < 16 →
      joinOffers s.xu.offers h.sender c q.toNat = xs ++ e :: ys → e.code = c →
      (∀ x ∈ xs, x.code = c → x.quantity < e.quantity) → (∀ y ∈ ys, y.code = c → y.quantity ≤ e.quantity) →
      a = min l.uncommitted (min e.quantity 4) → f = Frame.ask e.station c (BitVec.ofNat 8 a) →
      ∃ t, exec .offer s = .next t
        ∧ t.xu.asks = s.xu.asks ++ [⟨r, e.station, c, a, 10⟩]
        ∧ t.line? r = some { l with pendingAsk := a }
        ∧ t.xu.offers = ((xs ++ e :: ys).map (fun x =>
            if x.station = e.station ∧ x.code = c then { x with quantity := x.quantity - a } else x)).filter
              (fun x => decide (0 < x.quantity))
        ∧ (s.lp.hasSpace = true → t.lp = u.lp.enqueue f ∧ t.xu.waiting = s.xu.waiting)
        ∧ (s.lp.hasSpace = false → t.lp = u.lp ∧ t.xu.waiting = s.xu.waiting ++ [⟨f, some r⟩])
        ∧ t.cu = s.cu ∧ t.su = s.su ∧ t.hc = s.hc ∧ t.pv = s.pv)

/-- A WANT of another station is answered by an OFFER of every FREE unit of the code, and sets the
code's clock to 0, when the gate is open, a unit is FREE, the code's last OFFER is 5 s old or more and
the queue accepts it; with the gate closed it changes nothing. -/
def Obligations.WantAnswered : Prop :=
  ∀ (h : Handed) (c : ItemCode) (q : Byte) (u s : State), s.handOver .want = some (h, u) →
    Frame.ofBody h.kind h.body = some (.want c q) → h.own = false →
    (q ≠ 0#8 → s.gateOpen = true → 0 < s.su.freeCount c → s.clockAllows c 5 = true →
      u.accepts3 = true →
      ∃ t, exec .want s = .next t
        ∧ t.setPl s.pl = (u.setLp (u.lp.enqueue (.offer c (BitVec.ofNat 16 (s.su.freeCount c))))).setXu
            { s.xu with clocks := s.xu.clocks.filter (fun k => decide (k.code ≠ c)) ++ [⟨c, 0⟩] })
    ∧ (s.gateOpen = false → ∃ t, exec .want s = .next t ∧ t.setPl s.pl = u)

/-- An ASK to this station of 1 to 4 units joins the end of the ask queue while the gate is open; one
that finds 8 entries is ignored; one addressed to another station changes nothing. -/
def Obligations.AskJoinsQueue : Prop :=
  ∀ (h : Handed) (k : Station) (c : ItemCode) (q : Byte) (u s : State), s.handOver .ask = some (h, u) →
    Frame.ofBody h.kind h.body = some (.ask k c q) → h.own = false →
    (k = s.jc.station → 1 ≤ q.toNat → q.toNat ≤ 4 → s.gateOpen = true → u.canServe = false →
      (s.xu.askQueue.length < 8 →
        ∃ t, exec .ask s = .next t ∧ t.setPl s.pl =
          u.setXu { s.xu with askQueue := s.xu.askQueue ++ [⟨h.sender, c, q.toNat⟩] })
      ∧ (8 ≤ s.xu.askQueue.length → ∃ t, exec .ask s = .next t ∧ t.setPl s.pl = u))
    ∧ (k ≠ s.jc.station → ∃ t, exec .ask s = .next t ∧ t.setPl s.pl = u)

/-- ASK_SERVE serves the head of the ask queue when the gate is open, nothing waits and the queue has
space: the GRANT with the next free sequence number and the frozen exposures enters the transmit queue,
and its outbound entry holds the units chosen. Of a longer queue the head is served first, and the rest is
served as from the state this leaves (`u`). In that state each slot of a unit granted is empty and marked with
the GRANT's sequence number (its lamp is BLUE), and every other slot is as it was; where requests for a slot
wait, a slot so emptied may be reserved for one (log 49).
The units chosen are FREE units of the code, in number the least of the asked quantity and the FREE count, and
none while the outbound list holds 8 entries: the CHILLED first, the most exposed first with the lower slot among
equals, then the others in lowest-slot order (`Grantable.Sooner`), each before every FREE unit of the code that is
not chosen. The sequence number is the first, counting up from the current one and round after 255, that no
outbound entry holds. -/
def Obligations.AskServeGrants : Prop :=
  (∀ (a : AskEntry) (s : State), s.xu.askQueue = [a] → s.canServe = true →
    ∃ t, exec .askServe s = .next t
      ∧ t.xu.askQueue = [] ∧ t.xu.seq = s.nextSeq + 1#8
      ∧ t.lp = s.lp.enqueue (.grant a.asker s.nextSeq a.code
          ((s.chosenFor a).map (fun g => BitVec.ofNat 16 (g.unit.exposure.getD 0))))
      ∧ t.xu.outbound = (if s.chosenFor a = [] then s.xu.outbound
          else s.xu.outbound ++ [⟨s.nextSeq, a.asker, (s.chosenFor a).map (·.unit), 0⟩])
      ∧ t.be = s.be ∧ t.cu = s.cu)
  ∧ ∀ (a : AskEntry) (rest : List AskEntry) (s : State), s.xu.askQueue = a :: rest → s.canServe = true →
    ∃ u : State, u.xu.askQueue = rest ∧ u.xu.seq = s.nextSeq + 1#8
      ∧ u.lp = s.lp.enqueue (.grant a.asker s.nextSeq a.code
          ((s.chosenFor a).map (fun g => BitVec.ofNat 16 (g.unit.exposure.getD 0))))
      ∧ u.xu.outbound = (if s.chosenFor a = [] then s.xu.outbound
          else s.xu.outbound ++ [⟨s.nextSeq, a.asker, (s.chosenFor a).map (·.unit), 0⟩])
      ∧ u.be = s.be ∧ u.cu = s.cu ∧ u.jc = s.jc
      ∧ (∀ g ∈ s.chosenFor a, u.su.slot g.slot = .empty (some s.nextSeq)
          ∨ (s.su.requests ≠ [] ∧ ∃ q ∈ s.su.requests, u.su.slot g.slot = .reserved q))
      ∧ (s.su.requests = [] → ∀ i, (∀ g ∈ s.chosenFor a, g.slot ≠ i) → u.su.slot i = s.su.slot i)
      ∧ (rest = [] → ∃ t, exec .askServe s = .next t ∧ t.setPl u.pl = u)
      ∧ (rest.length < 8 → exec .askServe s = exec .askServe u)
      ∧ (s.chosenFor a).length
          = (if s.xu.outbound.length < 8 then min a.quantity (s.su.freeCount a.code) else 0)
      ∧ (∀ g ∈ s.chosenFor a, g.unit.label.code = a.code
          ∧ ∃ age, s.su.slot g.slot = .occupied g.unit (.free age))
      ∧ (s.chosenFor a).Pairwise Grantable.Sooner
      ∧ (s.xu.outbound.length < 8 → ∀ j v age, s.su.slot j = .occupied v (.free age) → v.label.code = a.code →
          (∀ g ∈ s.chosenFor a, g.slot ≠ j) → ∀ g ∈ s.chosenFor a, g.Sooner ⟨j, v⟩)
      ∧ (s.xu.outbound.length < 256 → (∀ o ∈ s.xu.outbound, o.seq ≠ s.nextSeq)
          ∧ ∀ n : Seq, (n - s.xu.seq).toNat < (s.nextSeq - s.xu.seq).toNat → ∃ o ∈ s.xu.outbound, o.seq = n)

/-- A GRANT to this station of 1 to 4 units with a new tag and room in the expected list makes an
expected entry at the list's end, linked to the oldest ask record of its sender and code. -/
def Obligations.GrantMakesExpected : Prop :=
  ∀ (h : Handed) (k : Station) (n : Seq) (c : ItemCode) (es : List (BitVec 16)) (u s : State),
    s.handOver .grant = some (h, u) → Frame.ofBody h.kind h.body = some (.grant k n c es) →
    h.own = false → k = s.jc.station → s.jc.state ≠ .joining → es ≠ [] → es.length ≤ 4 →
    s.expectedTag h.sender n = none → s.xu.expected.length < 8 →
    ∃ t, exec .grant s = .next t
      ∧ t.xu.expected = s.xu.expected ++ [{
          source := h.sender, seq := n, code := c, granted := es.length, remaining := es.length,
          exposures := es.map BitVec.toNat, clock := 0,
          link := (s.answered h.sender c).map (·.line) }]
      ∧ t.su = s.su ∧ t.cu = s.cu ∧ t.xu.outbound = s.xu.outbound

/-- A TAKEN to this station that matches an outbound entry ends it: the entry leaves, and no slot shows
BLUE for it; one that matches none changes nothing. -/
def Obligations.TakenEndsOutbound : Prop :=
  ∀ (h : Handed) (k : Station) (n : Seq) (q : Byte) (u s : State), s.handOver .taken = some (h, u) →
    Frame.ofBody h.kind h.body = some (.taken k n q) → h.own = false → k = s.jc.station →
    s.jc.state ≠ .joining →
    ((∃ o ∈ s.xu.outbound, o.seq = n ∧ o.dest = h.sender) →
      ∃ t, exec .taken s = .next t
        ∧ (∀ x, x ∈ t.xu.outbound ↔ x ∈ s.xu.outbound ∧ x.seq ≠ n)
        ∧ t.su.slots = s.su.slots.map (Slot.forget n) ∧ t.be = s.be ∧ t.cu = s.cu)
    ∧ ((∀ o ∈ s.xu.outbound, ¬ (o.seq = n ∧ o.dest = h.sender)) →
      ∃ t, exec .taken s = .next t ∧ t.setPl s.pl = u)

/-! ### Notices and claims -/

/-- A NOTICE of a new order joins the list's end with its fields and its round, taken as 3 when above
3, and the notices already there keep their fields, counts and order ids. A list of 32 first loses the
oldest OTHERS notice, else the oldest STRANDED one, else the oldest OPEN skeleton; with none of them the
NOTICE is dropped, the list stays, and NOTICE_DROPPED is reported with its rank where the panel's buffer has
the room. A NOTICE of a known order raises its count to the round, fills in a skeleton, and keeps the fields
of a notice that has them. A higher round clears released-by-me and makes an OPEN or OTHERS notice OPEN (a
position may mark it at once), or STRANDED at 3; it leaves MARKED, MINE and GONE as they are. A round that
is not higher leaves both, but for a skeleton that is filled in while OPEN, which a position may mark. -/
def Obligations.NoticeUpdatesList : Prop :=
  ∀ (h : Handed) (b : WireNotice) (i : NoticeInfo) (u s : State), s.handOver .notice = some (h, u) →
    Frame.ofBody h.kind h.body = some (.notice b) → b.check = some i →
    (s.notice? b.order = none → s.cu.notices.length < 32 →
      ∃ t, exec .notice s = .next t
        ∧ t.cu.notices.map (fun n => (n.order, n.info, n.count, n.releasedByMe))
          = s.cu.notices.map (fun n => (n.order, n.info, n.count, n.releasedByMe))
            ++ [(b.order, some i, min b.round.toNat 3, false)])
    ∧ (s.notice? b.order = none → 32 ≤ s.cu.notices.length →
      (∀ e, firstSome (fun test => s.cu.notices.find? test)
          [fun n => n.isOthers, fun n => decide (n.state = .stranded),
            fun n => decide (n.state = .opened) && n.info.isNone] = some e →
        ∃ t, exec .notice s = .next t
          ∧ t.cu.notices.map (fun n => (n.order, n.info, n.count, n.releasedByMe))
            = (s.cu.notices.filter (fun n => decide (n.order ≠ e.order))).map
                (fun n => (n.order, n.info, n.count, n.releasedByMe))
              ++ [(b.order, some i, min b.round.toNat 3, false)])
      ∧ ((∀ n ∈ s.cu.notices, n.isOthers = false ∧ n.state ≠ .stranded
            ∧ ¬ (n.state = .opened ∧ n.info = none)) →
        ∃ t, exec .notice s = .next t ∧ t.setPl s.pl = u
          ∧ (s.pl.buffer.length < 16 → s.pl.anyOwed = false →
              .report 38 none none i.rank ∈ t.pl.buffer)))
    ∧ (∀ n, s.notice? b.order = some n →
      ∃ t m, exec .notice s = .next t ∧ t.notice? b.order = some m
        ∧ m.count = max n.count (min b.round.toNat 3)
        ∧ m.info = (if n.info.isNone then some i else n.info)
        ∧ (n.count < min b.round.toNat 3 → m.releasedByMe = false
          ∧ ((n.state = .opened ∨ ∃ j, n.state = .others j) →
              (3 ≤ b.round.toNat → m.state = .stranded)
              ∧ (b.round.toNat < 3 → m.state = .opened ∨ ∃ p, m.state = .marked p))
          ∧ (((∃ p, n.state = .marked p) ∨ (∃ p, n.state = .mine p) ∨ ∃ p j, n.state = .gone p j) →
              m.state = n.state))
        ∧ (min b.round.toNat 3 ≤ n.count → m.releasedByMe = n.releasedByMe
          ∧ (m.state = n.state ∨ (n.state = .opened ∧ n.info = none ∧ ∃ p, m.state = .marked p))))

/-- A CLAIM with this station's number of a MARKED notice succeeds: the notice is MINE at the same position, the
build takes the next claim order and one line record for each order line. A received frame with this
station's number counts as its own for CU, by its sender (R125; log 8). -/
def Obligations.OwnClaimSucceeds : Prop :=
  ∀ (h : Handed) (o : OrderId) (n : Notice) (p : Pos) (u s : State), s.handOver .claim = some (h, u) →
    Frame.ofBody h.kind h.body = some (.claim o) → h.sender = s.jc.station → s.notice? o = some n →
    n.state = .marked p → s.claimCounter < 65535 →
    ∃ t, exec .claim s = .next t
      ∧ t.notice? o = some { n with state := .mine p }
      ∧ t.claimCounter = s.claimCounter + 1
      ∧ (t.build p).claimOrder = some (s.claimCounter + 1)
      ∧ (t.build p).lines.map (·.item) = s.orderLines o
      ∧ (t.build p).content = (s.build p).content

/-- A CLAIM of another station makes an OPEN notice OTHERS of that station, leaves OTHERS, STRANDED and
GONE notices and a MINE notice as they are, and makes a skeleton of an unknown order. A MARKED notice
becomes OTHERS of that station and its link is broken: this station's CLAIM neither waits nor stands in
the queue, its withdrawal is held while it contends, and the position is EMPTY, or CLAIMING another
order. For a MINE notice PRIOR with this station's number is produced: queued, or with CU behind at most 15
other frames where the queue has no space, or discarded while ISOLATED; and none is produced while one for
the order waits with CU or stands in the queue without having started. -/
def Obligations.OtherClaimTakesOrder : Prop :=
  ∀ (h : Handed) (o : OrderId) (u s : State), s.handOver .claim = some (h, u) →
    Frame.ofBody h.kind h.body = some (.claim o) → h.sender ≠ s.jc.station →
    (∀ n, s.notice? o = some n → n.state = .opened →
      ∃ t, exec .claim s = .next t ∧ t.notice? o = some { n with state := .others h.sender })
    ∧ (∀ n p, s.notice? o = some n → n.state = .marked p →
      (∀ w ∈ s.xu.waiting, w.frame ≠ .claim o) →
      ∃ t, exec .claim s = .next t ∧ t.notice? o = some { n with state := .others h.sender }
        ∧ Frame.claim o ∉ t.cu.waiting ∧ Frame.claim o ∉ t.lp.queue ∧ t.lp.started = s.lp.started
        ∧ (∀ c, s.lp.contending = some c → c.frame = .claim o →
            t.lp.contending = some { c with withdrawn := true })
        ∧ (t.build p).content = [] ∧ (t.build p).link ≠ some o
        ∧ ((t.build p).state = .empty ∨ (t.build p).state = .claiming))
    ∧ (∀ n, s.notice? o = some n → n.state ≠ .opened → (∀ p, n.state ≠ .marked p) →
      ∃ t, exec .claim s = .next t ∧ t.cu.notices = s.cu.notices)
    ∧ (∀ n p, s.notice? o = some n → n.state = .mine p →
      ((∀ k, Frame.prior o k ∉ s.cu.waiting ∧ Frame.prior o k ∉ s.lp.unstarted) →
        (s.jc.state ≠ .isolated → s.lp.hasSpace = true →
          ∃ t, exec .claim s = .next t ∧ .prior o s.jc.station ∈ t.lp.queue ∧ t.cu = s.cu
            ∧ (s.xu.askQueue = [] → t.setPl s.pl = u.setLp (u.lp.enqueue (.prior o s.jc.station))))
        ∧ (s.jc.state ≠ .isolated → s.lp.hasSpace = false → s.cu.waiting.length < 16 →
          ∃ t, exec .claim s = .next t
            ∧ t.setPl s.pl = u.setCu { s.cu with waiting := s.cu.waiting ++ [.prior o s.jc.station] })
        ∧ (s.jc.state = .isolated → ∃ t, exec .claim s = .next t ∧ t.setPl s.pl = u))
      ∧ (∀ k, (Frame.prior o k ∈ s.cu.waiting ∨ Frame.prior o k ∈ s.lp.unstarted) →
        ∃ t, exec .claim s = .next t ∧ t.cu = s.cu
          ∧ t.lp.queue.filter (fun f => decide (f.kind = .prior))
              = s.lp.queue.filter (fun f => decide (f.kind = .prior))
          ∧ (s.xu.askQueue = [] → t.setPl s.pl = u)))
    ∧ (s.notice? o = none → s.cu.notices.length < 32 →
      ∃ t, exec .claim s = .next t
        ∧ t.cu.notices = s.cu.notices ++ [⟨o, none, .others h.sender, 0, false⟩])

/-- A PRIOR naming another holder makes an OPEN, OTHERS, STRANDED or MARKED notice OTHERS of that holder,
and a MINE notice whose build has nothing placed and no put pending; the position of a MARKED or such a
MINE notice returns to EMPTY, and may look for another order at once. One naming this station's own
number changes nothing. -/
def Obligations.PriorNamesHolder : Prop :=
  ∀ (h : Handed) (o : OrderId) (k : Station) (u s : State), s.handOver .prior = some (h, u) →
    Frame.ofBody h.kind h.body = some (.prior o k) →
    (k = s.jc.station → ∃ t, exec .prior s = .next t ∧ t.setPl s.pl = u)
    ∧ (k ≠ s.jc.station → ∀ n, s.notice? o = some n →
        (n.state = .opened ∨ (∃ j, n.state = .others j) ∨ n.state = .stranded) →
      ∃ t, exec .prior s = .next t ∧ t.notice? o = some { n with state := .others k })
    ∧ (k ≠ s.jc.station → ∀ n p, s.notice? o = some n →
        (n.state = .marked p ∨ (n.state = .mine p ∧ (s.build p).state ≠ .sealed
          ∧ s.countsUnloading p = false ∧ (s.build p).content = [] ∧ s.putPending p = false)) →
      ∃ t, exec .prior s = .next t ∧ t.notice? o = some { n with state := .others k }
        ∧ (t.build p).content = [] ∧ t.hold p = none ∧ (t.build p).link ≠ some o
        ∧ ((t.build p).state = .empty ∨ (t.build p).state = .claiming))

/-- A PRIOR naming another holder for a MINE order with units placed, and another station's DONE for
one, make the notice GONE with its link kept and hold the build with ORDER_GONE. -/
def Obligations.LostOrderHoldsBuild : Prop :=
  ∀ (h : Handed) (o : OrderId) (p : Pos) (n : Notice) (u s : State), s.notice? o = some n →
    n.state = .mine p → ((s.build p).state = .gathering ∨ (s.build p).state = .putting) →
    s.hold p = none →
    (∀ k, s.handOver .prior = some (h, u) → Frame.ofBody h.kind h.body = some (.prior o k) →
      k ≠ s.jc.station → (s.build p).content ≠ [] →
      ∃ t x, exec .prior s = .next t ∧ t.notice? o = some { n with state := .gone p (some k) }
        ∧ (t.build p).state = .held ∧ t.hold p = some x ∧ x.primary = ⟨.orderGone, false⟩
        ∧ x.saved = (s.build p).savedState)
    ∧ (∀ fl tot w, s.handOver .done = some (h, u) → Frame.ofBody h.kind h.body = some (.done o fl tot w) →
      h.sender ≠ s.jc.station →
      ∃ t x, exec .done s = .next t ∧ t.notice? o = some { n with state := .gone p (some h.sender) }
        ∧ (t.build p).state = .held ∧ t.hold p = some x ∧ x.primary = ⟨.orderGone, false⟩
        ∧ x.saved = (s.build p).savedState)

/-- A RELEASE raises the count of an OPEN notice, and of a notice OTHERS of its sender, by one up to 3,
and strands it at 3; it raises the count of a MARKED notice, which stays MARKED; it leaves a notice OTHERS of another station, MINE, STRANDED or GONE as it is. -/
def Obligations.ReleaseCounts : Prop :=
  ∀ (h : Handed) (o : OrderId) (n : Notice) (u s : State), s.handOver .release = some (h, u) →
    Frame.ofBody h.kind h.body = some (.release o) → s.notice? o = some n →
    ((n.state = .opened ∨ n.state = .others h.sender) →
      ∃ t m, exec .release s = .next t ∧ t.notice? o = some m
        ∧ m.count = min (n.count + 1) 3 ∧ m.releasedByMe = n.releasedByMe
        ∧ (2 ≤ n.count → m.state = .stranded)
        ∧ (n.count < 2 → m.state = .opened ∨ ∃ p, m.state = .marked p))
    ∧ ((∃ p, n.state = .marked p) →
      ∃ t, exec .release s = .next t ∧ t.notice? o = some { n with count := min (n.count + 1) 3 })
    ∧ (((∃ j, j ≠ h.sender ∧ n.state = .others j) ∨ (∃ p, n.state = .mine p) ∨ n.state = .stranded
          ∨ ∃ p k, n.state = .gone p k) →
      ∃ t, exec .release s = .next t ∧ t.notice? o = some n)

/-- A DONE removes an OPEN, OTHERS or STRANDED notice of its order and no other notice; a MARKED notice is
removed and its link broken: this station's CLAIM neither waits nor stands in the queue, and the position
is EMPTY, or CLAIMING another order; this station's own DONE leaves a MINE notice. -/
def Obligations.DoneRemovesNotice : Prop :=
  ∀ (h : Handed) (o : OrderId) (fl : CauseSet) (tot : BitVec 24) (w : BitVec 16) (n : Notice)
    (u s : State), s.handOver .done = some (h, u) →
    Frame.ofBody h.kind h.body = some (.done o fl tot w) → s.notice? o = some n →
    ((n.state = .opened ∨ (∃ j, n.state = .others j) ∨ n.state = .stranded) →
      ∃ t, exec .done s = .next t ∧ (∀ m, m ∈ t.cu.notices ↔ m ∈ s.cu.notices ∧ m.order ≠ o))
    ∧ (∀ p, n.state = .marked p → (∀ w ∈ s.xu.waiting, w.frame ≠ .claim o) →
      ∃ t, exec .done s = .next t ∧ (∀ m ∈ t.cu.notices, m.order ≠ o)
        ∧ Frame.claim o ∉ t.cu.waiting ∧ Frame.claim o ∉ t.lp.queue ∧ (t.build p).link ≠ some o
        ∧ ((t.build p).state = .empty ∨ (t.build p).state = .claiming))
    ∧ ((∃ p, n.state = .mine p) → h.sender = s.jc.station →
      ∃ t, exec .done s = .next t ∧ t.cu.notices = s.cu.notices)

/-! ### The bench line -/

/-- A frame that can be sent is read back from its own bytes: the sender, kind and body pass the
receiver's test, and the body gives the frame's fields. -/
def Obligations.FrameRoundTrip : Prop :=
  ∀ (k : Station) (f : Frame), k ≠ 0#5 → f.wellFormed = true →
    readFrame (f.wire k) = some ⟨false, k, f.kind, f.body⟩ ∧ Frame.ofBody f.kind f.body = some f

/-- A frame that passes its test takes its receive slot at the end of the hand-over sequence, behind all
the frames already there; a class 0 frame always does, in a full buffer in the place of the latest class 0
frame; a frame of class 1 to 3 with no slot is dropped and suppresses claims for 15 s; bytes that fail the
test change nothing. How the slots are counted is the model's choice (log 7). -/
def Obligations.FrameReceiveBuffers : Prop :=
  ∀ (bytes : List Byte) (s : State),
    (readFrame bytes = none → exec (.frameReceive bytes) s = .next s)
    ∧ (∀ h, readFrame bytes = some h →
      (h.kind.cls = 0 → ∃ t, exec (.frameReceive bytes) s = .next t
        ∧ t.setPl s.pl = s.setLp { s.lp with handover :=
            (if s.lp.received < 12 then s.lp.handover else dropLatest0 s.lp.handover) ++ [h] })
      ∧ (h.kind.cls ≠ 0 → s.lp.received13 < 11 → s.lp.received < 12 →
        ∃ t, exec (.frameReceive bytes) s = .next t
          ∧ t.setPl s.pl = s.setLp { s.lp with handover := s.lp.handover ++ [h] })
      ∧ (h.kind.cls ≠ 0 → (11 ≤ s.lp.received13 ∨ 12 ≤ s.lp.received) →
        ∃ t, exec (.frameReceive bytes) s = .next t
          ∧ t.setPl s.pl = s.setLp { s.lp with suppression := some 15 }))

/-- At an idle line the head of the transmit queue contends. It starts when no node sends a lower class,
or its own class with a lower station number, whether or not its withdrawal is held; otherwise it goes
back to its place, or is removed if its withdrawal is held. That a contention takes two commands is the
model's choice (log 6). -/
def Obligations.ContentionByClassThenStation : Prop :=
  ∀ (rivals : List Contention) (s : State),
    (∀ f fs, s.lp.started = none → s.lp.contending = none → s.lp.queue = f :: fs → s.jc.state ≠ .isolated →
      exec (.contention .begins) s
        = .next (s.setLp { s.lp with queue := fs, contending := some ⟨f, false⟩ }))
    ∧ (∀ c, s.lp.contending = some c →
      ((∀ r ∈ rivals, c.frame.cls < r.cls.toNat
          ∨ (c.frame.cls = r.cls.toNat ∧ s.jc.station.toNat ≤ r.station.toNat)) →
        exec (.contention (.decided rivals)) s
          = .next (s.setLp { s.lp with contending := none, started := some ⟨c.frame, true⟩ }))
      ∧ ((∃ r ∈ rivals, r.cls.toNat < c.frame.cls
          ∨ (r.cls.toNat = c.frame.cls ∧ r.station.toNat < s.jc.station.toNat)) →
        (c.withdrawn = false → exec (.contention (.decided rivals)) s
          = .next (s.setLp { s.lp.putBack c.frame with contending := none }))
        ∧ (c.withdrawn = true → s.anyWaiting = false → s.xu.askQueue = [] →
          ∃ t, exec (.contention (.decided rivals)) s = .next t
            ∧ t.setPl s.pl = s.setLp { s.lp with contending := none })))

/-- A contention fault aborts the started frame, puts it back ahead of its class and counts; the third
in a row isolates the station and empties the transmit queue. -/
def Obligations.ContentionFaultCounts : Prop :=
  ∀ (x : Started) (s : State), s.lp.started = some x → s.jc.state ≠ .isolated →
    (s.lp.faults < 2 → x.holdsPlace = true →
      ∃ t, exec .contentionFault s = .next t
        ∧ t.setPl s.pl = s.setLp { s.lp.putBack x.frame with started := none, faults := s.lp.faults + 1 })
    ∧ (2 ≤ s.lp.faults →
      ∃ t, exec .contentionFault s = .next t
        ∧ t.jc.state = .isolated ∧ t.lp.started = none ∧ t.lp.contending = none ∧ t.lp.queue = []
        ∧ t.xu.askQueue = [] ∧ t.cu.waiting = [] ∧ t.xu.waiting = [] ∧ t.wf = s.wf)

/-- A started frame that completes is handed back at the end of the hand-over sequence, and the fault
count is 0. -/
def Obligations.OwnFrameHandedBack : Prop :=
  ∀ (x : Started) (s : State), s.lp.started = some x →
    ∃ t, exec .ownFrameComplete s = .next t
      ∧ t.lp.started = none ∧ t.lp.faults = 0
      ∧ t.lp.handover = s.lp.handover ++ [⟨true, s.jc.station, x.frame.kind, x.frame.body⟩]
      ∧ t.lp.suppression = s.lp.suppression ∧ t.jc = s.jc ∧ t.wf = s.wf ∧ t.hc.stopped = s.hc.stopped

/-- After TX_SPACE_GRANT no frame waits for space while the transmit queue has any. One free place goes to
a HALT that waits with HC, without one to CU's oldest frame, and without either to XU's oldest; the
others wait on. The frames already received, the station's values and the platforms stand. -/
def Obligations.NoFrameWaitsBesideSpace : Prop :=
  ∀ s : State, s.jc.state ≠ .isolated →
    ∃ t, exec .txSpaceGrant s = .next t
      ∧ ¬ (t.lp.hasSpace = true ∧ t.anyWaiting = true)
      ∧ (s.lp.places = 7 →
        (0 < s.hc.haltsWaiting → t.lp = s.lp.enqueue .halt ∧ t.hc.haltsWaiting = s.hc.haltsWaiting - 1
          ∧ t.cu.waiting = s.cu.waiting ∧ t.xu.waiting = s.xu.waiting)
        ∧ (s.hc.haltsWaiting = 0 → ∀ f fs, s.cu.waiting = f :: fs →
          t.lp = s.lp.enqueue f ∧ t.xu.waiting = s.xu.waiting ∧ (f.kind ≠ .claim → t.cu.waiting = fs))
        ∧ (s.hc.haltsWaiting = 0 → s.cu.waiting = [] → ∀ w ws, s.xu.waiting = w :: ws →
          t.lp = s.lp.enqueue w.frame ∧ t.xu.waiting = ws ∧ t.cu.waiting = []))
      ∧ t.lp.handover = s.lp.handover ∧ t.lp.started = s.lp.started ∧ t.jc = s.jc ∧ t.wf = s.wf

/-! ### Joining and the panel link -/

/-- The suppression timer and the join limit at 0: claims are no longer suppressed; the station enters
ACTIVE with its SETUP values as they stand and a roll period of 10 s. After either the fitted positions look one
after another in letter order. A position looks when its build is EMPTY, the station ACTIVE, the bench not
STOPPED, claims not suppressed and no CLAIM waiting with CU; it takes the notice that is OPEN, not released by
this station and no skeleton, of the lowest rank, the earliest in the list among equals: the notice is MARKED for
the position, the build CLAIMING with its link, and CLAIM is queued, or waits with CU where the queue has no
space; nothing else changes but the panel link. Without such a notice, or where a condition fails, nothing
changes. -/
def Obligations.StationTimersRunOut : Prop :=
  ∀ s : State,
    (s.lp.suppression = some 0 →
      ∃ t, exec .suppressionExpiry s = .next t
        ∧ t.lp.suppression = none ∧ t.jc = s.jc ∧ t.su = s.su ∧ t.xu = s.xu ∧ t.wf = s.wf)
    ∧ (s.jc.state = .joining → s.jc.joinLeft = some 0 →
      ∃ t, exec .joinLimitExpiry s = .next t
        ∧ t.jc = { s.jc with state := .active, joinLeft := none, rollLeft := some 10, rollOwed := false }
        ∧ t.su = s.su ∧ t.xu = s.xu ∧ t.wf = s.wf)
    ∧ (s.lp.suppression = some 0 → exec .suppressionExpiry s
        = finish (s.fittedPos.foldl State.look (s.setLp { s.lp with suppression := none })))
    ∧ (s.jc.state = .joining → s.jc.joinLeft = some 0 → exec .joinLimitExpiry s
        = finish (s.fittedPos.foldl State.look (s.setJc
            { s.jc with state := .active, joinLeft := none, rollLeft := some 10, rollOwed := false })))
    ∧ ∀ p : Pos,
      (((s.build p).state ≠ .empty ∨ s.jc.state ≠ .active ∨ s.hc.stopped = true ∨ s.lp.suppression ≠ none
          ∨ (∃ f ∈ s.cu.waiting, f.kind = .claim)
          ∨ ∀ n ∈ s.cu.notices, ¬ (n.state = .opened ∧ n.releasedByMe = false ∧ n.info ≠ none)) →
        s.look p = s)
      ∧ (∀ xs n ys i u, (s.build p).state = .empty → s.jc.state = .active → s.hc.stopped = false →
        s.lp.suppression = none → (∀ f ∈ s.cu.waiting, f.kind ≠ .claim) →
        s.cu.notices = xs ++ n :: ys → n.state = .opened → n.releasedByMe = false → n.info = some i →
        (∀ m ∈ xs, ∀ j, m.state = .opened → m.releasedByMe = false → m.info = some j → i.rank < j.rank) →
        (∀ m ∈ ys, ∀ j, m.state = .opened → m.releasedByMe = false → m.info = some j → i.rank ≤ j.rank) →
        u = (s.setCu { s.cu with notices := s.cu.notices.map (fun m =>
            if m.order = n.order then { m with state := .marked p } else m) }).setBuild p
              { s.build p with state := .claiming, link := some n.order } →
        (s.lp.hasSpace = true →
          (s.look p).setPl s.pl = u.setLp (s.lp.enqueue (.claim n.order)))
        ∧ (s.lp.hasSpace = false → s.cu.waiting.length < 16 →
          (s.look p).setPl s.pl = u.setCu { u.cu with waiting := s.cu.waiting ++ [.claim n.order] }))

/-- At the end of the roll period, and at every retry, an ACTIVE station offers a ROLL with the fresh
flag clear: accepted, it starts the period of 10 s again; refused, it is owed. -/
def Obligations.RollOffered : Prop :=
  ∀ s : State, s.jc.state = .active →
    ∀ c, ((c = Instr.rollPeriodExpiry ∧ s.jc.rollLeft = some 0) ∨ (c = Instr.rollRetry ∧ s.jc.rollOwed = true)) →
      (s.accepts3 = true → ∃ t, exec c s = .next t ∧ t.setPl s.pl =
        (s.setLp (s.lp.enqueue (.roll false (BitVec.ofNat 8 s.jc.fitted)))).setJc
          { s.jc with rollLeft := some 10, rollOwed := false })
      ∧ (s.accepts3 = false → ∃ t, exec c s = .next t ∧ t.setPl s.pl =
        s.setJc { s.jc with rollLeft := none, rollOwed := true })

/-- A ROLL of another node: with this station's own number it isolates a station that is not ISOLATED;
with the fresh flag clear it changes nothing else. A fresh one keeps every notice in its place: those
OTHERS of its sender gain one on their count, up to 3, and are OPEN (a position may mark one at once), or
STRANDED at 3, with released-by-me as it was, and the others keep their counts. It leaves no offer of its
sender, no ask entry of it and no ask record naming it. -/
def Obligations.RollFromAnother : Prop :=
  ∀ (h : Handed) (fresh : Bool) (n : Byte) (u s : State), s.handOver .roll = some (h, u) →
    Frame.ofBody h.kind h.body = some (.roll fresh n) → h.own = false →
    (h.sender = s.jc.station → s.jc.state ≠ .isolated →
      ∃ t, exec .roll s = .next t ∧ t.jc.state = .isolated ∧ t.lp.queue = [] ∧ t.xu.askQueue = []
        ∧ t.xu.asks = [])
    ∧ (h.sender ≠ s.jc.station → fresh = false → ∃ t, exec .roll s = .next t ∧ t.setPl s.pl = u)
    ∧ (h.sender ≠ s.jc.station → fresh = true →
      ∃ t, exec .roll s = .next t
        ∧ t.cu.notices.map (fun n => (n.order, n.info, n.count, n.releasedByMe))
            = s.cu.notices.map (fun n => (n.order, n.info,
                if n.state = .others h.sender then min (n.count + 1) 3 else n.count, n.releasedByMe))
        ∧ (∀ n ∈ s.cu.notices, n.state = .others h.sender →
            (∀ m ∈ s.cu.notices, m.order = n.order → m = n) →
            ∃ m ∈ t.cu.notices, m.order = n.order ∧ (2 ≤ n.count → m.state = .stranded)
              ∧ (n.count < 2 → m.state = .opened ∨ ∃ p, m.state = .marked p))
        ∧ (∀ m ∈ t.cu.notices, m.state ≠ .others h.sender)
        ∧ (∀ e ∈ t.xu.offers, e.station ≠ h.sender)
        ∧ (∀ a ∈ t.xu.askQueue, a.asker ≠ h.sender)
        ∧ (∀ a ∈ t.xu.asks, a.offerer ≠ h.sender))

/-- A SETUP for all stations or for this one is accepted while JOINING, and the station is ACTIVE: each
value is in force as sent where it is in its range, and at the nearer bound where it is outside; a mode code
above 3 is UP and an auto-confirm byte above 1 is on. Each field brought to a bound is reported with its
number, in field order, where the panel's buffer has the room. Any other SETUP changes nothing. -/
def Obligations.SetupAccepted : Prop :=
  ∀ (h : Handed) (b : WireSetup) (u s : State), s.handOver .setup = some (h, u) →
    Frame.ofBody h.kind h.body = some (.setup b) →
    (s.jc.state = .joining → (b.target = 0#8 ∨ b.target = stationByte s.jc.station) →
      ∃ t, exec .setup s = .next t
        ∧ t.jc.state = .active ∧ t.jc.setup = b.values ∧ t.jc.joinLeft = none ∧ t.jc.rollLeft = some 10
        ∧ t.jc.setup.mode = (if b.mode = 0#8 then .nearestEven else if b.mode = 1#8 then .nearestUp
            else if b.mode = 2#8 then .down else .up)
        ∧ t.jc.setup.chillLimit = (if b.chill.toNat < 300 then 300
            else if 2700 < b.chill.toNat then 2700 else b.chill.toNat)
        ∧ t.jc.setup.gatherLimit = (if b.gather.toNat < 60 then 60
            else if 900 < b.gather.toNat then 900 else b.gather.toNat)
        ∧ t.jc.setup.exactWait = (if b.exact.toNat < 10 then 10
            else if 120 < b.exact.toNat then 120 else b.exact.toNat)
        ∧ t.jc.setup.surplusHold = (if b.surplus.toNat < 20 then 20
            else if 300 < b.surplus.toNat then 300 else b.surplus.toNat)
        ∧ (t.jc.setup.autoConfirm = true ↔ 1 ≤ b.auto.toNat)
        ∧ (s.pl.buffer = [] → s.pl.anyOwed = false →
            ((if 3 < b.mode.toNat then [1] else [])
              ++ (if b.chill.toNat < 300 ∨ 2700 < b.chill.toNat then [2] else [])
              ++ (if b.gather.toNat < 60 ∨ 900 < b.gather.toNat then [3] else [])
              ++ (if b.exact.toNat < 10 ∨ 120 < b.exact.toNat then [4] else [])
              ++ (if b.surplus.toNat < 20 ∨ 300 < b.surplus.toNat then [5] else [])
              ++ (if 1 < b.auto.toNat then [7] else [])).map (fun n => PanelOut.report 40 none none n)
            <+: t.pl.buffer)
        ∧ 300 ≤ t.jc.setup.chillLimit ∧ t.jc.setup.chillLimit ≤ 2700
        ∧ 60 ≤ t.jc.setup.gatherLimit ∧ t.jc.setup.gatherLimit ≤ 900
        ∧ 10 ≤ t.jc.setup.exactWait ∧ t.jc.setup.exactWait ≤ 120
        ∧ 20 ≤ t.jc.setup.surplusHold ∧ t.jc.setup.surplusHold ≤ 300
        ∧ t.jc.setup.holdMask = b.mask)
    ∧ ((s.jc.state ≠ .joining ∨ (b.target ≠ 0#8 ∧ b.target ≠ stationByte s.jc.station)) →
      ∃ t, exec .setup s = .next t ∧ t.setPl s.pl = u)

/-- The record sent leaves the head of the panel's buffer; the place it frees in a full buffer goes to
the first owed POSITION record, built from the build's state of this moment, with the reports-lost mark, also
where an earlier one of its position is still unsent (log 48, the model's choice).
An inbound record that times out leaves PL waiting for a start byte and changes nothing else. Inbound
bytes in which no record passes change nothing but the record partly read; a record of an unknown kind or
a wrong length is discarded and the record behind it is read: a RESET behind it is a bench reset, and a
STOP with input 1 is STOP_ASSERTED. That such bytes are the operand of PANEL_RECORD_DISCARDED, and when a
record is judged, is the model's choice (log 26).
The REPORTs of the causes of R168 and the events of R188 carry their code, position, unit and value. A report
that finds room in a buffer with nothing owed joins its end, and one that does not leaves the panel owed
(`State.Told`). SCALE_OVERRANGE of a put and of an UNLOAD removal gives the lowest saturated cell;
CHILL_EXPIRED the exposure, at once or when the put that held it back ends; ORDER_GONE the new holder, on a
PRIOR and on another's DONE; PUT_REMOVED the delta; PUT_MISMATCH the difference, of a put and of an UNLOAD
removal; PUT_TIMEOUT 90; PLAN_FULL the unit or the weight sum; GATHER_LATE the uncovered sum; and the causes
of a check (OVERWEIGHT, CLAMPED, BAND_LOW, BAND_HIGH) or of a valuation (INVALID, CLAMPED, INEXACT) go
together in code order. Of the bench reports: TABLE_FULL; TRANSFER_LATE at the limit, at a full expected list
and at a repeated tag; WRITE_OFF at the limit and at a TAKEN of fewer units; FRAME_DROPPED; NUMBER_CLASH at
the third fault and at a ROLL; REFUSED of a chute scan and of every key refused; NOTICE_DROPPED of a skeleton;
and BAD_LABEL. (NOTICE_DROPPED of a NOTICE: `NoticeUpdatesList`. SETUP_CLAMPED: `SetupAccepted`. NUMBER_CLASH
at power-on: `PowerOnSamplesStraps`.) -/
def Obligations.PanelLinkRecords : Prop :=
  (∀ s : State,
    (∃ t, exec .outboundRecordSent s = .next t
      ∧ t.setPl s.pl = s
      ∧ (s.pl.anyOwed = false → t.pl = { s.pl with buffer := s.pl.buffer.drop 1 })
      ∧ (∀ p, s.pl.buffer.length = 16 → Pos.all.find? (fun q => (s.pl.positions.get q).owed) = some p →
        t.pl = { s.pl with
          buffer := s.pl.buffer.drop 1 ++ [.position p (s.posShow p) s.pl.reportsLost]
          positions := s.pl.positions.set p ⟨s.posShow p, false⟩
          reportsLost := false }))
    ∧ exec .panelRecordTimeout s = .next (s.setPl { s.pl with inbound := [] })
    ∧ (∀ bytes rest, panelRead s.pl.inbound bytes = ([], rest) →
        exec (.panelRecordDiscarded bytes) s = .next (s.setPl { s.pl with inbound := rest }))
    ∧ (s.pl.inbound = [] → ∀ kind len : Byte,
        (kind.toNat, len.toNat) ∉ [(1, 11), (2, 2), (3, 1), (4, 0)] →
        exec (.panelRecordDiscarded [126#8, kind, len]) s = .next s
        ∧ exec (.panelRecordDiscarded [126#8, kind, len, 126#8, 4#8, 0#8]) s = exec .benchReset s
        ∧ exec (.panelRecordDiscarded [126#8, kind, len, 126#8, 3#8, 1#8, 1#8]) s = exec .stopAsserted s))
  ∧ (∀ s : State, s.pl.buffer.length < 16 → s.pl.anyOwed = false →
    (∀ code p u v, (s.report code p u v).pl.buffer = s.pl.buffer ++ [.report code p u v])
    ∧ (∀ p r, s.put p = some r → r.kind = .put →
      (∀ (q : Quad) (i c : Nat), [q.c0, q.c1, q.c2, q.c3][i]? = some c → 6000 ≤ c →
        (∀ d ∈ [q.c0, q.c1, q.c2, q.c3].take i, d < 6000) →
        .report 1 (some p) (some r.unit) i ∈ (s.judgeResult p r q).pl.buffer)
      ∧ (∀ delta : Int, delta ≤ -5 →
        .report 4 (some p) (some r.unit) delta.natAbs ∈ (s.judge p r delta).pl.buffer)
      ∧ (∀ delta : Int, -5 < delta → r.tolerance < (delta - r.expected).natAbs →
        .report 5 (some p) (some r.unit) (delta - r.expected).natAbs ∈ (s.judge p r delta).pl.buffer)
      ∧ (s.hc.stopped = false → (s.build p).state ≠ .held → r.phase ≠ .settled → r.phase ≠ .faulted →
        r.limitLeft = 0 →
        ∃ t, exec (.putTimeout p) s = .next t ∧ .report 6 (some p) (some r.unit) 90 ∈ t.pl.buffer))
    ∧ (∀ p r, s.put p = some r → r.kind = .removal .unload →
      (∀ (q : Quad) (i c : Nat), [q.c0, q.c1, q.c2, q.c3][i]? = some c → 6000 ≤ c →
        (∀ d ∈ [q.c0, q.c1, q.c2, q.c3].take i, d < 6000) →
        .report 1 (some p) (some r.unit) i ∈ (s.judgeResult p r q).pl.buffer)
      ∧ (∀ delta : Int, (r.tolerance < (delta - r.expected).natAbs ∨ 0 < delta) →
        .report 5 (some p) (some r.unit) (delta - r.expected).natAbs ∈ (s.judge p r delta).pl.buffer))
    ∧ (∀ n p x, s.su.slotOf n = none → s.expiringBuild n = some p → s.putPending p = false →
      (s.build p).state ≠ .unloading →
      ((s.build p).state = .held → ∀ h, s.hold p = some h → h.saved ≠ .unloading) →
      (s.build p).content.find? (fun y => decide (y.unit.number = n)) = some x →
      ∃ t, exec (.chillExpiry n) s = .next t
        ∧ .report 2 (some p) (some n) (x.unit.exposure.getD 0) ∈ t.pl.buffer)
    ∧ (∀ h o k n p u, s.handOver .prior = some (h, u) → Frame.ofBody h.kind h.body = some (.prior o k) →
      k ≠ s.jc.station → s.notice? o = some n → n.state = .mine p →
      (s.build p).state ≠ .sealed → (s.build p).state ≠ .unloading →
      ((s.build p).state = .held → ∀ h, s.hold p = some h → h.saved ≠ .unloading) →
      ((s.build p).content ≠ [] ∨ s.putPending p = true) →
      ∃ t, exec .prior s = .next t ∧ .report 3 (some p) none k.toNat ∈ t.pl.buffer)
    ∧ (∀ h o n p u fl tot w, s.handOver .done = some (h, u) →
      Frame.ofBody h.kind h.body = some (.done o fl tot w) → h.sender ≠ s.jc.station →
      s.notice? o = some n → n.state = .mine p → (s.build p).state ≠ .sealed →
      ∃ t, exec .done s = .next t ∧ .report 3 (some p) none h.sender.toNat ∈ t.pl.buffer)
    ∧ (∀ p u (w : Int), .report 7 (some p) (some u) 0 ∈ (s.planFull p (.place u)).pl.buffer
      ∧ .report 7 (some p) none w.toNat ∈ (s.planFull p (.weight w)).pl.buffer)
    ∧ (∀ p, (s.build p).state = .gathering → (s.build p).gatherLeft = some 0 → (s.build p).content ≠ [] →
      ∃ t, exec (.gatherLimitExpiry p) s = .next t
        ∧ .report 14 (some p) none ((s.build p).lines.map (·.uncovered)).sum ∈ t.pl.buffer)
    ∧ (s.pl.buffer = [] →
      (∀ (p : Pos) (i : NoticeInfo) (resumed : List Cause) (T S X Y : Nat) (w : Int), s.infoOf p = some i →
        X = ((s.build p).lines.map (fun l => l.item.quantity * l.item.value)).sum →
        Y = ((s.build p).content.map (·.value)).sum → w = ((s.build p).content.map (·.weight)).sum →
        T = min X 16777215 → S = min Y 16777215 →
        ((if (i.tray.limit : Int) < w then
            [PanelOut.report 8 (some p) none (w - i.tray.limit).toNat] else [])
          ++ (if s.jc.setup.holdMask.clamped = true ∧ Cause.clamped ∉ resumed
                ∧ (16777215 < X ∨ 16777215 < Y) then
              [.report 10 (some p) none 16777215] else [])
          ++ (if s.jc.setup.holdMask.bandLow = true ∧ Cause.bandLow ∉ resumed
                ∧ 100 * S < T * (100 - min i.down 50) then
              [.report 11 (some p) none ((T * (100 - min i.down 50) + 99) / 100 - S)] else [])
          ++ (if s.jc.setup.holdMask.bandHigh = true ∧ Cause.bandHigh ∉ resumed
                ∧ T * (100 + min i.up 50) < 100 * S then
              [.report 12 (some p) none (S - T * (100 + min i.up 50) / 100)] else []))
          <+: (s.runCheck p resumed).pl.buffer)
      ∧ (∀ (p : Pos) (u : UnitNo) (v : Valued) (index : Nat) (mask : CauseSet),
        ((if (v.causes.invalid && mask.invalid) = true then
            [PanelOut.report 9 (some p) (some u) v.value] else [])
          ++ (if (v.causes.clamped && mask.clamped) = true then
              [.report 10 (some p) (some u) v.value] else [])
          ++ (if (v.causes.inexact && mask.inexact) = true then
              [.report 13 (some p) (some u) v.value] else []))
          <+: (s.raiseAt p .putting index (valuationCauses mask u v)).pl.buffer))
    ∧ (∀ raw,
      (∀ field, checkLabel raw = .error field →
        (∃ t, exec (.intakeScan raw) s = .next t ∧ .report 39 none none field ∈ t.pl.buffer)
        ∧ ∃ t, exec (.chuteScan raw) s = .next t ∧ .report 39 none none field ∈ t.pl.buffer)
      ∧ (∀ l, checkLabel raw = .ok l →
        (s.su.lowestEmpty = none →
          ∃ t, exec (.intakeScan raw) s = .next t ∧ .report 32 none none l.code.word ∈ t.pl.buffer)
        ∧ (s.chuteChoice l.code = none →
          ∃ t, exec (.chuteScan raw) s = .next t ∧ .report 37 none none l.code.word ∈ t.pl.buffer)))
    ∧ (∀ p, ∀ x ∈ [(Instr.confirm p, 1), (.reject p, 2), (.resume p, 3), (.undo p, 4), (.abandon p, 5)],
        s.RefusesKey p x.2 → ∃ t, exec x.1 s = .next t ∧ .report 37 (some p) none x.2 ∈ t.pl.buffer)
    ∧ (∀ k n e, s.expectedTag k n = some e → 180 ≤ e.clock →
      ∃ t, exec (.transferLimit k n) s = .next t
        ∧ .report 33 (e.link.map (·.p)) none e.remaining ∈ t.pl.buffer)
    ∧ (∀ h k n c es u, s.handOver .grant = some (h, u) →
      Frame.ofBody h.kind h.body = some (.grant k n c es) → h.own = false → k = s.jc.station →
      s.jc.state ≠ .joining → es ≠ [] → es.length ≤ 4 →
      (∀ e, s.expectedTag h.sender n = some e → ∃ t, exec .grant s = .next t
        ∧ .report 33 (e.link.map (·.p)) none e.remaining ∈ t.pl.buffer)
      ∧ (s.expectedTag h.sender n = none → 8 ≤ s.xu.expected.length → ∃ t, exec .grant s = .next t
        ∧ .report 33 ((s.answered h.sender c).map (·.line.p)) none es.length ∈ t.pl.buffer))
    ∧ (∀ n o, s.Bounded → s.PanelTrue → s.xu.outbound.find? (fun x => decide (x.seq = n)) = some o →
      210 ≤ o.time → (∀ i, s.su.slot i ≠ .empty (some n)) →
      ∃ t, exec (.writeOff n) s = .next t ∧ .report 34 none none o.units.length ∈ t.pl.buffer)
    ∧ (∀ bytes h, readFrame bytes = some h → h.kind.cls ≠ 0 →
      (11 ≤ s.lp.received13 ∨ 12 ≤ s.lp.received) →
      ∃ t, exec (.frameReceive bytes) s = .next t ∧ .report 35 none none h.kind.code.toNat ∈ t.pl.buffer)
    ∧ ((∀ p, (s.build p).state ≠ .claiming) → s.jc.state ≠ .isolated →
      (∀ x, s.lp.started = some x → 2 ≤ s.lp.faults →
        ∃ t, exec .contentionFault s = .next t ∧ .report 36 none none 1 ∈ t.pl.buffer)
      ∧ (∀ h fresh n u, s.handOver .roll = some (h, u) →
        Frame.ofBody h.kind h.body = some (.roll fresh n) → h.own = false → h.sender = s.jc.station →
        ∃ t, exec .roll s = .next t ∧ .report 36 none none 2 ∈ t.pl.buffer))
    ∧ (∀ h o u, s.handOver .claim = some (h, u) → Frame.ofBody h.kind h.body = some (.claim o) →
      h.sender ≠ s.jc.station → s.notice? o = none → 32 ≤ s.cu.notices.length →
      (∀ n ∈ s.cu.notices, n.isOthers = false ∧ n.state ≠ .stranded
        ∧ ¬ (n.state = .opened ∧ n.info = none)) →
      ∃ t, exec .claim s = .next t ∧ .report 38 none none 8 ∈ t.pl.buffer))
  ∧ ∀ s : State,
    (∀ (p : Pos) (r : PutRec) (i : Nat) (u : UnitRec) (st : ShelfState) (d : Int) (v : Valued) (t : State),
      s.put p = some r → s.su.slotOf r.unit = some i → s.su.slot i = .occupied u st →
      v = valueUnit s.jc.setup.mode u.label d → s.confirmPut p d = t →
      ((v.causes.invalid && s.jc.setup.holdMask.invalid) = true → t.Told 9 (some p) (some u.number) v.value)
      ∧ ((v.causes.clamped && s.jc.setup.holdMask.clamped) = true → t.Told 10 (some p) (some u.number) v.value)
      ∧ ((v.causes.inexact && s.jc.setup.holdMask.inexact) = true → t.Told 13 (some p) (some u.number) v.value)
      ∧ ∀ n ∈ r.expiries, ∀ x, (s.build p).content.find? (fun y => decide (y.unit.number = n)) = some x →
          t.Told 2 (some p) (some n) (x.unit.exposure.getD 0))
    ∧ (∀ p r, s.put p = some r → ∀ n ∈ r.expiries, n ≠ r.unit → ∀ x,
      (s.build p).content.find? (fun y => decide (y.unit.number = n)) = some x →
      (s.rejectPut p r).Told 2 (some p) (some n) (x.unit.exposure.getD 0))
    ∧ (∀ n o, s.xu.outbound.find? (fun x => decide (x.seq = n)) = some o → 210 ≤ o.time →
      ∃ t, exec (.writeOff n) s = .next t ∧ t.Told 34 none none o.units.length)
    ∧ (∀ h k n q o u, s.handOver .taken = some (h, u) → Frame.ofBody h.kind h.body = some (.taken k n q) →
      h.own = false → k = s.jc.station → s.jc.state ≠ .joining →
      s.xu.outbound.find? (fun x => decide (x.seq = n) && decide (x.dest = h.sender)) = some o →
      q.toNat < o.units.length →
      ∃ t, exec .taken s = .next t ∧ t.Told 34 none none (o.units.length - q.toNat))
    ∧ (s.jc.state ≠ .isolated →
      (∀ x, s.lp.started = some x → 2 ≤ s.lp.faults →
        ∃ t, exec .contentionFault s = .next t ∧ t.Told 36 none none 1)
      ∧ (∀ h fresh n u, s.handOver .roll = some (h, u) →
        Frame.ofBody h.kind h.body = some (.roll fresh n) → h.own = false → h.sender = s.jc.station →
        ∃ t, exec .roll s = .next t ∧ t.Told 36 none none 2))
end

