-- ==== Sys2Proof/Laws/State.lean ====
section
/-! SUPPORT. One lemma for each field under each update of the state, and the reads of a position's
record after a write of one. -/

namespace Sys2Proof.Machine

/-! ### Values of the four positions -/

@[simp] theorem PerPos_get_set_same {α : Type} (x : PerPos α) (p : Pos) (v : α) : (x.set p v).get p = v := by
  cases p <;> rfl

theorem PerPos_get_set_other {α : Type} (x : PerPos α) {p q : Pos} (v : α) (h : q ≠ p) :
    (x.set p v).get q = x.get q := by
  cases p <;> cases q <;> first | rfl | exact absurd rfl h

@[simp] theorem PerPos_set_get {α : Type} (x : PerPos α) (p : Pos) : x.set p (x.get p) = x := by
  cases p <;> rfl

@[simp] theorem PerPos_set_set {α : Type} (x : PerPos α) (p : Pos) (v w : α) :
    (x.set p v).set p w = x.set p w := by
  cases p <;> rfl

/-! ### Fields under updates -/

@[simp] theorem State.setJc_jc (s : State) (v : Join) : (s.setJc v).jc = v := rfl
@[simp] theorem State.setJc_hc (s : State) (v : Join) : (s.setJc v).hc = s.hc := rfl
@[simp] theorem State.setJc_lp (s : State) (v : Join) : (s.setJc v).lp = s.lp := rfl
@[simp] theorem State.setJc_cu (s : State) (v : Join) : (s.setJc v).cu = s.cu := rfl
@[simp] theorem State.setJc_su (s : State) (v : Join) : (s.setJc v).su = s.su := rfl
@[simp] theorem State.setJc_be (s : State) (v : Join) : (s.setJc v).be = s.be := rfl
@[simp] theorem State.setJc_claimCounter (s : State) (v : Join) : (s.setJc v).claimCounter = s.claimCounter := rfl
@[simp] theorem State.setJc_wf (s : State) (v : Join) : (s.setJc v).wf = s.wf := rfl
@[simp] theorem State.setJc_pv (s : State) (v : Join) : (s.setJc v).pv = s.pv := rfl
@[simp] theorem State.setJc_vu (s : State) (v : Join) : (s.setJc v).vu = s.vu := rfl
@[simp] theorem State.setJc_xu (s : State) (v : Join) : (s.setJc v).xu = s.xu := rfl
@[simp] theorem State.setJc_pl (s : State) (v : Join) : (s.setJc v).pl = s.pl := rfl
@[simp] theorem State.setJc_pending (s : State) (v : Join) : (s.setJc v).pending = s.pending := rfl

@[simp] theorem State.setHc_jc (s : State) (v : HoldCtl) : (s.setHc v).jc = s.jc := rfl
@[simp] theorem State.setHc_hc (s : State) (v : HoldCtl) : (s.setHc v).hc = v := rfl
@[simp] theorem State.setHc_lp (s : State) (v : HoldCtl) : (s.setHc v).lp = s.lp := rfl
@[simp] theorem State.setHc_cu (s : State) (v : HoldCtl) : (s.setHc v).cu = s.cu := rfl
@[simp] theorem State.setHc_su (s : State) (v : HoldCtl) : (s.setHc v).su = s.su := rfl
@[simp] theorem State.setHc_be (s : State) (v : HoldCtl) : (s.setHc v).be = s.be := rfl
@[simp] theorem State.setHc_claimCounter (s : State) (v : HoldCtl) : (s.setHc v).claimCounter = s.claimCounter := rfl
@[simp] theorem State.setHc_wf (s : State) (v : HoldCtl) : (s.setHc v).wf = s.wf := rfl
@[simp] theorem State.setHc_pv (s : State) (v : HoldCtl) : (s.setHc v).pv = s.pv := rfl
@[simp] theorem State.setHc_vu (s : State) (v : HoldCtl) : (s.setHc v).vu = s.vu := rfl
@[simp] theorem State.setHc_xu (s : State) (v : HoldCtl) : (s.setHc v).xu = s.xu := rfl
@[simp] theorem State.setHc_pl (s : State) (v : HoldCtl) : (s.setHc v).pl = s.pl := rfl
@[simp] theorem State.setHc_pending (s : State) (v : HoldCtl) : (s.setHc v).pending = s.pending := rfl

@[simp] theorem State.setLp_jc (s : State) (v : LinePort) : (s.setLp v).jc = s.jc := rfl
@[simp] theorem State.setLp_hc (s : State) (v : LinePort) : (s.setLp v).hc = s.hc := rfl
@[simp] theorem State.setLp_lp (s : State) (v : LinePort) : (s.setLp v).lp = v := rfl
@[simp] theorem State.setLp_cu (s : State) (v : LinePort) : (s.setLp v).cu = s.cu := rfl
@[simp] theorem State.setLp_su (s : State) (v : LinePort) : (s.setLp v).su = s.su := rfl
@[simp] theorem State.setLp_be (s : State) (v : LinePort) : (s.setLp v).be = s.be := rfl
@[simp] theorem State.setLp_claimCounter (s : State) (v : LinePort) : (s.setLp v).claimCounter = s.claimCounter := rfl
@[simp] theorem State.setLp_wf (s : State) (v : LinePort) : (s.setLp v).wf = s.wf := rfl
@[simp] theorem State.setLp_pv (s : State) (v : LinePort) : (s.setLp v).pv = s.pv := rfl
@[simp] theorem State.setLp_vu (s : State) (v : LinePort) : (s.setLp v).vu = s.vu := rfl
@[simp] theorem State.setLp_xu (s : State) (v : LinePort) : (s.setLp v).xu = s.xu := rfl
@[simp] theorem State.setLp_pl (s : State) (v : LinePort) : (s.setLp v).pl = s.pl := rfl
@[simp] theorem State.setLp_pending (s : State) (v : LinePort) : (s.setLp v).pending = s.pending := rfl

@[simp] theorem State.setCu_jc (s : State) (v : ClaimUnit) : (s.setCu v).jc = s.jc := rfl
@[simp] theorem State.setCu_hc (s : State) (v : ClaimUnit) : (s.setCu v).hc = s.hc := rfl
@[simp] theorem State.setCu_lp (s : State) (v : ClaimUnit) : (s.setCu v).lp = s.lp := rfl
@[simp] theorem State.setCu_cu (s : State) (v : ClaimUnit) : (s.setCu v).cu = v := rfl
@[simp] theorem State.setCu_su (s : State) (v : ClaimUnit) : (s.setCu v).su = s.su := rfl
@[simp] theorem State.setCu_be (s : State) (v : ClaimUnit) : (s.setCu v).be = s.be := rfl
@[simp] theorem State.setCu_claimCounter (s : State) (v : ClaimUnit) : (s.setCu v).claimCounter = s.claimCounter := rfl
@[simp] theorem State.setCu_wf (s : State) (v : ClaimUnit) : (s.setCu v).wf = s.wf := rfl
@[simp] theorem State.setCu_pv (s : State) (v : ClaimUnit) : (s.setCu v).pv = s.pv := rfl
@[simp] theorem State.setCu_vu (s : State) (v : ClaimUnit) : (s.setCu v).vu = s.vu := rfl
@[simp] theorem State.setCu_xu (s : State) (v : ClaimUnit) : (s.setCu v).xu = s.xu := rfl
@[simp] theorem State.setCu_pl (s : State) (v : ClaimUnit) : (s.setCu v).pl = s.pl := rfl
@[simp] theorem State.setCu_pending (s : State) (v : ClaimUnit) : (s.setCu v).pending = s.pending := rfl

@[simp] theorem State.setSu_jc (s : State) (v : Stock) : (s.setSu v).jc = s.jc := rfl
@[simp] theorem State.setSu_hc (s : State) (v : Stock) : (s.setSu v).hc = s.hc := rfl
@[simp] theorem State.setSu_lp (s : State) (v : Stock) : (s.setSu v).lp = s.lp := rfl
@[simp] theorem State.setSu_cu (s : State) (v : Stock) : (s.setSu v).cu = s.cu := rfl
@[simp] theorem State.setSu_su (s : State) (v : Stock) : (s.setSu v).su = v := rfl
@[simp] theorem State.setSu_be (s : State) (v : Stock) : (s.setSu v).be = s.be := rfl
@[simp] theorem State.setSu_claimCounter (s : State) (v : Stock) : (s.setSu v).claimCounter = s.claimCounter := rfl
@[simp] theorem State.setSu_wf (s : State) (v : Stock) : (s.setSu v).wf = s.wf := rfl
@[simp] theorem State.setSu_pv (s : State) (v : Stock) : (s.setSu v).pv = s.pv := rfl
@[simp] theorem State.setSu_vu (s : State) (v : Stock) : (s.setSu v).vu = s.vu := rfl
@[simp] theorem State.setSu_xu (s : State) (v : Stock) : (s.setSu v).xu = s.xu := rfl
@[simp] theorem State.setSu_pl (s : State) (v : Stock) : (s.setSu v).pl = s.pl := rfl
@[simp] theorem State.setSu_pending (s : State) (v : Stock) : (s.setSu v).pending = s.pending := rfl

@[simp] theorem State.setXu_jc (s : State) (v : Exchange) : (s.setXu v).jc = s.jc := rfl
@[simp] theorem State.setXu_hc (s : State) (v : Exchange) : (s.setXu v).hc = s.hc := rfl
@[simp] theorem State.setXu_lp (s : State) (v : Exchange) : (s.setXu v).lp = s.lp := rfl
@[simp] theorem State.setXu_cu (s : State) (v : Exchange) : (s.setXu v).cu = s.cu := rfl
@[simp] theorem State.setXu_su (s : State) (v : Exchange) : (s.setXu v).su = s.su := rfl
@[simp] theorem State.setXu_be (s : State) (v : Exchange) : (s.setXu v).be = s.be := rfl
@[simp] theorem State.setXu_claimCounter (s : State) (v : Exchange) : (s.setXu v).claimCounter = s.claimCounter := rfl
@[simp] theorem State.setXu_wf (s : State) (v : Exchange) : (s.setXu v).wf = s.wf := rfl
@[simp] theorem State.setXu_pv (s : State) (v : Exchange) : (s.setXu v).pv = s.pv := rfl
@[simp] theorem State.setXu_vu (s : State) (v : Exchange) : (s.setXu v).vu = s.vu := rfl
@[simp] theorem State.setXu_xu (s : State) (v : Exchange) : (s.setXu v).xu = v := rfl
@[simp] theorem State.setXu_pl (s : State) (v : Exchange) : (s.setXu v).pl = s.pl := rfl
@[simp] theorem State.setXu_pending (s : State) (v : Exchange) : (s.setXu v).pending = s.pending := rfl

@[simp] theorem State.setPl_jc (s : State) (v : Panel) : (s.setPl v).jc = s.jc := rfl
@[simp] theorem State.setPl_hc (s : State) (v : Panel) : (s.setPl v).hc = s.hc := rfl
@[simp] theorem State.setPl_lp (s : State) (v : Panel) : (s.setPl v).lp = s.lp := rfl
@[simp] theorem State.setPl_cu (s : State) (v : Panel) : (s.setPl v).cu = s.cu := rfl
@[simp] theorem State.setPl_su (s : State) (v : Panel) : (s.setPl v).su = s.su := rfl
@[simp] theorem State.setPl_be (s : State) (v : Panel) : (s.setPl v).be = s.be := rfl
@[simp] theorem State.setPl_claimCounter (s : State) (v : Panel) : (s.setPl v).claimCounter = s.claimCounter := rfl
@[simp] theorem State.setPl_wf (s : State) (v : Panel) : (s.setPl v).wf = s.wf := rfl
@[simp] theorem State.setPl_pv (s : State) (v : Panel) : (s.setPl v).pv = s.pv := rfl
@[simp] theorem State.setPl_vu (s : State) (v : Panel) : (s.setPl v).vu = s.vu := rfl
@[simp] theorem State.setPl_xu (s : State) (v : Panel) : (s.setPl v).xu = s.xu := rfl
@[simp] theorem State.setPl_pl (s : State) (v : Panel) : (s.setPl v).pl = v := rfl
@[simp] theorem State.setPl_pending (s : State) (v : Panel) : (s.setPl v).pending = s.pending := rfl

@[simp] theorem State.setCounter_jc (s : State) (v : Nat) : (s.setCounter v).jc = s.jc := rfl
@[simp] theorem State.setCounter_hc (s : State) (v : Nat) : (s.setCounter v).hc = s.hc := rfl
@[simp] theorem State.setCounter_lp (s : State) (v : Nat) : (s.setCounter v).lp = s.lp := rfl
@[simp] theorem State.setCounter_cu (s : State) (v : Nat) : (s.setCounter v).cu = s.cu := rfl
@[simp] theorem State.setCounter_su (s : State) (v : Nat) : (s.setCounter v).su = s.su := rfl
@[simp] theorem State.setCounter_be (s : State) (v : Nat) : (s.setCounter v).be = s.be := rfl
@[simp] theorem State.setCounter_claimCounter (s : State) (v : Nat) : (s.setCounter v).claimCounter = v := rfl
@[simp] theorem State.setCounter_wf (s : State) (v : Nat) : (s.setCounter v).wf = s.wf := rfl
@[simp] theorem State.setCounter_pv (s : State) (v : Nat) : (s.setCounter v).pv = s.pv := rfl
@[simp] theorem State.setCounter_vu (s : State) (v : Nat) : (s.setCounter v).vu = s.vu := rfl
@[simp] theorem State.setCounter_xu (s : State) (v : Nat) : (s.setCounter v).xu = s.xu := rfl
@[simp] theorem State.setCounter_pl (s : State) (v : Nat) : (s.setCounter v).pl = s.pl := rfl
@[simp] theorem State.setCounter_pending (s : State) (v : Nat) : (s.setCounter v).pending = s.pending := rfl

@[simp] theorem State.setBuild_jc (s : State) (p : Pos) (v : Build) : (s.setBuild p v).jc = s.jc := rfl
@[simp] theorem State.setBuild_hc (s : State) (p : Pos) (v : Build) : (s.setBuild p v).hc = s.hc := rfl
@[simp] theorem State.setBuild_lp (s : State) (p : Pos) (v : Build) : (s.setBuild p v).lp = s.lp := rfl
@[simp] theorem State.setBuild_cu (s : State) (p : Pos) (v : Build) : (s.setBuild p v).cu = s.cu := rfl
@[simp] theorem State.setBuild_su (s : State) (p : Pos) (v : Build) : (s.setBuild p v).su = s.su := rfl
@[simp] theorem State.setBuild_be (s : State) (p : Pos) (v : Build) : (s.setBuild p v).be = s.be.set p v := rfl
@[simp] theorem State.setBuild_claimCounter (s : State) (p : Pos) (v : Build) : (s.setBuild p v).claimCounter = s.claimCounter := rfl
@[simp] theorem State.setBuild_wf (s : State) (p : Pos) (v : Build) : (s.setBuild p v).wf = s.wf := rfl
@[simp] theorem State.setBuild_pv (s : State) (p : Pos) (v : Build) : (s.setBuild p v).pv = s.pv := rfl
@[simp] theorem State.setBuild_vu (s : State) (p : Pos) (v : Build) : (s.setBuild p v).vu = s.vu := rfl
@[simp] theorem State.setBuild_xu (s : State) (p : Pos) (v : Build) : (s.setBuild p v).xu = s.xu := rfl
@[simp] theorem State.setBuild_pl (s : State) (p : Pos) (v : Build) : (s.setBuild p v).pl = s.pl := rfl
@[simp] theorem State.setBuild_pending (s : State) (p : Pos) (v : Build) : (s.setBuild p v).pending = s.pending := rfl

@[simp] theorem State.setPlatform_jc (s : State) (p : Pos) (v : Platform) : (s.setPlatform p v).jc = s.jc := rfl
@[simp] theorem State.setPlatform_hc (s : State) (p : Pos) (v : Platform) : (s.setPlatform p v).hc = s.hc := rfl
@[simp] theorem State.setPlatform_lp (s : State) (p : Pos) (v : Platform) : (s.setPlatform p v).lp = s.lp := rfl
@[simp] theorem State.setPlatform_cu (s : State) (p : Pos) (v : Platform) : (s.setPlatform p v).cu = s.cu := rfl
@[simp] theorem State.setPlatform_su (s : State) (p : Pos) (v : Platform) : (s.setPlatform p v).su = s.su := rfl
@[simp] theorem State.setPlatform_be (s : State) (p : Pos) (v : Platform) : (s.setPlatform p v).be = s.be := rfl
@[simp] theorem State.setPlatform_claimCounter (s : State) (p : Pos) (v : Platform) : (s.setPlatform p v).claimCounter = s.claimCounter := rfl
@[simp] theorem State.setPlatform_wf (s : State) (p : Pos) (v : Platform) : (s.setPlatform p v).wf = s.wf.set p v := rfl
@[simp] theorem State.setPlatform_pv (s : State) (p : Pos) (v : Platform) : (s.setPlatform p v).pv = s.pv := rfl
@[simp] theorem State.setPlatform_vu (s : State) (p : Pos) (v : Platform) : (s.setPlatform p v).vu = s.vu := rfl
@[simp] theorem State.setPlatform_xu (s : State) (p : Pos) (v : Platform) : (s.setPlatform p v).xu = s.xu := rfl
@[simp] theorem State.setPlatform_pl (s : State) (p : Pos) (v : Platform) : (s.setPlatform p v).pl = s.pl := rfl
@[simp] theorem State.setPlatform_pending (s : State) (p : Pos) (v : Platform) : (s.setPlatform p v).pending = s.pending := rfl

@[simp] theorem State.setPut_jc (s : State) (p : Pos) (v : Option PutRec) : (s.setPut p v).jc = s.jc := rfl
@[simp] theorem State.setPut_hc (s : State) (p : Pos) (v : Option PutRec) : (s.setPut p v).hc = s.hc := rfl
@[simp] theorem State.setPut_lp (s : State) (p : Pos) (v : Option PutRec) : (s.setPut p v).lp = s.lp := rfl
@[simp] theorem State.setPut_cu (s : State) (p : Pos) (v : Option PutRec) : (s.setPut p v).cu = s.cu := rfl
@[simp] theorem State.setPut_su (s : State) (p : Pos) (v : Option PutRec) : (s.setPut p v).su = s.su := rfl
@[simp] theorem State.setPut_be (s : State) (p : Pos) (v : Option PutRec) : (s.setPut p v).be = s.be := rfl
@[simp] theorem State.setPut_claimCounter (s : State) (p : Pos) (v : Option PutRec) : (s.setPut p v).claimCounter = s.claimCounter := rfl
@[simp] theorem State.setPut_wf (s : State) (p : Pos) (v : Option PutRec) : (s.setPut p v).wf = s.wf := rfl
@[simp] theorem State.setPut_pv (s : State) (p : Pos) (v : Option PutRec) : (s.setPut p v).pv = s.pv.set p v := rfl
@[simp] theorem State.setPut_vu (s : State) (p : Pos) (v : Option PutRec) : (s.setPut p v).vu = s.vu := rfl
@[simp] theorem State.setPut_xu (s : State) (p : Pos) (v : Option PutRec) : (s.setPut p v).xu = s.xu := rfl
@[simp] theorem State.setPut_pl (s : State) (p : Pos) (v : Option PutRec) : (s.setPut p v).pl = s.pl := rfl
@[simp] theorem State.setPut_pending (s : State) (p : Pos) (v : Option PutRec) : (s.setPut p v).pending = s.pending := rfl

@[simp] theorem State.setVal_jc (s : State) (p : Pos) (v : Valuation) : (s.setVal p v).jc = s.jc := rfl
@[simp] theorem State.setVal_hc (s : State) (p : Pos) (v : Valuation) : (s.setVal p v).hc = s.hc := rfl
@[simp] theorem State.setVal_lp (s : State) (p : Pos) (v : Valuation) : (s.setVal p v).lp = s.lp := rfl
@[simp] theorem State.setVal_cu (s : State) (p : Pos) (v : Valuation) : (s.setVal p v).cu = s.cu := rfl
@[simp] theorem State.setVal_su (s : State) (p : Pos) (v : Valuation) : (s.setVal p v).su = s.su := rfl
@[simp] theorem State.setVal_be (s : State) (p : Pos) (v : Valuation) : (s.setVal p v).be = s.be := rfl
@[simp] theorem State.setVal_claimCounter (s : State) (p : Pos) (v : Valuation) : (s.setVal p v).claimCounter = s.claimCounter := rfl
@[simp] theorem State.setVal_wf (s : State) (p : Pos) (v : Valuation) : (s.setVal p v).wf = s.wf := rfl
@[simp] theorem State.setVal_pv (s : State) (p : Pos) (v : Valuation) : (s.setVal p v).pv = s.pv := rfl
@[simp] theorem State.setVal_vu (s : State) (p : Pos) (v : Valuation) : (s.setVal p v).vu = s.vu.set p v := rfl
@[simp] theorem State.setVal_xu (s : State) (p : Pos) (v : Valuation) : (s.setVal p v).xu = s.xu := rfl
@[simp] theorem State.setVal_pl (s : State) (p : Pos) (v : Valuation) : (s.setVal p v).pl = s.pl := rfl
@[simp] theorem State.setVal_pending (s : State) (p : Pos) (v : Valuation) : (s.setVal p v).pending = s.pending := rfl

@[simp] theorem State.setHold_jc (s : State) (p : Pos) (v : Option Hold) : (s.setHold p v).jc = s.jc := rfl
@[simp] theorem State.setHold_hc (s : State) (p : Pos) (v : Option Hold) : (s.setHold p v).hc = { s.hc with holds := s.hc.holds.set p v } := rfl
@[simp] theorem State.setHold_lp (s : State) (p : Pos) (v : Option Hold) : (s.setHold p v).lp = s.lp := rfl
@[simp] theorem State.setHold_cu (s : State) (p : Pos) (v : Option Hold) : (s.setHold p v).cu = s.cu := rfl
@[simp] theorem State.setHold_su (s : State) (p : Pos) (v : Option Hold) : (s.setHold p v).su = s.su := rfl
@[simp] theorem State.setHold_be (s : State) (p : Pos) (v : Option Hold) : (s.setHold p v).be = s.be := rfl
@[simp] theorem State.setHold_claimCounter (s : State) (p : Pos) (v : Option Hold) : (s.setHold p v).claimCounter = s.claimCounter := rfl
@[simp] theorem State.setHold_wf (s : State) (p : Pos) (v : Option Hold) : (s.setHold p v).wf = s.wf := rfl
@[simp] theorem State.setHold_pv (s : State) (p : Pos) (v : Option Hold) : (s.setHold p v).pv = s.pv := rfl
@[simp] theorem State.setHold_vu (s : State) (p : Pos) (v : Option Hold) : (s.setHold p v).vu = s.vu := rfl
@[simp] theorem State.setHold_xu (s : State) (p : Pos) (v : Option Hold) : (s.setHold p v).xu = s.xu := rfl
@[simp] theorem State.setHold_pl (s : State) (p : Pos) (v : Option Hold) : (s.setHold p v).pl = s.pl := rfl
@[simp] theorem State.setHold_pending (s : State) (p : Pos) (v : Option Hold) : (s.setHold p v).pending = s.pending := rfl

/-! ### Records under updates -/

@[simp] theorem State.setBuild_build_same (s : State) (p : Pos) (v : Build) : (s.setBuild p v).build p = v := by
  simp [State.build]

theorem State.setBuild_build_other (s : State) {p q : Pos} (v : Build) (h : q ≠ p) :
    (s.setBuild p v).build q = s.build q := by
  simp [State.build, PerPos_get_set_other _ _ h]

@[simp] theorem State.setPut_put_same (s : State) (p : Pos) (v : Option PutRec) : (s.setPut p v).put p = v := by
  simp [State.put]

theorem State.setPut_put_other (s : State) {p q : Pos} (v : Option PutRec) (h : q ≠ p) :
    (s.setPut p v).put q = s.put q := by
  simp [State.put, PerPos_get_set_other _ _ h]

@[simp] theorem State.setHold_hold_same (s : State) (p : Pos) (v : Option Hold) : (s.setHold p v).hold p = v := by
  simp [State.hold]

theorem State.setHold_hold_other (s : State) {p q : Pos} (v : Option Hold) (h : q ≠ p) :
    (s.setHold p v).hold q = s.hold q := by
  simp [State.hold, PerPos_get_set_other _ _ h]

@[simp] theorem State.setJc_build (s : State) (v : Join) (q : Pos) : (s.setJc v).build q = s.build q := rfl
@[simp] theorem State.setJc_put (s : State) (v : Join) (q : Pos) : (s.setJc v).put q = s.put q := rfl
@[simp] theorem State.setJc_hold (s : State) (v : Join) (q : Pos) : (s.setJc v).hold q = s.hold q := rfl
@[simp] theorem State.setHc_build (s : State) (v : HoldCtl) (q : Pos) : (s.setHc v).build q = s.build q := rfl
@[simp] theorem State.setHc_put (s : State) (v : HoldCtl) (q : Pos) : (s.setHc v).put q = s.put q := rfl
@[simp] theorem State.setLp_build (s : State) (v : LinePort) (q : Pos) : (s.setLp v).build q = s.build q := rfl
@[simp] theorem State.setLp_put (s : State) (v : LinePort) (q : Pos) : (s.setLp v).put q = s.put q := rfl
@[simp] theorem State.setLp_hold (s : State) (v : LinePort) (q : Pos) : (s.setLp v).hold q = s.hold q := rfl
@[simp] theorem State.setCu_build (s : State) (v : ClaimUnit) (q : Pos) : (s.setCu v).build q = s.build q := rfl
@[simp] theorem State.setCu_put (s : State) (v : ClaimUnit) (q : Pos) : (s.setCu v).put q = s.put q := rfl
@[simp] theorem State.setCu_hold (s : State) (v : ClaimUnit) (q : Pos) : (s.setCu v).hold q = s.hold q := rfl
@[simp] theorem State.setSu_build (s : State) (v : Stock) (q : Pos) : (s.setSu v).build q = s.build q := rfl
@[simp] theorem State.setSu_put (s : State) (v : Stock) (q : Pos) : (s.setSu v).put q = s.put q := rfl
@[simp] theorem State.setSu_hold (s : State) (v : Stock) (q : Pos) : (s.setSu v).hold q = s.hold q := rfl
@[simp] theorem State.setXu_build (s : State) (v : Exchange) (q : Pos) : (s.setXu v).build q = s.build q := rfl
@[simp] theorem State.setXu_put (s : State) (v : Exchange) (q : Pos) : (s.setXu v).put q = s.put q := rfl
@[simp] theorem State.setXu_hold (s : State) (v : Exchange) (q : Pos) : (s.setXu v).hold q = s.hold q := rfl
@[simp] theorem State.setPl_build (s : State) (v : Panel) (q : Pos) : (s.setPl v).build q = s.build q := rfl
@[simp] theorem State.setPl_put (s : State) (v : Panel) (q : Pos) : (s.setPl v).put q = s.put q := rfl
@[simp] theorem State.setPl_hold (s : State) (v : Panel) (q : Pos) : (s.setPl v).hold q = s.hold q := rfl
@[simp] theorem State.setCounter_build (s : State) (v : Nat) (q : Pos) : (s.setCounter v).build q = s.build q := rfl
@[simp] theorem State.setCounter_put (s : State) (v : Nat) (q : Pos) : (s.setCounter v).put q = s.put q := rfl
@[simp] theorem State.setCounter_hold (s : State) (v : Nat) (q : Pos) : (s.setCounter v).hold q = s.hold q := rfl
@[simp] theorem State.setBuild_put (s : State) (p : Pos) (v : Build) (q : Pos) : (s.setBuild p v).put q = s.put q := rfl
@[simp] theorem State.setBuild_hold (s : State) (p : Pos) (v : Build) (q : Pos) : (s.setBuild p v).hold q = s.hold q := rfl
@[simp] theorem State.setPlatform_build (s : State) (p : Pos) (v : Platform) (q : Pos) : (s.setPlatform p v).build q = s.build q := rfl
@[simp] theorem State.setPlatform_put (s : State) (p : Pos) (v : Platform) (q : Pos) : (s.setPlatform p v).put q = s.put q := rfl
@[simp] theorem State.setPlatform_hold (s : State) (p : Pos) (v : Platform) (q : Pos) : (s.setPlatform p v).hold q = s.hold q := rfl
@[simp] theorem State.setPut_build (s : State) (p : Pos) (v : Option PutRec) (q : Pos) : (s.setPut p v).build q = s.build q := rfl
@[simp] theorem State.setPut_hold (s : State) (p : Pos) (v : Option PutRec) (q : Pos) : (s.setPut p v).hold q = s.hold q := rfl
@[simp] theorem State.setVal_build (s : State) (p : Pos) (v : Valuation) (q : Pos) : (s.setVal p v).build q = s.build q := rfl
@[simp] theorem State.setVal_put (s : State) (p : Pos) (v : Valuation) (q : Pos) : (s.setVal p v).put q = s.put q := rfl
@[simp] theorem State.setVal_hold (s : State) (p : Pos) (v : Valuation) (q : Pos) : (s.setVal p v).hold q = s.hold q := rfl
@[simp] theorem State.setHold_build (s : State) (p : Pos) (v : Option Hold) (q : Pos) : (s.setHold p v).build q = s.build q := rfl
@[simp] theorem State.setHold_put (s : State) (p : Pos) (v : Option Hold) (q : Pos) : (s.setHold p v).put q = s.put q := rfl

end Sys2Proof.Machine
end

