-- ==== Sys2Proof/Laws/Panel.lean ====
section
/-! SUPPORT. What is sent to the panel changes the panel link's record alone. -/

namespace Sys2Proof.Machine

@[simp] theorem State.setPl_setPl (s : State) (v w : Panel) : (s.setPl v).setPl w = s.setPl w := rfl

@[simp] theorem State.setPl_self (s : State) : s.setPl s.pl = s := rfl

theorem State.showPosition_only_pl (s : State) (p : Pos) : ∃ v, s.showPosition p = s.setPl v := by
  unfold State.showPosition
  split
  · exact ⟨_, rfl⟩
  · exact ⟨s.pl, rfl⟩

theorem foldl_showPosition_only_pl (ps : List Pos) (s : State) :
    ∃ v, ps.foldl State.showPosition s = s.setPl v := by
  induction ps generalizing s with
  | nil => exact ⟨s.pl, rfl⟩
  | cons p ps ih =>
    obtain ⟨v, hv⟩ := State.showPosition_only_pl s p
    obtain ⟨w, hw⟩ := ih (s.showPosition p)
    exact ⟨w, by rw [List.foldl_cons, hw, hv, State.setPl_setPl]⟩

theorem State.flush_only_pl (s : State) : ∃ v, s.flush = s.setPl v := by
  unfold State.flush
  dsimp only
  obtain ⟨v, hv⟩ := foldl_showPosition_only_pl Pos.all s
  rw [hv]
  exact ⟨_, State.setPl_setPl ..⟩

theorem State.showShelf_only_pl (s : State) : ∃ v, s.showShelf = s.setPl v := ⟨_, rfl⟩

theorem State.showTray_only_pl (s : State) (p : Pos) : ∃ v, s.showTray p = s.setPl v := by
  unfold State.showTray
  split
  · exact ⟨_, rfl⟩
  · exact ⟨s.pl, rfl⟩

theorem State.showPositionLamp_only_pl (s : State) (p : Pos) :
    ∃ v, s.showPositionLamp p = s.setPl v := by
  unfold State.showPositionLamp
  split
  · exact ⟨_, rfl⟩
  · exact ⟨s.pl, rfl⟩

theorem State.showBuild_only_pl (s : State) (p : Pos) : ∃ v, s.showBuild p = s.setPl v := by
  unfold State.showBuild
  obtain ⟨v, hv⟩ := State.showPosition_only_pl s p
  obtain ⟨w, hw⟩ := State.showPositionLamp_only_pl (s.showPosition p) p
  exact ⟨w, by rw [hw, hv, State.setPl_setPl]⟩

theorem State.report_only_pl (s : State) (code : Nat) (p : Option Pos) (u : Option UnitNo) (v : Nat) :
    ∃ w, s.report code p u v = s.setPl w := ⟨_, rfl⟩

theorem State.benchReport_only_pl (s : State) (r : BenchReport) (p : Option Pos) (v : Nat) :
    ∃ w, s.benchReport r p v = s.setPl w :=
  State.report_only_pl ..

@[simp] theorem State.showPosition_jc (s : State) (p : Pos) : (s.showPosition p).jc = s.jc := by
  obtain ⟨_, h⟩ := State.showPosition_only_pl s p
  rw [h]; rfl

@[simp] theorem State.showPosition_hc (s : State) (p : Pos) : (s.showPosition p).hc = s.hc := by
  obtain ⟨_, h⟩ := State.showPosition_only_pl s p
  rw [h]; rfl

@[simp] theorem State.showPosition_lp (s : State) (p : Pos) : (s.showPosition p).lp = s.lp := by
  obtain ⟨_, h⟩ := State.showPosition_only_pl s p
  rw [h]; rfl

@[simp] theorem State.showPosition_cu (s : State) (p : Pos) : (s.showPosition p).cu = s.cu := by
  obtain ⟨_, h⟩ := State.showPosition_only_pl s p
  rw [h]; rfl

@[simp] theorem State.showPosition_su (s : State) (p : Pos) : (s.showPosition p).su = s.su := by
  obtain ⟨_, h⟩ := State.showPosition_only_pl s p
  rw [h]; rfl

@[simp] theorem State.showPosition_be (s : State) (p : Pos) : (s.showPosition p).be = s.be := by
  obtain ⟨_, h⟩ := State.showPosition_only_pl s p
  rw [h]; rfl

@[simp] theorem State.showPosition_claimCounter (s : State) (p : Pos) : (s.showPosition p).claimCounter = s.claimCounter := by
  obtain ⟨_, h⟩ := State.showPosition_only_pl s p
  rw [h]; rfl

@[simp] theorem State.showPosition_wf (s : State) (p : Pos) : (s.showPosition p).wf = s.wf := by
  obtain ⟨_, h⟩ := State.showPosition_only_pl s p
  rw [h]; rfl

@[simp] theorem State.showPosition_pv (s : State) (p : Pos) : (s.showPosition p).pv = s.pv := by
  obtain ⟨_, h⟩ := State.showPosition_only_pl s p
  rw [h]; rfl

@[simp] theorem State.showPosition_vu (s : State) (p : Pos) : (s.showPosition p).vu = s.vu := by
  obtain ⟨_, h⟩ := State.showPosition_only_pl s p
  rw [h]; rfl

@[simp] theorem State.showPosition_xu (s : State) (p : Pos) : (s.showPosition p).xu = s.xu := by
  obtain ⟨_, h⟩ := State.showPosition_only_pl s p
  rw [h]; rfl

@[simp] theorem State.showPosition_pending (s : State) (p : Pos) : (s.showPosition p).pending = s.pending := by
  obtain ⟨_, h⟩ := State.showPosition_only_pl s p
  rw [h]; rfl

@[simp] theorem State.showPosition_build (s : State) (p : Pos) (q : Pos) : (s.showPosition p).build q = s.build q := by
  obtain ⟨_, h⟩ := State.showPosition_only_pl s p
  rw [h]; rfl

@[simp] theorem State.showPosition_put (s : State) (p : Pos) (q : Pos) : (s.showPosition p).put q = s.put q := by
  obtain ⟨_, h⟩ := State.showPosition_only_pl s p
  rw [h]; rfl

@[simp] theorem State.showPosition_hold (s : State) (p : Pos) (q : Pos) : (s.showPosition p).hold q = s.hold q := by
  obtain ⟨_, h⟩ := State.showPosition_only_pl s p
  rw [h]; rfl

@[simp] theorem State.showPosition_setPl (s : State) (p : Pos) (w : Panel) : (s.showPosition p).setPl w = s.setPl w := by
  obtain ⟨_, h⟩ := State.showPosition_only_pl s p
  rw [h]; rfl

@[simp] theorem State.flush_jc (s : State) : (s.flush).jc = s.jc := by
  obtain ⟨_, h⟩ := State.flush_only_pl s
  rw [h]; rfl

@[simp] theorem State.flush_hc (s : State) : (s.flush).hc = s.hc := by
  obtain ⟨_, h⟩ := State.flush_only_pl s
  rw [h]; rfl

@[simp] theorem State.flush_lp (s : State) : (s.flush).lp = s.lp := by
  obtain ⟨_, h⟩ := State.flush_only_pl s
  rw [h]; rfl

@[simp] theorem State.flush_cu (s : State) : (s.flush).cu = s.cu := by
  obtain ⟨_, h⟩ := State.flush_only_pl s
  rw [h]; rfl

@[simp] theorem State.flush_su (s : State) : (s.flush).su = s.su := by
  obtain ⟨_, h⟩ := State.flush_only_pl s
  rw [h]; rfl

@[simp] theorem State.flush_be (s : State) : (s.flush).be = s.be := by
  obtain ⟨_, h⟩ := State.flush_only_pl s
  rw [h]; rfl

@[simp] theorem State.flush_claimCounter (s : State) : (s.flush).claimCounter = s.claimCounter := by
  obtain ⟨_, h⟩ := State.flush_only_pl s
  rw [h]; rfl

@[simp] theorem State.flush_wf (s : State) : (s.flush).wf = s.wf := by
  obtain ⟨_, h⟩ := State.flush_only_pl s
  rw [h]; rfl

@[simp] theorem State.flush_pv (s : State) : (s.flush).pv = s.pv := by
  obtain ⟨_, h⟩ := State.flush_only_pl s
  rw [h]; rfl

@[simp] theorem State.flush_vu (s : State) : (s.flush).vu = s.vu := by
  obtain ⟨_, h⟩ := State.flush_only_pl s
  rw [h]; rfl

@[simp] theorem State.flush_xu (s : State) : (s.flush).xu = s.xu := by
  obtain ⟨_, h⟩ := State.flush_only_pl s
  rw [h]; rfl

@[simp] theorem State.flush_pending (s : State) : (s.flush).pending = s.pending := by
  obtain ⟨_, h⟩ := State.flush_only_pl s
  rw [h]; rfl

@[simp] theorem State.flush_build (s : State) (q : Pos) : (s.flush).build q = s.build q := by
  obtain ⟨_, h⟩ := State.flush_only_pl s
  rw [h]; rfl

@[simp] theorem State.flush_put (s : State) (q : Pos) : (s.flush).put q = s.put q := by
  obtain ⟨_, h⟩ := State.flush_only_pl s
  rw [h]; rfl

@[simp] theorem State.flush_hold (s : State) (q : Pos) : (s.flush).hold q = s.hold q := by
  obtain ⟨_, h⟩ := State.flush_only_pl s
  rw [h]; rfl

@[simp] theorem State.flush_setPl (s : State) (w : Panel) : (s.flush).setPl w = s.setPl w := by
  obtain ⟨_, h⟩ := State.flush_only_pl s
  rw [h]; rfl

@[simp] theorem State.showShelf_jc (s : State) : (s.showShelf).jc = s.jc := by
  obtain ⟨_, h⟩ := State.showShelf_only_pl s
  rw [h]; rfl

@[simp] theorem State.showShelf_hc (s : State) : (s.showShelf).hc = s.hc := by
  obtain ⟨_, h⟩ := State.showShelf_only_pl s
  rw [h]; rfl

@[simp] theorem State.showShelf_lp (s : State) : (s.showShelf).lp = s.lp := by
  obtain ⟨_, h⟩ := State.showShelf_only_pl s
  rw [h]; rfl

@[simp] theorem State.showShelf_cu (s : State) : (s.showShelf).cu = s.cu := by
  obtain ⟨_, h⟩ := State.showShelf_only_pl s
  rw [h]; rfl

@[simp] theorem State.showShelf_su (s : State) : (s.showShelf).su = s.su := by
  obtain ⟨_, h⟩ := State.showShelf_only_pl s
  rw [h]; rfl

@[simp] theorem State.showShelf_be (s : State) : (s.showShelf).be = s.be := by
  obtain ⟨_, h⟩ := State.showShelf_only_pl s
  rw [h]; rfl

@[simp] theorem State.showShelf_claimCounter (s : State) : (s.showShelf).claimCounter = s.claimCounter := by
  obtain ⟨_, h⟩ := State.showShelf_only_pl s
  rw [h]; rfl

@[simp] theorem State.showShelf_wf (s : State) : (s.showShelf).wf = s.wf := by
  obtain ⟨_, h⟩ := State.showShelf_only_pl s
  rw [h]; rfl

@[simp] theorem State.showShelf_pv (s : State) : (s.showShelf).pv = s.pv := by
  obtain ⟨_, h⟩ := State.showShelf_only_pl s
  rw [h]; rfl

@[simp] theorem State.showShelf_vu (s : State) : (s.showShelf).vu = s.vu := by
  obtain ⟨_, h⟩ := State.showShelf_only_pl s
  rw [h]; rfl

@[simp] theorem State.showShelf_xu (s : State) : (s.showShelf).xu = s.xu := by
  obtain ⟨_, h⟩ := State.showShelf_only_pl s
  rw [h]; rfl

@[simp] theorem State.showShelf_pending (s : State) : (s.showShelf).pending = s.pending := by
  obtain ⟨_, h⟩ := State.showShelf_only_pl s
  rw [h]; rfl

@[simp] theorem State.showShelf_build (s : State) (q : Pos) : (s.showShelf).build q = s.build q := by
  obtain ⟨_, h⟩ := State.showShelf_only_pl s
  rw [h]; rfl

@[simp] theorem State.showShelf_put (s : State) (q : Pos) : (s.showShelf).put q = s.put q := by
  obtain ⟨_, h⟩ := State.showShelf_only_pl s
  rw [h]; rfl

@[simp] theorem State.showShelf_hold (s : State) (q : Pos) : (s.showShelf).hold q = s.hold q := by
  obtain ⟨_, h⟩ := State.showShelf_only_pl s
  rw [h]; rfl

@[simp] theorem State.showShelf_setPl (s : State) (w : Panel) : (s.showShelf).setPl w = s.setPl w := by
  obtain ⟨_, h⟩ := State.showShelf_only_pl s
  rw [h]; rfl

@[simp] theorem State.showTray_jc (s : State) (p : Pos) : (s.showTray p).jc = s.jc := by
  obtain ⟨_, h⟩ := State.showTray_only_pl s p
  rw [h]; rfl

@[simp] theorem State.showTray_hc (s : State) (p : Pos) : (s.showTray p).hc = s.hc := by
  obtain ⟨_, h⟩ := State.showTray_only_pl s p
  rw [h]; rfl

@[simp] theorem State.showTray_lp (s : State) (p : Pos) : (s.showTray p).lp = s.lp := by
  obtain ⟨_, h⟩ := State.showTray_only_pl s p
  rw [h]; rfl

@[simp] theorem State.showTray_cu (s : State) (p : Pos) : (s.showTray p).cu = s.cu := by
  obtain ⟨_, h⟩ := State.showTray_only_pl s p
  rw [h]; rfl

@[simp] theorem State.showTray_su (s : State) (p : Pos) : (s.showTray p).su = s.su := by
  obtain ⟨_, h⟩ := State.showTray_only_pl s p
  rw [h]; rfl

@[simp] theorem State.showTray_be (s : State) (p : Pos) : (s.showTray p).be = s.be := by
  obtain ⟨_, h⟩ := State.showTray_only_pl s p
  rw [h]; rfl

@[simp] theorem State.showTray_claimCounter (s : State) (p : Pos) : (s.showTray p).claimCounter = s.claimCounter := by
  obtain ⟨_, h⟩ := State.showTray_only_pl s p
  rw [h]; rfl

@[simp] theorem State.showTray_wf (s : State) (p : Pos) : (s.showTray p).wf = s.wf := by
  obtain ⟨_, h⟩ := State.showTray_only_pl s p
  rw [h]; rfl

@[simp] theorem State.showTray_pv (s : State) (p : Pos) : (s.showTray p).pv = s.pv := by
  obtain ⟨_, h⟩ := State.showTray_only_pl s p
  rw [h]; rfl

@[simp] theorem State.showTray_vu (s : State) (p : Pos) : (s.showTray p).vu = s.vu := by
  obtain ⟨_, h⟩ := State.showTray_only_pl s p
  rw [h]; rfl

@[simp] theorem State.showTray_xu (s : State) (p : Pos) : (s.showTray p).xu = s.xu := by
  obtain ⟨_, h⟩ := State.showTray_only_pl s p
  rw [h]; rfl

@[simp] theorem State.showTray_pending (s : State) (p : Pos) : (s.showTray p).pending = s.pending := by
  obtain ⟨_, h⟩ := State.showTray_only_pl s p
  rw [h]; rfl

@[simp] theorem State.showTray_build (s : State) (p : Pos) (q : Pos) : (s.showTray p).build q = s.build q := by
  obtain ⟨_, h⟩ := State.showTray_only_pl s p
  rw [h]; rfl

@[simp] theorem State.showTray_put (s : State) (p : Pos) (q : Pos) : (s.showTray p).put q = s.put q := by
  obtain ⟨_, h⟩ := State.showTray_only_pl s p
  rw [h]; rfl

@[simp] theorem State.showTray_hold (s : State) (p : Pos) (q : Pos) : (s.showTray p).hold q = s.hold q := by
  obtain ⟨_, h⟩ := State.showTray_only_pl s p
  rw [h]; rfl

@[simp] theorem State.showTray_setPl (s : State) (p : Pos) (w : Panel) : (s.showTray p).setPl w = s.setPl w := by
  obtain ⟨_, h⟩ := State.showTray_only_pl s p
  rw [h]; rfl

@[simp] theorem State.showPositionLamp_jc (s : State) (p : Pos) : (s.showPositionLamp p).jc = s.jc := by
  obtain ⟨_, h⟩ := State.showPositionLamp_only_pl s p
  rw [h]; rfl

@[simp] theorem State.showPositionLamp_hc (s : State) (p : Pos) : (s.showPositionLamp p).hc = s.hc := by
  obtain ⟨_, h⟩ := State.showPositionLamp_only_pl s p
  rw [h]; rfl

@[simp] theorem State.showPositionLamp_lp (s : State) (p : Pos) : (s.showPositionLamp p).lp = s.lp := by
  obtain ⟨_, h⟩ := State.showPositionLamp_only_pl s p
  rw [h]; rfl

@[simp] theorem State.showPositionLamp_cu (s : State) (p : Pos) : (s.showPositionLamp p).cu = s.cu := by
  obtain ⟨_, h⟩ := State.showPositionLamp_only_pl s p
  rw [h]; rfl

@[simp] theorem State.showPositionLamp_su (s : State) (p : Pos) : (s.showPositionLamp p).su = s.su := by
  obtain ⟨_, h⟩ := State.showPositionLamp_only_pl s p
  rw [h]; rfl

@[simp] theorem State.showPositionLamp_be (s : State) (p : Pos) : (s.showPositionLamp p).be = s.be := by
  obtain ⟨_, h⟩ := State.showPositionLamp_only_pl s p
  rw [h]; rfl

@[simp] theorem State.showPositionLamp_claimCounter (s : State) (p : Pos) : (s.showPositionLamp p).claimCounter = s.claimCounter := by
  obtain ⟨_, h⟩ := State.showPositionLamp_only_pl s p
  rw [h]; rfl

@[simp] theorem State.showPositionLamp_wf (s : State) (p : Pos) : (s.showPositionLamp p).wf = s.wf := by
  obtain ⟨_, h⟩ := State.showPositionLamp_only_pl s p
  rw [h]; rfl

@[simp] theorem State.showPositionLamp_pv (s : State) (p : Pos) : (s.showPositionLamp p).pv = s.pv := by
  obtain ⟨_, h⟩ := State.showPositionLamp_only_pl s p
  rw [h]; rfl

@[simp] theorem State.showPositionLamp_vu (s : State) (p : Pos) : (s.showPositionLamp p).vu = s.vu := by
  obtain ⟨_, h⟩ := State.showPositionLamp_only_pl s p
  rw [h]; rfl

@[simp] theorem State.showPositionLamp_xu (s : State) (p : Pos) : (s.showPositionLamp p).xu = s.xu := by
  obtain ⟨_, h⟩ := State.showPositionLamp_only_pl s p
  rw [h]; rfl

@[simp] theorem State.showPositionLamp_pending (s : State) (p : Pos) : (s.showPositionLamp p).pending = s.pending := by
  obtain ⟨_, h⟩ := State.showPositionLamp_only_pl s p
  rw [h]; rfl

@[simp] theorem State.showPositionLamp_build (s : State) (p : Pos) (q : Pos) : (s.showPositionLamp p).build q = s.build q := by
  obtain ⟨_, h⟩ := State.showPositionLamp_only_pl s p
  rw [h]; rfl

@[simp] theorem State.showPositionLamp_put (s : State) (p : Pos) (q : Pos) : (s.showPositionLamp p).put q = s.put q := by
  obtain ⟨_, h⟩ := State.showPositionLamp_only_pl s p
  rw [h]; rfl

@[simp] theorem State.showPositionLamp_hold (s : State) (p : Pos) (q : Pos) : (s.showPositionLamp p).hold q = s.hold q := by
  obtain ⟨_, h⟩ := State.showPositionLamp_only_pl s p
  rw [h]; rfl

@[simp] theorem State.showPositionLamp_setPl (s : State) (p : Pos) (w : Panel) : (s.showPositionLamp p).setPl w = s.setPl w := by
  obtain ⟨_, h⟩ := State.showPositionLamp_only_pl s p
  rw [h]; rfl

@[simp] theorem State.showBuild_jc (s : State) (p : Pos) : (s.showBuild p).jc = s.jc := by
  obtain ⟨_, h⟩ := State.showBuild_only_pl s p
  rw [h]; rfl

@[simp] theorem State.showBuild_hc (s : State) (p : Pos) : (s.showBuild p).hc = s.hc := by
  obtain ⟨_, h⟩ := State.showBuild_only_pl s p
  rw [h]; rfl

@[simp] theorem State.showBuild_lp (s : State) (p : Pos) : (s.showBuild p).lp = s.lp := by
  obtain ⟨_, h⟩ := State.showBuild_only_pl s p
  rw [h]; rfl

@[simp] theorem State.showBuild_cu (s : State) (p : Pos) : (s.showBuild p).cu = s.cu := by
  obtain ⟨_, h⟩ := State.showBuild_only_pl s p
  rw [h]; rfl

@[simp] theorem State.showBuild_su (s : State) (p : Pos) : (s.showBuild p).su = s.su := by
  obtain ⟨_, h⟩ := State.showBuild_only_pl s p
  rw [h]; rfl

@[simp] theorem State.showBuild_be (s : State) (p : Pos) : (s.showBuild p).be = s.be := by
  obtain ⟨_, h⟩ := State.showBuild_only_pl s p
  rw [h]; rfl

@[simp] theorem State.showBuild_claimCounter (s : State) (p : Pos) : (s.showBuild p).claimCounter = s.claimCounter := by
  obtain ⟨_, h⟩ := State.showBuild_only_pl s p
  rw [h]; rfl

@[simp] theorem State.showBuild_wf (s : State) (p : Pos) : (s.showBuild p).wf = s.wf := by
  obtain ⟨_, h⟩ := State.showBuild_only_pl s p
  rw [h]; rfl

@[simp] theorem State.showBuild_pv (s : State) (p : Pos) : (s.showBuild p).pv = s.pv := by
  obtain ⟨_, h⟩ := State.showBuild_only_pl s p
  rw [h]; rfl

@[simp] theorem State.showBuild_vu (s : State) (p : Pos) : (s.showBuild p).vu = s.vu := by
  obtain ⟨_, h⟩ := State.showBuild_only_pl s p
  rw [h]; rfl

@[simp] theorem State.showBuild_xu (s : State) (p : Pos) : (s.showBuild p).xu = s.xu := by
  obtain ⟨_, h⟩ := State.showBuild_only_pl s p
  rw [h]; rfl

@[simp] theorem State.showBuild_pending (s : State) (p : Pos) : (s.showBuild p).pending = s.pending := by
  obtain ⟨_, h⟩ := State.showBuild_only_pl s p
  rw [h]; rfl

@[simp] theorem State.showBuild_build (s : State) (p : Pos) (q : Pos) : (s.showBuild p).build q = s.build q := by
  obtain ⟨_, h⟩ := State.showBuild_only_pl s p
  rw [h]; rfl

@[simp] theorem State.showBuild_put (s : State) (p : Pos) (q : Pos) : (s.showBuild p).put q = s.put q := by
  obtain ⟨_, h⟩ := State.showBuild_only_pl s p
  rw [h]; rfl

@[simp] theorem State.showBuild_hold (s : State) (p : Pos) (q : Pos) : (s.showBuild p).hold q = s.hold q := by
  obtain ⟨_, h⟩ := State.showBuild_only_pl s p
  rw [h]; rfl

@[simp] theorem State.showBuild_setPl (s : State) (p : Pos) (w : Panel) : (s.showBuild p).setPl w = s.setPl w := by
  obtain ⟨_, h⟩ := State.showBuild_only_pl s p
  rw [h]; rfl

@[simp] theorem State.report_jc (s : State) (code : Nat) (p : Option Pos) (u : Option UnitNo) (v : Nat) : (s.report code p u v).jc = s.jc := by
  obtain ⟨_, h⟩ := State.report_only_pl s code p u v
  rw [h]; rfl

@[simp] theorem State.report_hc (s : State) (code : Nat) (p : Option Pos) (u : Option UnitNo) (v : Nat) : (s.report code p u v).hc = s.hc := by
  obtain ⟨_, h⟩ := State.report_only_pl s code p u v
  rw [h]; rfl

@[simp] theorem State.report_lp (s : State) (code : Nat) (p : Option Pos) (u : Option UnitNo) (v : Nat) : (s.report code p u v).lp = s.lp := by
  obtain ⟨_, h⟩ := State.report_only_pl s code p u v
  rw [h]; rfl

@[simp] theorem State.report_cu (s : State) (code : Nat) (p : Option Pos) (u : Option UnitNo) (v : Nat) : (s.report code p u v).cu = s.cu := by
  obtain ⟨_, h⟩ := State.report_only_pl s code p u v
  rw [h]; rfl

@[simp] theorem State.report_su (s : State) (code : Nat) (p : Option Pos) (u : Option UnitNo) (v : Nat) : (s.report code p u v).su = s.su := by
  obtain ⟨_, h⟩ := State.report_only_pl s code p u v
  rw [h]; rfl

@[simp] theorem State.report_be (s : State) (code : Nat) (p : Option Pos) (u : Option UnitNo) (v : Nat) : (s.report code p u v).be = s.be := by
  obtain ⟨_, h⟩ := State.report_only_pl s code p u v
  rw [h]; rfl

@[simp] theorem State.report_claimCounter (s : State) (code : Nat) (p : Option Pos) (u : Option UnitNo) (v : Nat) : (s.report code p u v).claimCounter = s.claimCounter := by
  obtain ⟨_, h⟩ := State.report_only_pl s code p u v
  rw [h]; rfl

@[simp] theorem State.report_wf (s : State) (code : Nat) (p : Option Pos) (u : Option UnitNo) (v : Nat) : (s.report code p u v).wf = s.wf := by
  obtain ⟨_, h⟩ := State.report_only_pl s code p u v
  rw [h]; rfl

@[simp] theorem State.report_pv (s : State) (code : Nat) (p : Option Pos) (u : Option UnitNo) (v : Nat) : (s.report code p u v).pv = s.pv := by
  obtain ⟨_, h⟩ := State.report_only_pl s code p u v
  rw [h]; rfl

@[simp] theorem State.report_vu (s : State) (code : Nat) (p : Option Pos) (u : Option UnitNo) (v : Nat) : (s.report code p u v).vu = s.vu := by
  obtain ⟨_, h⟩ := State.report_only_pl s code p u v
  rw [h]; rfl

@[simp] theorem State.report_xu (s : State) (code : Nat) (p : Option Pos) (u : Option UnitNo) (v : Nat) : (s.report code p u v).xu = s.xu := by
  obtain ⟨_, h⟩ := State.report_only_pl s code p u v
  rw [h]; rfl

@[simp] theorem State.report_pending (s : State) (code : Nat) (p : Option Pos) (u : Option UnitNo) (v : Nat) : (s.report code p u v).pending = s.pending := by
  obtain ⟨_, h⟩ := State.report_only_pl s code p u v
  rw [h]; rfl

@[simp] theorem State.report_build (s : State) (code : Nat) (p : Option Pos) (u : Option UnitNo) (v : Nat) (q : Pos) : (s.report code p u v).build q = s.build q := by
  obtain ⟨_, h⟩ := State.report_only_pl s code p u v
  rw [h]; rfl

@[simp] theorem State.report_put (s : State) (code : Nat) (p : Option Pos) (u : Option UnitNo) (v : Nat) (q : Pos) : (s.report code p u v).put q = s.put q := by
  obtain ⟨_, h⟩ := State.report_only_pl s code p u v
  rw [h]; rfl

@[simp] theorem State.report_hold (s : State) (code : Nat) (p : Option Pos) (u : Option UnitNo) (v : Nat) (q : Pos) : (s.report code p u v).hold q = s.hold q := by
  obtain ⟨_, h⟩ := State.report_only_pl s code p u v
  rw [h]; rfl

@[simp] theorem State.report_setPl (s : State) (code : Nat) (p : Option Pos) (u : Option UnitNo) (v : Nat) (w : Panel) : (s.report code p u v).setPl w = s.setPl w := by
  obtain ⟨_, h⟩ := State.report_only_pl s code p u v
  rw [h]; rfl

@[simp] theorem State.benchReport_jc (s : State) (r : BenchReport) (p : Option Pos) (v : Nat) : (s.benchReport r p v).jc = s.jc := by
  obtain ⟨_, h⟩ := State.benchReport_only_pl s r p v
  rw [h]; rfl

@[simp] theorem State.benchReport_hc (s : State) (r : BenchReport) (p : Option Pos) (v : Nat) : (s.benchReport r p v).hc = s.hc := by
  obtain ⟨_, h⟩ := State.benchReport_only_pl s r p v
  rw [h]; rfl

@[simp] theorem State.benchReport_lp (s : State) (r : BenchReport) (p : Option Pos) (v : Nat) : (s.benchReport r p v).lp = s.lp := by
  obtain ⟨_, h⟩ := State.benchReport_only_pl s r p v
  rw [h]; rfl

@[simp] theorem State.benchReport_cu (s : State) (r : BenchReport) (p : Option Pos) (v : Nat) : (s.benchReport r p v).cu = s.cu := by
  obtain ⟨_, h⟩ := State.benchReport_only_pl s r p v
  rw [h]; rfl

@[simp] theorem State.benchReport_su (s : State) (r : BenchReport) (p : Option Pos) (v : Nat) : (s.benchReport r p v).su = s.su := by
  obtain ⟨_, h⟩ := State.benchReport_only_pl s r p v
  rw [h]; rfl

@[simp] theorem State.benchReport_be (s : State) (r : BenchReport) (p : Option Pos) (v : Nat) : (s.benchReport r p v).be = s.be := by
  obtain ⟨_, h⟩ := State.benchReport_only_pl s r p v
  rw [h]; rfl

@[simp] theorem State.benchReport_claimCounter (s : State) (r : BenchReport) (p : Option Pos) (v : Nat) : (s.benchReport r p v).claimCounter = s.claimCounter := by
  obtain ⟨_, h⟩ := State.benchReport_only_pl s r p v
  rw [h]; rfl

@[simp] theorem State.benchReport_wf (s : State) (r : BenchReport) (p : Option Pos) (v : Nat) : (s.benchReport r p v).wf = s.wf := by
  obtain ⟨_, h⟩ := State.benchReport_only_pl s r p v
  rw [h]; rfl

@[simp] theorem State.benchReport_pv (s : State) (r : BenchReport) (p : Option Pos) (v : Nat) : (s.benchReport r p v).pv = s.pv := by
  obtain ⟨_, h⟩ := State.benchReport_only_pl s r p v
  rw [h]; rfl

@[simp] theorem State.benchReport_vu (s : State) (r : BenchReport) (p : Option Pos) (v : Nat) : (s.benchReport r p v).vu = s.vu := by
  obtain ⟨_, h⟩ := State.benchReport_only_pl s r p v
  rw [h]; rfl

@[simp] theorem State.benchReport_xu (s : State) (r : BenchReport) (p : Option Pos) (v : Nat) : (s.benchReport r p v).xu = s.xu := by
  obtain ⟨_, h⟩ := State.benchReport_only_pl s r p v
  rw [h]; rfl

@[simp] theorem State.benchReport_pending (s : State) (r : BenchReport) (p : Option Pos) (v : Nat) : (s.benchReport r p v).pending = s.pending := by
  obtain ⟨_, h⟩ := State.benchReport_only_pl s r p v
  rw [h]; rfl

@[simp] theorem State.benchReport_build (s : State) (r : BenchReport) (p : Option Pos) (v : Nat) (q : Pos) : (s.benchReport r p v).build q = s.build q := by
  obtain ⟨_, h⟩ := State.benchReport_only_pl s r p v
  rw [h]; rfl

@[simp] theorem State.benchReport_put (s : State) (r : BenchReport) (p : Option Pos) (v : Nat) (q : Pos) : (s.benchReport r p v).put q = s.put q := by
  obtain ⟨_, h⟩ := State.benchReport_only_pl s r p v
  rw [h]; rfl

@[simp] theorem State.benchReport_hold (s : State) (r : BenchReport) (p : Option Pos) (v : Nat) (q : Pos) : (s.benchReport r p v).hold q = s.hold q := by
  obtain ⟨_, h⟩ := State.benchReport_only_pl s r p v
  rw [h]; rfl

@[simp] theorem State.benchReport_setPl (s : State) (r : BenchReport) (p : Option Pos) (v : Nat) (w : Panel) : (s.benchReport r p v).setPl w = s.setPl w := by
  obtain ⟨_, h⟩ := State.benchReport_only_pl s r p v
  rw [h]; rfl

end Sys2Proof.Machine
end

