-- ==== Sys2Proof/Laws/Steady.lean ====
section
/-! SUPPORT. What the shared operations leave alone: the station's values, the platforms' records, the
queue of commands and STOPPED stay as they were, the REPORT records in the panel's buffer stay there, and
every capacity that held still holds. One lemma for each operation, in the form that composes. -/

namespace Sys2Proof.Machine

/-- `y` holds every REPORT record of `x`, and owes the panel something if `x` does. -/
structure Panel.Adds (x y : Panel) : Prop where
  reports : ∀ code p u v, .report code p u v ∈ x.buffer → .report code p u v ∈ y.buffer
  owes : x.anyOwed = true → y.anyOwed = true

theorem Panel.Adds.refl (x : Panel) : x.Adds x := ⟨fun _ _ _ _ => id, id⟩

theorem Panel.Adds.trans {x y z : Panel} (h : x.Adds y) (k : y.Adds z) : x.Adds z :=
  ⟨fun c p u v m => k.reports c p u v (h.reports c p u v m), k.owes ∘ h.owes⟩

/-- `s` differs from `a` in no value of JC or WF, in no waiting command and not in STOPPED; the panel's
buffer keeps its REPORT records, and the capacities that held in `a` hold in `s`. -/
structure Steady (a s : State) : Prop where
  jc : s.jc = a.jc
  wf : s.wf = a.wf
  pending : s.pending = a.pending
  stopped : s.hc.stopped = a.hc.stopped
  localStop : s.hc.localStop = a.hc.localStop
  panel : a.pl.Adds s.pl
  bounded : a.Bounded → s.Bounded

theorem Steady.refl (a : State) : Steady a a := ⟨rfl, rfl, rfl, rfl, rfl, .refl _, id⟩

theorem Steady.trans {a b c : State} (h : Steady a b) (k : Steady b c) : Steady a c :=
  ⟨k.jc.trans h.jc, k.wf.trans h.wf, k.pending.trans h.pending, k.stopped.trans h.stopped,
    k.localStop.trans h.localStop, h.panel.trans k.panel, k.bounded ∘ h.bounded⟩

/-- A fold of steady steps is steady. -/
theorem Steady.foldl {α : Type} {a s : State} (h : Steady a s) (f : State → α → State)
    (hf : ∀ t x, Steady a t → Steady a (f t x)) (xs : List α) : Steady a (xs.foldl f s) := by
  induction xs generalizing s with
  | nil => exact h
  | cons x xs ih => exact ih (hf s x h)

/-! ### Lengths -/

@[simp] theorem updateAt_length {α : Type} (f : α → α) (n : Nat) (xs : List α) :
    (updateAt f n xs).length = xs.length := by
  induction xs generalizing n with
  | nil => cases n <;> rfl
  | cons x xs ih => cases n <;> simp [updateAt, ih]

@[simp] theorem insertBy_length {α : Type} (b : α → α → Bool) (x : α) (xs : List α) :
    (insertBy b x xs).length = xs.length + 1 := by
  induction xs with
  | nil => rfl
  | cons y ys ih => simp only [insertBy]; split <;> simp [ih]

theorem dropFirst_length {α : Type} (test : α → Bool) (xs : List α) (h : xs.any test = true) :
    (dropFirst test xs).length + 1 = xs.length := by
  induction xs with
  | nil => simp at h
  | cons x xs ih =>
    simp only [dropFirst]
    split
    · rfl
    · rename_i hx
      simp only [List.any_cons, hx, Bool.false_or] at h
      simp [ih h]

/-! ### Updates of one block -/

section
variable {a s : State} (h : Steady a s)
include h

theorem Steady.setSu (v : Stock) (hv : v.slots.length = s.su.slots.length) :
    Steady a (s.setSu v) :=
  ⟨h.jc, h.wf, h.pending, h.stopped, h.localStop, h.panel, fun b =>
    { h.bounded b with slots := hv.trans (h.bounded b).slots }⟩

theorem Steady.setCu (v : ClaimUnit) (hn : s.cu.notices.length ≤ 32 → v.notices.length ≤ 32)
    (hw : s.cu.waiting.length ≤ 16 → v.waiting.length ≤ 16) : Steady a (s.setCu v) :=
  ⟨h.jc, h.wf, h.pending, h.stopped, h.localStop, h.panel, fun b =>
    { h.bounded b with
      notices := hn (h.bounded b).notices, claimWaiting := hw (h.bounded b).claimWaiting }⟩

theorem Steady.setHc (v : HoldCtl) (hs : v.stopped = s.hc.stopped)
    (hl : v.localStop = s.hc.localStop) : Steady a (s.setHc v) :=
  ⟨h.jc, h.wf, h.pending, hs.trans h.stopped, hl.trans h.localStop, h.panel, fun b =>
    { h.bounded b with }⟩

theorem Steady.setBuild (p : Pos) (v : Build) : Steady a (s.setBuild p v) :=
  ⟨h.jc, h.wf, h.pending, h.stopped, h.localStop, h.panel, fun b => { h.bounded b with }⟩

theorem Steady.setCounter (v : Nat) : Steady a (s.setCounter v) :=
  ⟨h.jc, h.wf, h.pending, h.stopped, h.localStop, h.panel, fun b => { h.bounded b with }⟩

theorem Steady.setPut (p : Pos) (v : Option PutRec) : Steady a (s.setPut p v) :=
  ⟨h.jc, h.wf, h.pending, h.stopped, h.localStop, h.panel, fun b => { h.bounded b with }⟩

theorem Steady.setVal (p : Pos) (v : Valuation) : Steady a (s.setVal p v) :=
  ⟨h.jc, h.wf, h.pending, h.stopped, h.localStop, h.panel, fun b => { h.bounded b with }⟩

theorem Steady.setHold (p : Pos) (v : Option Hold) : Steady a (s.setHold p v) :=
  ⟨h.jc, h.wf, h.pending, h.stopped, h.localStop, h.panel, fun b => { h.bounded b with }⟩

theorem Steady.setPl (v : Panel) (hl : v.lamps.length = s.pl.lamps.length)
    (hb : s.pl.buffer.length ≤ 16 → v.buffer.length ≤ 16) (hp : s.pl.Adds v) : Steady a (s.setPl v) :=
  ⟨h.jc, h.wf, h.pending, h.stopped, h.localStop, h.panel.trans hp, fun b =>
    { h.bounded b with
      lamps := hl.trans (h.bounded b).lamps, buffer := hb (h.bounded b).buffer }⟩

theorem Steady.setLp (v : LinePort) (hp : s.lp.places ≤ 8 → v.places ≤ 8)
    (hr : v.handover = s.lp.handover) : Steady a (s.setLp v) :=
  ⟨h.jc, h.wf, h.pending, h.stopped, h.localStop, h.panel, fun b =>
    { h.bounded b with
      places := hp (h.bounded b).places
      received := by
        have := (h.bounded b).received
        simpa [LinePort.received, hr] using this
      received13 := by
        have := (h.bounded b).received13
        simpa [LinePort.received13, hr] using this }⟩

end

/-- A change of XU that keeps its capacities. -/
structure Exchange.Fits (x y : Exchange) : Prop where
  waiting : x.waiting.length ≤ 16 → y.waiting.length ≤ 16
  offers : x.offers.length ≤ 16 → y.offers.length ≤ 16
  askQueue : x.askQueue.length ≤ 8 → y.askQueue.length ≤ 8
  outbound : x.outbound.length ≤ 8 → y.outbound.length ≤ 8
  expected : x.expected.length ≤ 8 → y.expected.length ≤ 8

theorem Steady.setXu {a s : State} (h : Steady a s) (v : Exchange) (hv : s.xu.Fits v) :
    Steady a (s.setXu v) :=
  ⟨h.jc, h.wf, h.pending, h.stopped, h.localStop, h.panel, fun b =>
    { h.bounded b with
      exchangeWaiting := hv.waiting (h.bounded b).exchangeWaiting
      offers := hv.offers (h.bounded b).offers
      askQueue := hv.askQueue (h.bounded b).askQueue
      outbound := hv.outbound (h.bounded b).outbound
      expected := hv.expected (h.bounded b).expected }⟩

end Sys2Proof.Machine
end

