-- ==== Sys2Proof/Laws/SteadyLine.lean ====
section
/-! SUPPORT. The operations that are steady, one lemma each: the reads and updates of Ops, the panel, the transmit queue, slots and removals, and what XU produces. -/

namespace Sys2Proof.Machine

theorem Steady.modLine {a s : State} (ha : Steady a s) (p : Pos) (i : Nat) (f : LineRec → LineRec) :
    Steady a (s.modLine p i f) := by
  unfold State.modLine
  repeat' with_reducible first | exact ha | apply Steady.setBuild

theorem Steady.setSlot {a s : State} (ha : Steady a s) (i : Nat) (x : Slot) :
    Steady a (s.setSlot i x) := by
  unfold State.setSlot
  repeat' with_reducible first | exact ha | apply Steady.setSu
  all_goals simp

theorem Steady.dropEarmark {a s : State} (ha : Steady a s) (u : UnitNo) :
    Steady a (s.dropEarmark u) := by
  unfold State.dropEarmark
  repeat' with_reducible first | exact ha | apply Steady.setSu
  all_goals rfl

theorem Steady.pruneClocks {a s : State} (ha : Steady a s) :
    Steady a (s.pruneClocks) := by
  unfold State.pruneClocks
  repeat' with_reducible first | exact ha | apply Steady.setXu
  all_goals constructor <;> exact fun hb => hb

theorem Steady.modNotice {a s : State} (ha : Steady a s) (o : OrderId) (f : Notice → Notice) :
    Steady a (s.modNotice o f) := by
  unfold State.modNotice
  repeat' first
    | with_reducible first | exact ha | apply Steady.setCu
    | split
  all_goals intro hb; simpa using hb

theorem Steady.removeNotice {a s : State} (ha : Steady a s) (o : OrderId) :
    Steady a (s.removeNotice o) := by
  unfold State.removeNotice
  repeat' with_reducible first | exact ha | apply Steady.setCu
  all_goals first | exact id | exact le_trans (List.length_filter_le _ _)

theorem Panel.sendLamp_lamps (pl : Panel) (i : Nat) (id : LampId) (v : LampShow) :
    (pl.sendLamp i id v).lamps.length = pl.lamps.length := by
  unfold Panel.sendLamp
  extract_lets owed
  split
  · simp
  · split
    · simp
    · split <;> simp

theorem Panel.sendLamp_buffer (pl : Panel) (i : Nat) (id : LampId) (v : LampShow)
    (h : pl.buffer.length ≤ 16) : (pl.sendLamp i id v).buffer.length ≤ 16 := by
  unfold Panel.sendLamp
  extract_lets owed
  split
  · simpa using h
  · split
    · exact h
    · split
      · rename_i hb
        simp only [Config.maxPanel] at hb
        simp only [List.length_append, List.length_singleton]
        omega
      · exact h

theorem Panel.sendPosition_lamps (pl : Panel) (p : Pos) (v : PosShow) :
    (pl.sendPosition p v).lamps = pl.lamps := by
  unfold Panel.sendPosition
  extract_lets cell
  split
  · rfl
  · split
    · rfl
    · split <;> rfl

theorem Panel.sendPosition_buffer (pl : Panel) (p : Pos) (v : PosShow) (h : pl.buffer.length ≤ 16) :
    (pl.sendPosition p v).buffer.length ≤ 16 := by
  unfold Panel.sendPosition
  extract_lets cell
  split
  · simpa using h
  · split
    · exact h
    · split
      · rename_i hb
        simp only [Config.maxPanel] at hb
        simp only [List.length_append, List.length_singleton]
        omega
      · exact h

theorem Panel.sendReport_lamps (pl : Panel) (r : PanelOut) : (pl.sendReport r).lamps = pl.lamps := by
  unfold Panel.sendReport
  split <;> rfl

theorem Panel.sendReport_buffer (pl : Panel) (r : PanelOut) (h : pl.buffer.length ≤ 16) :
    (pl.sendReport r).buffer.length ≤ 16 := by
  unfold Panel.sendReport
  split
  · exact h
  · rename_i hb
    simp only [Config.maxPanel, not_or] at hb
    simp only [List.length_append, List.length_singleton]
    omega

theorem Panel.sendLamps_lamps (n : Nat) (ids : List LampId) (vs : List LampShow) (cs : List LampCell)
    (pl : Panel) : (Panel.sendLamps n ids vs cs pl).lamps.length = pl.lamps.length := by
  induction ids generalizing n vs cs pl with
  | nil => cases vs <;> cases cs <;> rfl
  | cons id ids ih =>
    cases vs with
    | nil => rfl
    | cons v vs =>
      cases cs with
      | nil => rfl
      | cons c cs =>
        simp only [Panel.sendLamps, ih]
        split
        · rfl
        · exact Panel.sendLamp_lamps ..

theorem Panel.sendLamps_buffer (n : Nat) (ids : List LampId) (vs : List LampShow) (cs : List LampCell)
    (pl : Panel) (h : pl.buffer.length ≤ 16) :
    (Panel.sendLamps n ids vs cs pl).buffer.length ≤ 16 := by
  induction ids generalizing n vs cs pl with
  | nil => cases vs <;> cases cs <;> exact h
  | cons id ids ih =>
    cases vs with
    | nil => exact h
    | cons v vs =>
      cases cs with
      | nil => exact h
      | cons c cs =>
        simp only [Panel.sendLamps]
        apply ih
        split
        · exact h
        · exact Panel.sendLamp_buffer _ _ _ _ h

/-! ### Records to the panel keep the REPORTs -/

theorem owed_updateAt (f : LampCell → LampCell) (hf : ∀ c, c.owed = true → (f c).owed = true) (i : Nat)
    (xs : List LampCell) (h : xs.any (·.owed) = true) : (updateAt f i xs).any (·.owed) = true := by
  induction xs generalizing i with
  | nil => simp at h
  | cons x xs ih =>
    cases i with
    | zero =>
      simp only [updateAt, List.any_cons, Bool.or_eq_true] at h ⊢
      exact h.imp_left (hf x)
    | succ i =>
      simp only [updateAt, List.any_cons, Bool.or_eq_true] at h ⊢
      exact h.imp_right (ih i)

theorem Panel.anyOwed_iff (pl : Panel) : pl.anyOwed = true ↔
    (∃ p, (pl.positions.get p).owed = true) ∨ pl.lamps.any (·.owed) = true := by
  simp only [Panel.anyOwed, Bool.or_eq_true, List.any_eq_true]
  exact or_congr_left ⟨fun ⟨p, _, h⟩ => ⟨p, h⟩, fun ⟨p, h⟩ => ⟨p, by cases p <;> decide, h⟩⟩

theorem Panel.sendLamp_adds (pl : Panel) (i : Nat) (id : LampId) (v : LampShow) :
    pl.Adds (pl.sendLamp i id v) := by
  unfold Panel.sendLamp
  extract_lets owed
  have keep (x : Panel) (hx : x.positions = pl.positions)
      (hl : pl.lamps.any (·.owed) = true → x.lamps.any (·.owed) = true)
      (hb : ∀ c p u w, .report c p u w ∈ pl.buffer → .report c p u w ∈ x.buffer) : pl.Adds x :=
    ⟨hb, fun h => by
      rw [Panel.anyOwed_iff] at h ⊢
      rw [hx]
      exact h.imp_right hl⟩
  split
  · refine keep _ rfl (owed_updateAt (fun c => { c with shown := v }) (fun _ h => h) _ _) (fun c p u w hm => ?_)
    exact List.mem_map.2 ⟨_, hm, rfl⟩
  · split
    · exact keep _ rfl (owed_updateAt (fun c => { c with shown := v }) (fun _ h => h) _ _) (fun _ _ _ _ hm => hm)
    · split
      · exact keep _ rfl (owed_updateAt (fun c => { c with shown := v }) (fun _ h => h) _ _)
          (fun _ _ _ _ hm => List.mem_append_left _ hm)
      · exact keep _ rfl (owed_updateAt (fun _ => ⟨v, true⟩) (fun _ _ => rfl) _ _) (fun _ _ _ _ hm => hm)

/-- A position cell that is set to one that owes whenever it did leaves the panel owing. -/
theorem Panel.adds_of_cell {x y : Panel} (p : Pos) (v : PosCell) (hl : y.lamps = x.lamps)
    (hp : y.positions = x.positions.set p v) (hv : (x.positions.get p).owed = true → v.owed = true)
    (hb : ∀ c p u w, .report c p u w ∈ x.buffer → .report c p u w ∈ y.buffer) : x.Adds y :=
  ⟨hb, fun h => by
    rw [Panel.anyOwed_iff] at h ⊢
    rw [hl, hp]
    refine h.imp_left (fun ⟨q, hq⟩ => ⟨q, ?_⟩)
    by_cases e : q = p
    · subst e; rw [PerPos_get_set_same]; exact hv hq
    · rwa [PerPos_get_set_other _ _ e]⟩

theorem Panel.sendPosition_adds (pl : Panel) (p : Pos) (v : PosShow) : pl.Adds (pl.sendPosition p v) := by
  unfold Panel.sendPosition
  extract_lets cell
  split
  · refine Panel.adds_of_cell p _ rfl rfl (fun h => h) (fun c q u w hm => ?_)
    exact List.mem_map.2 ⟨_, hm, rfl⟩
  · split
    · exact Panel.adds_of_cell p _ rfl rfl (fun h => h) (fun _ _ _ _ => id)
    · split
      · exact Panel.adds_of_cell p _ rfl rfl (fun h => h) (fun _ _ _ _ hm => List.mem_append_left _ hm)
      · exact Panel.adds_of_cell p _ rfl rfl (fun _ => rfl) (fun _ _ _ _ => id)

theorem Panel.sendReport_adds (pl : Panel) (r : PanelOut) : pl.Adds (pl.sendReport r) := by
  unfold Panel.sendReport
  split
  · exact Panel.adds_of_cell .a _ rfl rfl (fun _ => rfl) (fun _ _ _ _ => id)
  · exact ⟨fun _ _ _ _ hm => List.mem_append_left _ hm, fun h => h⟩

/-- A REPORT is in the buffer, or the panel is owed something (R211). -/
theorem Panel.sendReport_told (pl : Panel) (r : PanelOut) (h : (pl.sendReport r).anyOwed = false) :
    r ∈ (pl.sendReport r).buffer := by
  unfold Panel.sendReport at h ⊢
  split
  · rename_i hc
    simp only [if_pos hc] at h
    simp [Panel.anyOwed, Pos.all, PerPos.get, PerPos.set] at h
  · simp

theorem Panel.sendLamps_adds (n : Nat) (ids : List LampId) (vs : List LampShow) (cs : List LampCell)
    (pl : Panel) : pl.Adds (Panel.sendLamps n ids vs cs pl) := by
  induction ids generalizing n vs cs pl with
  | nil => cases vs <;> cases cs <;> exact .refl _
  | cons id ids ih =>
    cases vs with
    | nil => exact .refl _
    | cons v vs =>
      cases cs with
      | nil => exact .refl _
      | cons c cs =>
        simp only [Panel.sendLamps]
        refine Panel.Adds.trans ?_ (ih ..)
        split
        · exact .refl _
        · exact Panel.sendLamp_adds ..

/-! ### The panel -/

theorem Steady.showPosition {a s : State} (h : Steady a s) (p : Pos) :
    Steady a (s.showPosition p) := by
  unfold State.showPosition
  split
  · exact h.setPl _ (by rw [Panel.sendPosition_lamps]) (Panel.sendPosition_buffer _ _ _)
      (Panel.sendPosition_adds ..)
  · exact h

theorem Steady.showShelf {a s : State} (h : Steady a s) : Steady a s.showShelf :=
  h.setPl _ (Panel.sendLamps_lamps ..) (Panel.sendLamps_buffer _ _ _ _ _)
      (Panel.sendLamps_adds ..)

theorem Steady.showTray {a s : State} (h : Steady a s) (p : Pos) : Steady a (s.showTray p) := by
  unfold State.showTray
  split
  · exact h.setPl _ (Panel.sendLamps_lamps ..) (Panel.sendLamps_buffer _ _ _ _ _)
      (Panel.sendLamps_adds ..)
  · exact h

theorem Steady.showPositionLamp {a s : State} (h : Steady a s) (p : Pos) :
    Steady a (s.showPositionLamp p) := by
  unfold State.showPositionLamp
  split
  · exact h.setPl _ (Panel.sendLamps_lamps ..) (Panel.sendLamps_buffer _ _ _ _ _)
      (Panel.sendLamps_adds ..)
  · exact h

theorem Steady.showBuild {a s : State} (h : Steady a s) (p : Pos) : Steady a (s.showBuild p) :=
  (h.showPosition p).showPositionLamp p

theorem Steady.flush {a s : State} (h : Steady a s) : Steady a s.flush := by
  unfold State.flush
  extract_lets t
  have ht : Steady a t := Steady.foldl h _ (fun t p k => k.showPosition p) _
  exact ht.setPl _ (Panel.sendLamps_lamps ..) (Panel.sendLamps_buffer _ _ _ _ _)
      (Panel.sendLamps_adds ..)

theorem Steady.report {a s : State} (h : Steady a s) (code : Nat) (p : Option Pos)
    (u : Option UnitNo) (v : Nat) : Steady a (s.report code p u v) := by
  unfold State.report
  exact h.setPl _ (by rw [Panel.sendReport_lamps]) (Panel.sendReport_buffer _ _)
    (Panel.sendReport_adds ..)

theorem Steady.benchReport {a s : State} (ha : Steady a s) (r : BenchReport) (p : Option Pos) (v : Nat) :
    Steady a (s.benchReport r p v) := by
  unfold State.benchReport
  repeat' with_reducible first | exact ha | apply Steady.report

theorem State.Bounded.setPl {s : State} (b : s.Bounded) (v : Panel) (hl : v.lamps.length = s.pl.lamps.length)
    (hb : v.buffer.length ≤ 16) : (s.setPl v).Bounded :=
  { b with lamps := hl.trans b.lamps, buffer := hb }

theorem State.Bounded.fillOne {s : State} (h : s.Bounded) (hb : s.pl.buffer.length < 16) :
    s.fillOne.Bounded := by
  unfold State.fillOne
  split
  · exact h.setPl _ rfl (by simp; omega)
  · split
    · exact h
    · split
      · exact h.setPl _ (by simp) (by simp; omega)
      · exact h

theorem State.Bounded.fillOwed {s : State} (h : s.Bounded) (n : Nat) : (State.fillOwed n s).Bounded := by
  induction n generalizing s with
  | zero => exact h
  | succ n ih =>
    simp only [State.fillOwed]
    split
    · rename_i hb
      exact ih (h.fillOne hb)
    · exact h

theorem Steady.resendLamps {a s : State} (h : Steady a s) : Steady a s.resendLamps := by
  unfold State.resendLamps
  extract_lets vs again
  have hl (pl : Panel) (x : Nat × LampId × LampShow) : (again pl x).lamps.length = pl.lamps.length := by
    simp only [again]
    split
    · split
      · rfl
      · exact Panel.sendLamp_lamps ..
    · split
      · exact Panel.sendLamp_lamps ..
      · rfl
    · split
      · split
        · rfl
        · exact Panel.sendLamp_lamps ..
      · rfl
  have hb (pl : Panel) (x : Nat × LampId × LampShow) (hx : pl.buffer.length ≤ 16) :
      (again pl x).buffer.length ≤ 16 := by
    simp only [again]
    split
    · split
      · exact hx
      · exact Panel.sendLamp_buffer _ _ _ _ hx
    · split
      · exact Panel.sendLamp_buffer _ _ _ _ hx
      · exact hx
    · split
      · split
        · exact hx
        · exact Panel.sendLamp_buffer _ _ _ _ hx
      · exact hx
  have ha (pl : Panel) (x : Nat × LampId × LampShow) : pl.Adds (again pl x) := by
    simp only [again]
    split
    · split
      · exact .refl _
      · exact Panel.sendLamp_adds ..
    · split
      · exact Panel.sendLamp_adds ..
      · exact .refl _
    · split
      · split
        · exact .refl _
        · exact Panel.sendLamp_adds ..
      · exact .refl _
  have hfold : ∀ (xs : List (Nat × LampId × LampShow)) (pl : Panel),
      (xs.foldl again pl).lamps.length = pl.lamps.length ∧
        (pl.buffer.length ≤ 16 → (xs.foldl again pl).buffer.length ≤ 16) ∧
        pl.Adds (xs.foldl again pl) := by
    intro xs
    induction xs with
    | nil => exact fun pl => ⟨rfl, id, .refl _⟩
    | cons x xs ih =>
      exact fun pl => ⟨(ih _).1.trans (hl pl x), fun hx => (ih _).2.1 (hb pl x hx),
        (ha pl x).trans (ih _).2.2⟩
  exact h.setPl _ (hfold _ _).1 (hfold _ _).2.1 (hfold _ _).2.2

theorem LinePort.enqueue_places (lp : LinePort) (f : Frame) :
    (lp.enqueue f).places = lp.places + 1 := by
  simp only [LinePort.places, LinePort.unstarted, LinePort.enqueue, List.length_append, insertBy_length]
  omega

/-- A frame that has a place, or none to take, is steady. -/
theorem Steady.transmit {a s : State} (h : Steady a s) (f : Frame)
    (hf : (s.isolated || s.lp.hasSpace) = true) : Steady a (s.transmit f) := by
  unfold State.transmit
  split
  · exact h
  · rename_i hi
    refine h.setLp _ (fun _ => ?_) rfl
    simp only [hi, Bool.false_or, LinePort.hasSpace, decide_eq_true_eq] at hf
    rw [LinePort.enqueue_places]
    exact hf

theorem State.accepts3_space {s : State} (h : s.accepts3 = true) :
    (s.isolated || s.lp.hasSpace) = true := by
  simp only [State.accepts3, Bool.or_eq_true, Bool.and_eq_true] at h ⊢
  tauto

theorem Steady.produceHalt {a s : State} (h : Steady a s) : Steady a s.produceHalt := by
  unfold State.produceHalt
  split
  · exact h.transmit _ ‹_›
  · exact h.setHc _ rfl rfl

theorem joinClaimWaiting_length (ws : List Frame) (f : Frame) (h : ws.length ≤ 16) :
    (joinClaimWaiting ws f).length ≤ 16 := by
  unfold joinClaimWaiting
  split
  · rename_i hw
    simp only [Config.maxWaiting] at hw
    simp only [List.length_append, List.length_singleton]
    omega
  · split
    · exact h
    · split
      · rename_i hp
        have := dropFirst_length _ _ hp
        simp only [List.length_append, List.length_singleton]
        omega
      · exact h

theorem Steady.produceCu {a s : State} (h : Steady a s) (f : Frame) :
    Steady a (s.produceCu f) := by
  unfold State.produceCu
  split
  · exact h.transmit _ ‹_›
  · exact h.setCu _ id (joinClaimWaiting_length _ _)

theorem Steady.producePrior {a s : State} (ha : Steady a s) (o : OrderId) :
    Steady a (s.producePrior o) := by
  unfold State.producePrior
  dsimp only
  repeat' first
    | with_reducible first | exact ha | apply Steady.produceCu
    | split

theorem Steady.grantOne {a s : State} (h : Steady a s) (hf : s.lp.hasSpace = true) :
    Steady a s.grantOne := by
  unfold State.grantOne
  split
  · refine Steady.transmit (Steady.setHc h _ ?_ ?_) _ (by rw [Bool.or_eq_true]; exact Or.inr hf) <;> rfl
  · split
    · rename_i hw
      refine Steady.transmit (Steady.setCu h _ ?_ ?_) _ (by rw [Bool.or_eq_true]; exact Or.inr hf)
      · exact id
      · intro hb
        rw [hw] at hb
        simp only [List.length_cons] at hb
        dsimp only
        omega
    · split
      · rename_i hw
        refine Steady.transmit (Steady.setXu h _ ?_) _ (by rw [Bool.or_eq_true]; exact Or.inr hf)
        refine ⟨fun hb => ?_, id, id, id, id⟩
        rw [hw] at hb
        simp only [List.length_cons] at hb
        dsimp only
        omega
      · exact h

theorem Steady.grantPlaces {a s : State} (h : Steady a s) (n : Nat) :
    Steady a (State.grantPlaces n s) := by
  induction n generalizing s with
  | zero => exact h
  | succ n ih =>
    simp only [State.grantPlaces]
    split
    · rename_i hf
      simp only [Bool.and_eq_true] at hf
      exact ih (h.grantOne hf.1.1)
    · exact h

theorem Steady.grantTx {a s : State} (h : Steady a s) : Steady a s.grantTx :=
  h.grantPlaces _

theorem Steady.withdrawClaim {a s : State} (h : Steady a s) (o : OrderId) :
    Steady a (s.withdrawClaim o) := by
  unfold State.withdrawClaim
  dsimp only
  refine Steady.grantTx (Steady.setLp (Steady.setCu h _ ?_ ?_) _ ?_ ?_)
  · exact id
  · exact le_trans (List.length_filter_le _ _)
  · intro hp
    have := List.length_filter_le (fun f => decide (f ≠ Frame.claim o)) s.lp.queue
    simp only [LinePort.places, LinePort.unstarted, List.length_append, Option.length_toList,
      Option.isSome_map, State.setCu_lp] at hp ⊢
    omega
  · rfl

theorem Steady.mark {a s : State} (ha : Steady a s) (p : Pos) (n : Notice) :
    Steady a (s.mark p n) := by
  unfold State.mark
  dsimp only
  repeat' with_reducible first | exact ha | apply Steady.setBuild | apply Steady.modNotice | apply Steady.produceCu | apply Steady.showBuild

theorem Steady.look {a s : State} (ha : Steady a s) (p : Pos) :
    Steady a (s.look p) := by
  unfold State.look
  repeat' first
    | with_reducible first | exact ha | apply Steady.mark
    | split

theorem Steady.lookAll {a s : State} (ha : Steady a s) :
    Steady a (s.lookAll) := by
  unfold State.lookAll
  repeat' first
    | with_reducible first | exact ha | assumption | apply Steady.look | apply Steady.foldl
    | intro _ _ _

theorem Steady.freedPlace {a s : State} (ha : Steady a s) :
    Steady a (s.freedPlace) := by
  unfold State.freedPlace
  dsimp only
  repeat' first
    | with_reducible first | exact ha | apply Steady.grantTx | apply Steady.lookAll
    | split

theorem Steady.startRemoval {a s : State} (ha : Steady a s) (p : Pos) (pu : Purpose) (x : Placed) :
    Steady a (s.startRemoval p pu x) := by
  unfold State.startRemoval
  repeat' with_reducible first | exact ha | apply Steady.setPut | apply Steady.showTray

theorem Steady.tryRemoval {a s : State} (ha : Steady a s) (p : Pos) :
    Steady a (s.tryRemoval p) := by
  unfold State.tryRemoval
  dsimp only
  repeat' first
    | with_reducible first | exact ha | apply Steady.setHold | apply Steady.startRemoval
    | split

theorem Steady.giveTo {a s : State} (h : Steady a s) (ps : List Pos) :
    Steady a (State.giveTo ps s) := by
  induction ps generalizing s with
  | nil => exact h
  | cons p ps ih =>
    simp only [State.giveTo]
    split
    · exact h
    · refine ih (Steady.tryRemoval
        (Steady.showPositionLamp (Steady.showShelf (Steady.setSu (Steady.setSlot h _ _) _ ?_)) _) _)
      rfl

theorem Steady.giveSlots {a s : State} (ha : Steady a s) :
    Steady a (s.giveSlots) := by
  unfold State.giveSlots
  repeat' with_reducible first | exact ha | apply Steady.giveTo

theorem Steady.emptySlot {a s : State} (ha : Steady a s) (i : Nat) (grant : Option Seq) :
    Steady a (s.emptySlot i grant) := by
  unfold State.emptySlot
  dsimp only
  repeat' first
    | with_reducible first | exact ha | apply Steady.setSu | apply Steady.setSlot | apply Steady.giveSlots | apply Steady.showShelf
    | split
  all_goals rfl

theorem Steady.requestSlot {a s : State} (ha : Steady a s) (p : Pos) :
    Steady a (s.requestSlot p) := by
  unfold State.requestSlot
  repeat' first
    | with_reducible first | exact ha | apply Steady.setSu | apply Steady.setSlot | apply Steady.showShelf | apply Steady.showPositionLamp
    | split
  all_goals rfl

theorem Steady.releaseSlot {a s : State} (ha : Steady a s) (p : Pos) :
    Steady a (s.releaseSlot p) := by
  unfold State.releaseSlot
  dsimp only
  repeat' first
    | with_reducible first | exact ha | apply Steady.setSu | apply Steady.emptySlot
    | split
  all_goals rfl

theorem Steady.askAt {a s : State} (h : Steady a s) (r : LineRef) (l : LineRec) (e : OfferEntry)
    (hw : s.xu.waiting.length < 16) : Steady a (s.askAt r l e) := by
  unfold State.askAt
  dsimp only
  split
  · refine Steady.transmit (Steady.modLine (Steady.setXu h _ ?_) _ _ _) _ (by simp [*])
    exact ⟨id, fun hb => le_trans (List.length_filter_le _ _) (by simpa using hb), id, id, id⟩
  · refine Steady.setXu (Steady.modLine (Steady.setXu h _ ?_) _ _ _) _ ?_
    · exact ⟨id, fun hb => le_trans (List.length_filter_le _ _) (by simpa using hb), id, id, id⟩
    · exact ⟨fun _ => by simp [State.modLine]; omega, id, id, id, id⟩

theorem Steady.wantFor {a s : State} (h : Steady a s) (r : LineRef) (l : LineRec) :
    Steady a (s.wantFor r l) := by
  unfold State.wantFor
  split
  · exact Steady.modLine (h.transmit _ (State.accepts3_space ‹_›)) _ _ _
  · exact h.modLine _ _ _

theorem Steady.takeLine {a s : State} (h : Steady a s) (r : LineRef) :
    Steady a (s.takeLine r) := by
  unfold State.takeLine
  split
  · exact h
  · split
    · split
      · split
        · exact h.askAt _ _ _ ‹_›
        · exact h
      · split
        · exact h
        · exact h.wantFor _ _
    · exact h

theorem Steady.handLine {a s : State} (ha : Steady a s) (r : LineRef) :
    Steady a (s.handLine r) := by
  unfold State.handLine
  repeat' first
    | with_reducible first | exact ha | apply Steady.takeLine
    | split

theorem Steady.clearAsk {a s : State} (ha : Steady a s) (r : LineRef) :
    Steady a (s.clearAsk r) := by
  unfold State.clearAsk
  repeat' with_reducible first | exact ha | apply Steady.setXu | apply Steady.modLine
  all_goals constructor <;> intro hb <;>
    first | exact hb | exact le_trans (List.length_filter_le _ _) hb | simpa using hb

theorem Steady.clearAndHand {a s : State} (ha : Steady a s) (r : LineRef) :
    Steady a (s.clearAndHand r) := by
  unfold State.clearAndHand
  repeat' with_reducible first | exact ha | apply Steady.handLine | apply Steady.clearAsk

theorem firstSome_mem {α β : Type} {f : α → Option β} {xs : List α} {y : β}
    (h : firstSome f xs = some y) : ∃ x ∈ xs, f x = some y := by
  induction xs with
  | nil => simp [firstSome] at h
  | cons x xs ih =>
    simp only [firstSome] at h
    split at h
    · exact ⟨x, by simp, by simp_all⟩
    · obtain ⟨z, hz, hf⟩ := ih h
      exact ⟨z, by simp [hz], hf⟩

theorem Steady.produceTaken {a s : State} (h : Steady a s) (dest : Station) (n : Seq)
    (received : Nat) : Steady a (s.produceTaken dest n received) := by
  unfold State.produceTaken
  extract_lets f
  split
  · exact h.transmit _ ‹_›
  · split
    · rename_i hw
      simp only [Config.maxWaiting] at hw
      refine Steady.setXu h _ ?_
      exact ⟨fun _ => by simp; omega, id, id, id, id⟩
    · split
      · exact h
      · rename_i r hr
        refine Steady.clearAndHand (Steady.setXu h _ ?_) _
        refine ⟨fun hb => ?_, id, id, id, id⟩
        obtain ⟨w, hw, hl⟩ := firstSome_mem hr
        have hlt : (s.xu.waiting.filter (fun w => decide (w.line ≠ some r))).length
            < s.xu.waiting.length :=
          List.length_filter_lt_length_iff_exists.2 ⟨w, hw, by simp [hl]⟩
        simp only [List.length_append, List.length_singleton]
        omega

theorem Steady.unlinkBuild {a s : State} (h : Steady a s) (p : Pos) :
    Steady a (s.unlinkBuild p) := by
  unfold State.unlinkBuild
  dsimp only
  refine Steady.setXu (Steady.foldl h _ (fun t x k => k.clearAsk x) _) _ ?_
  exact ⟨id, id, id, id, fun hb => by simpa using hb⟩

theorem Steady.offerCode {a s : State} (h : Steady a s) (c : ItemCode) :
    Steady a (s.offerCode c) := by
  unfold State.offerCode
  split
  · refine Steady.setXu (h.transmit _ (State.accepts3_space ‹_›)) _ ?_
    exact ⟨id, id, id, id, id⟩
  · exact h

theorem Steady.surplusLook {a s : State} (ha : Steady a s) :
    Steady a (s.surplusLook) := by
  unfold State.surplusLook
  repeat' first
    | with_reducible first | exact ha | assumption | apply Steady.offerCode | apply Steady.foldl
    | intro _ _ _
    | split

theorem Steady.earmark {a s : State} (ha : Steady a s) (i : Nat) (r : LineRef) :
    Steady a (s.earmark i r) := by
  unfold State.earmark
  dsimp only
  repeat' first
    | with_reducible first | exact ha | apply Steady.setSu | apply Steady.modLine | apply Steady.setSlot | apply Steady.pruneClocks
    | split
  all_goals rfl

theorem Steady.fillSlot {a s : State} (ha : Steady a s) (test : State → UnitRec → Bool) (r : LineRef) (i : Nat) :
    Steady a (State.fillSlot test r s i) := by
  unfold State.fillSlot
  repeat' first
    | with_reducible first | exact ha | apply Steady.earmark
    | split

theorem Steady.fillLine {a s : State} (ha : Steady a s) (test : State → UnitRec → Bool) (r : LineRef) :
    Steady a (State.fillLine test s r) := by
  unfold State.fillLine
  repeat' first
    | with_reducible first | exact ha | assumption | apply Steady.fillSlot | apply Steady.foldl
    | intro _ _ _

theorem Steady.exactFill {a s : State} (ha : Steady a s) (p : Pos) :
    Steady a (s.exactFill p) := by
  unfold State.exactFill
  repeat' first
    | with_reducible first | exact ha | assumption | apply Steady.fillLine | apply Steady.foldl
    | intro _ _ _

end Sys2Proof.Machine
end

