-- ==== Sys2Proof/Laws/SteadyBuilds.lean ====
section
/-! SUPPORT. The operations that are steady, one lemma each: holds, builds and puts. -/

namespace Sys2Proof.Machine

theorem Steady.reportCause {a s : State} (ha : Steady a s) (p : Pos) (c : Raised) :
    Steady a (State.reportCause p s c) := by
  unfold State.reportCause
  repeat' with_reducible first | exact ha | apply Steady.report

theorem Steady.raiseAt {a s : State} (h : Steady a s) (p : Pos) (saved : SavedState) (idx : Nat)
    (cs : List Raised) : Steady a (s.raiseAt p saved idx cs) := by
  unfold State.raiseAt
  dsimp only
  have ht (xs : List Raised) : Steady a (xs.foldl (State.reportCause p) s) :=
    Steady.foldl h _ (fun t c k => k.reportCause p c) _
  split
  · exact h
  · split
    · exact Steady.setHold (ht _) _ _
    · exact Steady.tryRemoval (Steady.showBuild
        (Steady.setBuild (Steady.setHold (ht _) _ _) _ _) _) _

theorem Steady.raise {a s : State} (ha : Steady a s) (p : Pos) (c : Raised) :
    Steady a (s.raise p c) := by
  unfold State.raise
  repeat' with_reducible first | exact ha | apply Steady.raiseAt | apply Steady.showTray

theorem Steady.seal {a s : State} (ha : Steady a s) (p : Pos) (total : Nat) (weight : Int) :
    Steady a (s.seal p total weight) := by
  unfold State.seal
  dsimp only
  repeat' first
    | with_reducible first | exact ha | apply Steady.setBuild | apply Steady.produceCu | apply Steady.showBuild
    | split

theorem Steady.runCheck {a s : State} (ha : Steady a s) (p : Pos) (resumed : List Cause) :
    Steady a (s.runCheck p resumed) := by
  unfold State.runCheck
  dsimp only
  repeat' first
    | with_reducible first | exact ha | apply Steady.setVal | apply Steady.raiseAt | apply Steady.seal
    | split

theorem Steady.startPut {a s : State} (ha : Steady a s) (p : Pos) (e : PlanEntry) :
    Steady a (s.startPut p e) := by
  unfold State.startPut
  dsimp only
  repeat' first
    | with_reducible first | exact ha | apply Steady.setPut | apply Steady.modLine | apply Steady.setSlot | apply Steady.showShelf | apply Steady.showTray | apply Steady.showBuild
    | split

theorem Steady.nextPut {a s : State} (ha : Steady a s) (p : Pos) :
    Steady a (s.nextPut p) := by
  unfold State.nextPut
  dsimp only
  repeat' first
    | with_reducible first | exact ha | apply Steady.runCheck | apply Steady.startPut | apply Steady.showBuild
    | split

theorem Steady.takeTare {a s : State} (ha : Steady a s) (p : Pos) :
    Steady a (s.takeTare p) := by
  unfold State.takeTare
  repeat' first
    | with_reducible first | exact ha | apply Steady.setBuild | apply Steady.nextPut | apply Steady.showBuild
    | split

theorem Steady.enterPutting {a s : State} (ha : Steady a s) (p : Pos) (plan : List PlanEntry) :
    Steady a (s.enterPutting p plan) := by
  unfold State.enterPutting
  dsimp only
  repeat' with_reducible first | exact ha | apply Steady.setBuild | apply Steady.nextPut | apply Steady.takeTare | apply Steady.showBuild

theorem Steady.planFull {a s : State} (ha : Steady a s) (p : Pos) (e : PlanFail) :
    Steady a (s.planFull p e) := by
  unfold State.planFull
  repeat' with_reducible first | exact ha | apply Steady.raiseAt | apply Steady.setBuild

theorem Steady.coverage {a s : State} (ha : Steady a s) (p : Pos) :
    Steady a (s.coverage p) := by
  unfold State.coverage
  repeat' first
    | with_reducible first | exact ha | apply Steady.enterPutting | apply Steady.planFull
    | split

theorem Steady.handLines {a s : State} (ha : Steady a s) (p : Pos) :
    Steady a (s.handLines p) := by
  unfold State.handLines
  repeat' first
    | with_reducible first | exact ha | assumption | apply Steady.handLine | apply Steady.foldl
    | intro _ _ _

theorem Steady.regather {a s : State} (ha : Steady a s) (p : Pos) :
    Steady a (s.regather p) := by
  unfold State.regather
  dsimp only
  repeat' with_reducible first | exact ha | apply Steady.setBuild | apply Steady.exactFill | apply Steady.coverage | apply Steady.handLines | apply Steady.showBuild

theorem Steady.lineLost {a s : State} (ha : Steady a s) (r : LineRef) :
    Steady a (s.lineLost r) := by
  unfold State.lineLost
  repeat' first
    | with_reducible first | exact ha | apply Steady.setBuild | apply Steady.handLine | apply Steady.regather
    | split

theorem Steady.earmarkLost {a s : State} (ha : Steady a s) (r : LineRef) :
    Steady a (s.earmarkLost r) := by
  unfold State.earmarkLost
  repeat' with_reducible first | exact ha | apply Steady.modLine | apply Steady.lineLost

theorem Steady.takeUnit {a s : State} (ha : Steady a s) (i : Nat) (r : LineRef) :
    Steady a (s.takeUnit i r) := by
  unfold State.takeUnit
  repeat' with_reducible first | exact ha | apply Steady.earmark | apply Steady.coverage

theorem Steady.matchUnit {a s : State} (ha : Steady a s) (i : Nat) :
    Steady a (s.matchUnit i) := by
  unfold State.matchUnit
  repeat' first
    | with_reducible first | exact ha | apply Steady.takeUnit
    | split

theorem Steady.matchUnits {a s : State} (ha : Steady a s) (is : List Nat) :
    Steady a (s.matchUnits is) := by
  unfold State.matchUnits
  repeat' first
    | with_reducible first | exact ha | assumption | apply Steady.matchUnit | apply Steady.foldl
    | intro _ _ _

theorem Steady.shelve {a s : State} (ha : Steady a s) (i : Nat) (u : UnitRec) :
    Steady a (s.shelve i u) := by
  unfold State.shelve
  dsimp only
  repeat' first
    | with_reducible first | exact ha | apply Steady.setSlot | apply Steady.dropEarmark | apply Steady.showShelf
    | split

theorem Steady.freeEarmarks {a s : State} (ha : Steady a s) (p : Pos) :
    Steady a (s.freeEarmarks p) := by
  unfold State.freeEarmarks
  repeat' first
    | with_reducible first | exact ha | assumption | apply Steady.modLine | apply Steady.setSlot | apply Steady.dropEarmark | apply Steady.foldl
    | intro _ _ _
    | split

theorem Steady.enterEmpty {a s : State} (ha : Steady a s) (p : Pos) :
    Steady a (s.enterEmpty p) := by
  unfold State.enterEmpty
  dsimp only
  repeat' with_reducible first | exact ha | apply Steady.setBuild | apply Steady.setPut | apply Steady.setVal | apply Steady.setHold | apply Steady.lookAll | apply Steady.releaseSlot | apply Steady.unlinkBuild | apply Steady.matchUnits | apply Steady.freeEarmarks | apply Steady.showBuild

theorem Steady.releaseOrder {a s : State} (ha : Steady a s) (o : OrderId) :
    Steady a (s.releaseOrder o) := by
  unfold State.releaseOrder
  repeat' first
    | with_reducible first | exact ha | apply Steady.modNotice | apply Steady.produceCu
    | split

theorem Steady.endUnloading {a s : State} (ha : Steady a s) (p : Pos) :
    Steady a (s.endUnloading p) := by
  unfold State.endUnloading
  repeat' first
    | with_reducible first | exact ha | apply Steady.removeNotice | apply Steady.enterEmpty | apply Steady.releaseOrder
    | split

theorem Steady.unloadOn {a s : State} (ha : Steady a s) (p : Pos) :
    Steady a (s.unloadOn p) := by
  unfold State.unloadOn
  repeat' first
    | with_reducible first | exact ha | apply Steady.tryRemoval | apply Steady.requestSlot | apply Steady.endUnloading
    | split

theorem Steady.resumeOp {a s : State} (ha : Steady a s) (p : Pos) :
    Steady a (s.resumeOp p) := by
  unfold State.resumeOp
  repeat' first
    | with_reducible first | exact ha | apply Steady.setPut
    | split

theorem Steady.backToPutting {a s : State} (ha : Steady a s) (p : Pos) :
    Steady a (s.backToPutting p) := by
  unfold State.backToPutting
  repeat' first
    | with_reducible first | exact ha | apply Steady.setBuild | apply Steady.enterPutting | apply Steady.planFull | apply Steady.regather | apply Steady.showBuild
    | split

theorem Steady.leaveHeld {a s : State} (ha : Steady a s) (p : Pos) (h : Hold) :
    Steady a (s.leaveHeld p h) := by
  unfold State.leaveHeld
  dsimp only
  repeat' first
    | with_reducible first | exact ha | apply Steady.setBuild | apply Steady.setHold | apply Steady.runCheck | apply Steady.regather | apply Steady.unloadOn | apply Steady.resumeOp | apply Steady.backToPutting | apply Steady.showTray | apply Steady.showBuild
    | split

theorem Steady.proceed {a s : State} (ha : Steady a s) (p : Pos) :
    Steady a (s.proceed p) := by
  unfold State.proceed
  dsimp only
  repeat' first
    | with_reducible first | exact ha | apply Steady.setHold | apply Steady.tryRemoval | apply Steady.leaveHeld | apply Steady.showBuild
    | split

theorem Steady.resolveToGathering {a s : State} (ha : Steady a s) (p : Pos) :
    Steady a (s.resolveToGathering p) := by
  unfold State.resolveToGathering
  repeat' first
    | with_reducible first | exact ha | apply Steady.setHold | apply Steady.proceed
    | split

theorem Steady.exclude {a s : State} (ha : Steady a s) (p : Pos) (u : UnitNo) :
    Steady a (s.exclude p u) := by
  unfold State.exclude
  repeat' with_reducible first | exact ha | apply Steady.setBuild

theorem Steady.raiseChill {a s : State} (ha : Steady a s) (p : Pos) (u : UnitNo) :
    Steady a (State.raiseChill p s u) := by
  unfold State.raiseChill
  repeat' first
    | with_reducible first | exact ha | apply Steady.raise
    | split

theorem Steady.afterPut {a s : State} (ha : Steady a s) (p : Pos) :
    Steady a (s.afterPut p) := by
  unfold State.afterPut
  repeat' first
    | with_reducible first | exact ha | apply Steady.nextPut | apply Steady.regather
    | split

theorem Steady.confirmPut {a s : State} (ha : Steady a s) (p : Pos) (delta : Int) :
    Steady a (s.confirmPut p delta) := by
  unfold State.confirmPut
  dsimp only
  repeat' first
    | with_reducible first | exact ha | assumption | apply Steady.setBuild | apply Steady.setPut | apply Steady.setVal | apply Steady.modLine | apply Steady.dropEarmark | apply Steady.emptySlot | apply Steady.raiseAt | apply Steady.raiseChill | apply Steady.afterPut | apply Steady.foldl | apply Steady.showTray
    | intro _ _ _
    | split

theorem Steady.cancelUnit {a s : State} (ha : Steady a s) (r : PutRec) :
    Steady a (s.cancelUnit r) := by
  unfold State.cancelUnit
  repeat' first
    | with_reducible first | exact ha | apply Steady.shelve
    | split

theorem Steady.cancelRecord {a s : State} (ha : Steady a s) (p : Pos) (r : PutRec) :
    Steady a (s.cancelRecord p r) := by
  unfold State.cancelRecord
  repeat' with_reducible first | exact ha | apply Steady.setPut | apply Steady.modLine | apply Steady.showTray

theorem Steady.cancelPut {a s : State} (ha : Steady a s) (p : Pos) (r : PutRec) :
    Steady a (s.cancelPut p r) := by
  unfold State.cancelPut
  repeat' with_reducible first | exact ha | apply Steady.cancelUnit | apply Steady.cancelRecord

theorem Steady.rejectPut {a s : State} (ha : Steady a s) (p : Pos) (r : PutRec) :
    Steady a (s.rejectPut p r) := by
  unfold State.rejectPut
  dsimp only
  repeat' first
    | with_reducible first | exact ha | assumption | apply Steady.matchUnit | apply Steady.exclude | apply Steady.raiseChill | apply Steady.foldl | apply Steady.cancelUnit | apply Steady.cancelRecord
    | intro _ _ _
    | split

theorem Steady.faultOp {a s : State} (ha : Steady a s) (p : Pos) (r : PutRec) (c : Cause) (v : Nat) :
    Steady a (s.faultOp p r c v) := by
  unfold State.faultOp
  repeat' with_reducible first | exact ha | apply Steady.setPut | apply Steady.raise

theorem Steady.takeOut {a s : State} (ha : Steady a s) (p : Pos) (r : PutRec) :
    Steady a (s.takeOut p r) := by
  unfold State.takeOut
  dsimp only
  repeat' with_reducible first | exact ha | apply Steady.setBuild | apply Steady.setPut | apply Steady.modLine | apply Steady.showTray

theorem Steady.handBack {a s : State} (ha : Steady a s) (p : Pos) (u : UnitRec) :
    Steady a (s.handBack p u) := by
  unfold State.handBack
  repeat' first
    | with_reducible first | exact ha | apply Steady.matchUnit | apply Steady.shelve
    | split

theorem Steady.verifyRemoval {a s : State} (ha : Steady a s) (p : Pos) (r : PutRec) (pu : Purpose) :
    Steady a (s.verifyRemoval p r pu) := by
  unfold State.verifyRemoval
  dsimp only
  repeat' first
    | with_reducible first | exact ha | apply Steady.setPut | apply Steady.setHold | apply Steady.tryRemoval | apply Steady.unloadOn | apply Steady.resolveToGathering | apply Steady.exclude | apply Steady.takeOut | apply Steady.handBack | apply Steady.showBuild
    | split

theorem Steady.failRemoval {a s : State} (ha : Steady a s) (p : Pos) (r : PutRec) (pu : Purpose) (c : Cause) (v : Nat) :
    Steady a (s.failRemoval p r pu c v) := by
  unfold State.failRemoval
  repeat' first
    | with_reducible first | exact ha | apply Steady.setPut | apply Steady.faultOp
    | split

theorem Steady.judge {a s : State} (ha : Steady a s) (p : Pos) (r : PutRec) (delta : Int) :
    Steady a (s.judge p r delta) := by
  unfold State.judge
  dsimp only
  repeat' first
    | with_reducible first | exact ha | apply Steady.setPut | apply Steady.confirmPut | apply Steady.faultOp | apply Steady.verifyRemoval | apply Steady.failRemoval
    | split

theorem Steady.judgeSweep {a s : State} (ha : Steady a s) (p : Pos) (r : PutRec) (filtered stable : Option Nat) :
    Steady a (s.judgeSweep p r filtered stable) := by
  unfold State.judgeSweep
  dsimp only
  repeat' first
    | with_reducible first | exact ha | apply Steady.setPut | apply Steady.judge
    | split

theorem Steady.judgeResult {a s : State} (ha : Steady a s) (p : Pos) (r : PutRec) (q : Quad) :
    Steady a (s.judgeResult p r q) := by
  unfold State.judgeResult
  repeat' first
    | with_reducible first | exact ha | apply Steady.faultOp | apply Steady.failRemoval | apply Steady.judgeSweep
    | split

theorem Steady.sweepOp {a s : State} (ha : Steady a s) (p : Pos) (q : Quad) :
    Steady a (s.sweepOp p q) := by
  unfold State.sweepOp
  repeat' first
    | with_reducible first | exact ha | apply Steady.judgeResult | apply Steady.showTray
    | split

theorem Steady.dispatch {a s : State} (ha : Steady a s) (p : Pos) :
    Steady a (s.dispatch p) := by
  unfold State.dispatch
  repeat' first
    | with_reducible first | exact ha | apply Steady.removeNotice | apply Steady.enterEmpty
    | split

theorem Steady.sweepResult {a s : State} (ha : Steady a s) (readings : PerPos Quad) (p : Pos) :
    Steady a (State.sweepResult readings s p) := by
  unfold State.sweepResult
  repeat' with_reducible first | exact ha | apply Steady.takeTare | apply Steady.sweepOp | apply Steady.dispatch

end Sys2Proof.Machine
end

