-- ==== Sys2Proof/Laws/SteadyCommands.lean ====
section
/-! SUPPORT. The operations that are steady, one lemma each: serving, scans, keys, frames and timers. -/

namespace Sys2Proof.Machine

theorem State.startRemoval_lp (s : State) (p : Pos) (pu : Purpose) (x : Placed) :
    (s.startRemoval p pu x).lp = s.lp := by
  unfold State.startRemoval
  rw [State.showTray_lp]
  rfl

/-- Slots given and taken leave LP as it stands. -/
theorem State.tryRemoval_lp (s : State) (p : Pos) : (s.tryRemoval p).lp = s.lp := by
  unfold State.tryRemoval
  split
  · rfl
  · split
    · rfl
    · dsimp only
      split <;> exact State.startRemoval_lp ..

theorem State.giveTo_lp (ps : List Pos) (s : State) : (State.giveTo ps s).lp = s.lp := by
  induction ps generalizing s with
  | nil => rfl
  | cons p ps ih =>
    simp only [State.giveTo]
    split
    · rfl
    · rw [ih, State.tryRemoval_lp, State.showPositionLamp_lp]
      rfl

theorem State.emptySlot_lp (s : State) (i : Nat) (g : Option Seq) : (s.emptySlot i g).lp = s.lp := by
  unfold State.emptySlot State.giveSlots
  exact State.giveTo_lp _ _

theorem State.emptySlots_lp (gs : List Grantable) (n : Seq) (s : State) :
    (gs.foldl (fun v g => v.emptySlot g.slot (some n)) s).lp = s.lp := by
  induction gs generalizing s with
  | nil => rfl
  | cons g gs ih => exact (ih _).trans (State.emptySlot_lp _ _ _)

theorem State.chosenFor_room {s : State} {a : AskEntry}
    (h : ((s.chosenFor a).map (·.unit)).isEmpty = false) : s.xu.outbound.length < 8 := by
  unfold State.chosenFor at h
  split at h
  · assumption
  · simp at h

theorem Steady.serve {a s : State} (h : Steady a s) (x : AskEntry) (rest : List AskEntry)
    (hq : s.xu.askQueue = x :: rest) (hs : s.lp.hasSpace = true) : Steady a (s.serve x rest) := by
  unfold State.serve
  dsimp only
  refine Steady.transmit (Steady.pruneClocks (Steady.foldl (Steady.setXu h _ ?_) _
    (fun t g k => k.emptySlot _ _) _)) _ ?_
  · refine ⟨id, id, fun hb => ?_, fun hb => ?_, id⟩
    · rw [hq] at hb
      simp only [List.length_cons] at hb
      dsimp only
      omega
    · dsimp only
      split
      · exact hb
      · rename_i hu
        have := State.chosenFor_room (Bool.not_eq_true _ ▸ hu)
        simp only [List.length_append, List.length_singleton]
        omega
  · rw [Bool.or_eq_true]
    right
    show LinePort.hasSpace (State.pruneClocks _).lp = true
    have : ∀ t : State, t.pruneClocks.lp = t.lp := fun _ => rfl
    rw [this, State.emptySlots_lp]
    exact hs

theorem Steady.serveOne {a s : State} (h : Steady a s) : Steady a s.serveOne := by
  unfold State.serveOne
  split
  · exact h
  · rename_i hq
    split
    · rename_i hc
      simp only [State.canServe, Bool.and_eq_true] at hc
      exact h.serve _ _ hq hc.1.2
    · exact h

theorem Steady.serveAsks {a s : State} (h : Steady a s) (n : Nat) :
    Steady a (State.serveAsks n s) := by
  induction n generalizing s with
  | zero => exact h
  | succ n ih =>
    simp only [State.serveAsks]
    split
    · exact ih h.serveOne
    · exact h

theorem Steady.breakLink {a s : State} (ha : Steady a s) (p : Pos) (o : OrderId) (state : NoticeState) :
    Steady a (s.breakLink p o state) := by
  unfold State.breakLink
  repeat' with_reducible first | exact ha | apply Steady.modNotice | apply Steady.withdrawClaim | apply Steady.enterEmpty

theorem Steady.isolatePosition {a s : State} (ha : Steady a s) (p : Pos) :
    Steady a (s.isolatePosition p) := by
  unfold State.isolatePosition
  dsimp only
  repeat' first
    | with_reducible first | exact ha | apply Steady.breakLink
    | split

theorem Steady.refuseIntake {a s : State} (ha : Steady a s) (r : BenchReport) (v : Nat) :
    Steady a (s.refuseIntake r v) := by
  unfold State.refuseIntake
  dsimp only
  repeat' with_reducible first | exact ha | apply Steady.setSu | apply Steady.benchReport
  all_goals rfl

theorem Steady.useExpected {a s : State} (ha : Steady a s) (e : Expected) :
    Steady a (s.useExpected e) := by
  unfold State.useExpected
  dsimp only
  repeat' first
    | with_reducible first | exact ha | apply Steady.setXu | apply Steady.modLine | apply Steady.produceTaken
    | split
  all_goals constructor <;> intro hb <;>
    first | exact hb | exact le_trans (List.length_filter_le _ _) hb | simpa using hb

theorem Steady.firstState {a s : State} (ha : Steady a s) (i : Nat) (u : UnitRec) (link : Option LineRef) :
    Steady a (s.firstState i u link) := by
  unfold State.firstState
  repeat' first
    | with_reducible first | exact ha | apply Steady.handLine | apply Steady.takeUnit | apply Steady.matchUnit
    | split

theorem Steady.enterUnit {a s : State} (ha : Steady a s) (i : Nat) (l : Label) :
    Steady a (s.enterUnit i l) := by
  unfold State.enterUnit
  dsimp only
  repeat' first
    | with_reducible first | exact ha | apply Steady.setSu | apply Steady.setSlot | apply Steady.useExpected | apply Steady.firstState | apply Steady.showShelf
    | split
  all_goals rfl

theorem Steady.refuseChute {a s : State} (ha : Steady a s) (r : BenchReport) (v : Nat) :
    Steady a (s.refuseChute r v) := by
  unfold State.refuseChute
  dsimp only
  repeat' with_reducible first | exact ha | apply Steady.setSu | apply Steady.benchReport
  all_goals rfl

theorem Steady.chuteRemove {a s : State} (ha : Steady a s) (i : Nat) :
    Steady a (s.chuteRemove i) := by
  unfold State.chuteRemove
  dsimp only
  repeat' first
    | with_reducible first | exact ha | apply Steady.setSu | apply Steady.dropEarmark | apply Steady.pruneClocks | apply Steady.emptySlot | apply Steady.earmarkLost | apply Steady.showShelf
    | split
  all_goals rfl

theorem Steady.holdBack {a s : State} (ha : Steady a s) (p : Pos) (n : UnitNo) :
    Steady a (s.holdBack p n) := by
  unfold State.holdBack
  repeat' first
    | with_reducible first | exact ha | apply Steady.setPut
    | split

theorem Steady.expireOnShelf {a s : State} (ha : Steady a s) (i : Nat) (u : UnitRec) (st : ShelfState) :
    Steady a (s.expireOnShelf i u st) := by
  unfold State.expireOnShelf
  dsimp only
  repeat' first
    | with_reducible first | exact ha | apply Steady.setSlot | apply Steady.dropEarmark | apply Steady.pruneClocks | apply Steady.earmarkLost | apply Steady.holdBack | apply Steady.showShelf
    | split

theorem Steady.expirePlaced {a s : State} (ha : Steady a s) (p : Pos) (n : UnitNo) :
    Steady a (s.expirePlaced p n) := by
  unfold State.expirePlaced
  dsimp only
  repeat' first
    | with_reducible first | exact ha | apply Steady.setBuild | apply Steady.raiseChill | apply Steady.holdBack
    | split

theorem Steady.confirmKey {a s : State} (ha : Steady a s) (p : Pos) (r : PutRec) :
    Steady a (s.confirmKey p r) := by
  unfold State.confirmKey
  repeat' first
    | with_reducible first | exact ha | apply Steady.setPut | apply Steady.confirmPut
    | split

theorem Steady.rejectKey {a s : State} (ha : Steady a s) (p : Pos) (r : PutRec) :
    Steady a (s.rejectKey p r) := by
  unfold State.rejectKey
  dsimp only
  repeat' first
    | with_reducible first | exact ha | apply Steady.regather | apply Steady.rejectPut
    | split

theorem Steady.rejectHeld {a s : State} (ha : Steady a s) (p : Pos) :
    Steady a (s.rejectHeld p) := by
  unfold State.rejectHeld
  repeat' first
    | with_reducible first | exact ha | apply Steady.resolveToGathering | apply Steady.rejectPut
    | split

theorem Steady.resumeKey {a s : State} (ha : Steady a s) (p : Pos) (h : Hold) :
    Steady a (s.resumeKey p h) := by
  unfold State.resumeKey
  dsimp only
  repeat' first
    | with_reducible first | exact ha | apply Steady.setPut | apply Steady.setHold | apply Steady.proceed
    | split

theorem Steady.undoKey {a s : State} (ha : Steady a s) (p : Pos) (h : Hold) :
    Steady a (s.undoKey p h) := by
  unfold State.undoKey
  repeat' with_reducible first | exact ha | apply Steady.setHold | apply Steady.tryRemoval | apply Steady.requestSlot

theorem Steady.dropOp {a s : State} (ha : Steady a s) (p : Pos) :
    Steady a (s.dropOp p) := by
  unfold State.dropOp
  repeat' first
    | with_reducible first | exact ha | apply Steady.setPut | apply Steady.cancelPut | apply Steady.showTray
    | split

theorem Steady.dropCauses {a s : State} (ha : Steady a s) (p : Pos) (h : Hold) :
    Steady a (s.dropCauses p h) := by
  unfold State.dropCauses
  repeat' with_reducible first | exact ha | apply Steady.setHold | apply Steady.showTray

theorem Steady.abandonKey {a s : State} (ha : Steady a s) (p : Pos) (h : Hold) :
    Steady a (s.abandonKey p h) := by
  unfold State.abandonKey
  dsimp only
  repeat' first
    | with_reducible first | exact ha | apply Steady.setBuild | apply Steady.setHold | apply Steady.releaseSlot | apply Steady.unlinkBuild | apply Steady.matchUnits | apply Steady.freeEarmarks | apply Steady.unloadOn | apply Steady.resumeOp | apply Steady.dropOp | apply Steady.dropCauses | apply Steady.showBuild | apply Steady.showTray
    | split

theorem joinOffers_length (xs : List OfferEntry) (k : Station) (c : ItemCode) (q : Nat)
    (h : xs.length ≤ 16) : (joinOffers xs k c q).length ≤ 16 := by
  unfold joinOffers
  dsimp only
  have := List.length_filter_le (fun e : OfferEntry => !(decide (e.station = k) && decide (e.code = c))) xs
  split
  · rename_i hl
    simp only [Config.maxOffers] at hl
    simp only [List.length_append, List.length_drop, List.length_singleton]
    omega
  · rename_i hl
    simp only [Config.maxOffers] at hl
    simp only [List.length_append, List.length_singleton]
    omega

theorem Steady.takeOffer {a s : State} (h : Steady a s) (k : Station) (c : ItemCode) (q : Nat) :
    Steady a (s.takeOffer k c q) := by
  unfold State.takeOffer
  dsimp only
  have ht : Steady a (s.setXu { s.xu with offers := joinOffers s.xu.offers k c q }) := by
    refine Steady.setXu h _ ?_
    exact ⟨id, joinOffers_length _ _ _ _, id, id, id⟩
  split
  · exact Steady.foldl ht _ (fun t x k => k.takeLine x) _
  · exact ht

theorem Steady.joinAsk {a s : State} (h : Steady a s) (k : Station) (c : ItemCode) (q : Nat) :
    Steady a (s.joinAsk k c q) := by
  unfold State.joinAsk
  split
  · rename_i hl
    simp only [Config.maxAsks] at hl
    refine Steady.setXu h _ ?_
    exact ⟨id, id, fun _ => by simp; omega, id, id⟩
  · exact h

theorem Steady.dropExpected {a s : State} (ha : Steady a s) (e : Expected) :
    Steady a (s.dropExpected e) := by
  unfold State.dropExpected
  dsimp only
  repeat' first
    | with_reducible first | exact ha | apply Steady.setXu | apply Steady.modLine
    | split
  all_goals constructor <;> intro hb <;>
    first | exact hb | exact le_trans (List.length_filter_le _ _) hb | simpa using hb

theorem Steady.transferLate {a s : State} (ha : Steady a s) (link : Option LineRef) (n : Nat) :
    Steady a (s.transferLate link n) := by
  unfold State.transferLate
  repeat' with_reducible first | exact ha | apply Steady.benchReport

theorem Steady.handLink {a s : State} (h : Steady a s) (l : Option LineRef) :
    Steady a (s.handLink l) := by
  cases l with
  | none => exact h
  | some r => exact h.handLine r

theorem Steady.expectGrant {a s : State} (h : Steady a s) (k : Station) (n : Seq) (c : ItemCode)
    (es : List Nat) (hl : s.xu.expected.length < 8) : Steady a (s.expectGrant k n c es) := by
  unfold State.expectGrant
  dsimp only
  split
  · refine Steady.setXu h _ ?_
    exact ⟨id, id, id, id, fun _ => by simp; omega⟩
  · refine Steady.handLine (Steady.setXu (Steady.modLine (Steady.clearAsk h _)
      _ _ _) _ ?_) _
    exact ⟨id, id, id, id, fun _ => by simp [State.modLine, State.clearAsk]; omega⟩

theorem Steady.turnAway {a s : State} (ha : Steady a s) (k : Station) (n : Seq) (c : ItemCode) (q : Nat) :
    Steady a (s.turnAway k n c q) := by
  unfold State.turnAway
  repeat' first
    | with_reducible first | exact ha | apply Steady.clearAndHand | apply Steady.produceTaken | apply Steady.transferLate
    | split

theorem Steady.takeUnits {a s : State} (h : Steady a s) (k : Station) (n : Seq) (c : ItemCode)
    (es : List Nat) : Steady a (s.takeUnits k n c es) := by
  unfold State.takeUnits
  split
  · exact h.expectGrant _ _ _ _ ‹_›
  · exact h.turnAway _ _ _ _

theorem Steady.takeNothing {a s : State} (ha : Steady a s) (k : Station) (c : ItemCode) :
    Steady a (s.takeNothing k c) := by
  unfold State.takeNothing
  repeat' first
    | with_reducible first | exact ha | apply Steady.clearAndHand
    | split

theorem Steady.takeGrant {a s : State} (ha : Steady a s) (k : Station) (n : Seq) (c : ItemCode) (es : List Nat) :
    Steady a (s.takeGrant k n c es) := by
  unfold State.takeGrant
  repeat' first
    | with_reducible first | exact ha | apply Steady.dropExpected | apply Steady.transferLate | apply Steady.handLink | apply Steady.takeUnits | apply Steady.takeNothing
    | split

theorem Steady.endOutbound {a s : State} (h : Steady a s) (n : Seq) :
    Steady a (s.endOutbound n) := by
  unfold State.endOutbound
  dsimp only
  refine Steady.showShelf (Steady.setSu (Steady.setXu h _ ?_) _ ?_)
  · exact ⟨id, id, id, le_trans (List.length_filter_le _ _), id⟩
  · simp

theorem Steady.takeTaken {a s : State} (ha : Steady a s) (k : Station) (n : Seq) (received : Nat) :
    Steady a (s.takeTaken k n received) := by
  unfold State.takeTaken
  dsimp only
  repeat' first
    | with_reducible first | exact ha | apply Steady.benchReport | apply Steady.endOutbound
    | split

theorem evicted_mem {ns : List Notice} {n : Notice} (h : evicted ns = some n) : n ∈ ns := by
  unfold evicted at h
  split at h
  · cases h
    exact List.mem_of_find?_eq_some ‹_›
  · split at h
    · cases h
      exact List.mem_of_find?_eq_some ‹_›
    · exact List.mem_of_find?_eq_some h

/-- Room for one more notice: the list it leaves is short enough. -/
theorem Steady.makeRoom {a s t : State} (h : Steady a s) (hm : s.makeRoom = some t) :
    Steady a t ∧ (s.cu.notices.length ≤ 32 → t.cu.notices.length < 32) := by
  unfold State.makeRoom at hm
  split at hm
  · rename_i hl
    cases hm
    exact ⟨h, fun _ => hl⟩
  · split at hm
    · rename_i n hn
      cases hm
      refine ⟨h.removeNotice _, fun hb => ?_⟩
      have hmem := evicted_mem hn
      have : (s.cu.notices.filter (fun m => decide (m.order ≠ n.order))).length < s.cu.notices.length :=
        List.length_filter_lt_length_iff_exists.2 ⟨n, hmem, by simp⟩
      exact lt_of_lt_of_le this hb
    · cases hm

theorem Steady.joinNotice {a s t : State} (h : Steady a s) (hm : s.makeRoom = some t) (n : Notice) :
    Steady a (t.joinNotice n) := by
  obtain ⟨ht, hl⟩ := h.makeRoom hm
  have hs : a.Bounded → t.cu.notices.length < 32 := fun b => hl (h.bounded b).notices
  exact ⟨ht.jc, ht.wf, ht.pending, ht.stopped, ht.localStop, ht.panel, fun b =>
    { ht.bounded b with
      notices := by
        have := hs b
        simp only [State.joinNotice, State.setCu_cu, List.length_append, List.length_singleton]
        omega }⟩

theorem Steady.newNotice {a s : State} (h : Steady a s) (b : WireNotice) (i : NoticeInfo) :
    Steady a (s.newNotice b i) := by
  unfold State.newNotice
  split
  · exact h.benchReport _ _ _
  · dsimp only
    split
    · exact Steady.lookAll (h.joinNotice ‹_› _)
    · exact h.joinNotice ‹_› _

theorem Steady.takeNotice {a s : State} (ha : Steady a s) (b : WireNotice) (i : NoticeInfo) :
    Steady a (s.takeNotice b i) := by
  unfold State.takeNotice
  dsimp only
  repeat' first
    | with_reducible first | exact ha | apply Steady.modNotice | apply Steady.lookAll | apply Steady.newNotice
    | split

theorem Steady.renumberFrom {a s : State} (h : Steady a s) (n : Nat) (ps : List Pos) :
    Steady a (renumberFrom n ps s) := by
  induction ps generalizing n s with
  | nil => exact h
  | cons p ps ih => exact ih (Steady.setBuild h _ _) _

theorem Steady.countClaim {a s : State} (h : Steady a s) : Steady a s.countClaim := by
  unfold State.countClaim
  split
  · exact Steady.setCounter h _
  · exact Steady.setCounter (Steady.renumberFrom h _ _) _

theorem Steady.claimSuccess {a s : State} (ha : Steady a s) (p : Pos) (o : OrderId) :
    Steady a (s.claimSuccess p o) := by
  unfold State.claimSuccess
  dsimp only
  repeat' with_reducible first | exact ha | apply Steady.setBuild | apply Steady.modNotice | apply Steady.exactFill | apply Steady.coverage | apply Steady.handLines | apply Steady.countClaim | apply Steady.showBuild

theorem Steady.makeSkeleton {a s : State} (h : Steady a s) (o : OrderId) (k : Station) :
    Steady a (s.makeSkeleton o k) := by
  unfold State.makeSkeleton
  split
  · exact h.benchReport _ _ _
  · exact h.joinNotice ‹_› _

theorem Steady.claimByOther {a s : State} (ha : Steady a s) (o : OrderId) (k : Station) :
    Steady a (s.claimByOther o k) := by
  unfold State.claimByOther
  repeat' first
    | with_reducible first | exact ha | apply Steady.modNotice | apply Steady.producePrior | apply Steady.breakLink | apply Steady.makeSkeleton
    | split

theorem Steady.claimBack {a s : State} (ha : Steady a s) (o : OrderId) :
    Steady a (s.claimBack o) := by
  unfold State.claimBack
  repeat' first
    | with_reducible first | exact ha | apply Steady.claimSuccess
    | split

theorem Steady.goGone {a s : State} (ha : Steady a s) (p : Pos) (o : OrderId) (k : Station) :
    Steady a (s.goGone p o k) := by
  unfold State.goGone
  repeat' with_reducible first | exact ha | apply Steady.modNotice

theorem Steady.silence {a s : State} (ha : Steady a s) (p : Pos) :
    Steady a (s.silence p) := by
  unfold State.silence
  repeat' with_reducible first | exact ha | apply Steady.setBuild

theorem Steady.raiseGone {a s : State} (ha : Steady a s) (p : Pos) (k : Station) :
    Steady a (s.raiseGone p k) := by
  unfold State.raiseGone
  repeat' with_reducible first | exact ha | apply Steady.raise

theorem Steady.yieldTo {a s : State} (ha : Steady a s) (p : Pos) (o : OrderId) (k : Station) :
    Steady a (s.yieldTo p o k) := by
  unfold State.yieldTo
  repeat' first
    | with_reducible first | exact ha | apply Steady.modNotice | apply Steady.enterEmpty | apply Steady.goGone | apply Steady.silence | apply Steady.raiseGone
    | split

theorem Steady.takePrior {a s : State} (ha : Steady a s) (o : OrderId) (k : Station) :
    Steady a (s.takePrior o k) := by
  unfold State.takePrior
  repeat' first
    | with_reducible first | exact ha | apply Steady.modNotice | apply Steady.breakLink | apply Steady.goGone | apply Steady.yieldTo
    | split

theorem Steady.takeRelease {a s : State} (ha : Steady a s) (o : OrderId) (k : Station) :
    Steady a (s.takeRelease o k) := by
  unfold State.takeRelease
  dsimp only
  repeat' first
    | with_reducible first | exact ha | apply Steady.modNotice | apply Steady.lookAll
    | split

theorem Steady.doneByOther {a s : State} (ha : Steady a s) (p : Pos) (o : OrderId) (k : Station) :
    Steady a (s.doneByOther p o k) := by
  unfold State.doneByOther
  repeat' first
    | with_reducible first | exact ha | apply Steady.goGone | apply Steady.silence | apply Steady.raiseGone
    | split

theorem Steady.takeDone {a s : State} (ha : Steady a s) (o : OrderId) (k : Station) (own : Bool) :
    Steady a (s.takeDone o k own) := by
  unfold State.takeDone
  repeat' first
    | with_reducible first | exact ha | apply Steady.removeNotice | apply Steady.withdrawClaim | apply Steady.enterEmpty | apply Steady.doneByOther
    | split

theorem Steady.expireExact {a s : State} (ha : Steady a s) (r : LineRef) :
    Steady a (s.expireExact r) := by
  unfold State.expireExact
  dsimp only
  repeat' with_reducible first | exact ha | apply Steady.modLine | apply Steady.fillLine | apply Steady.coverage

theorem Steady.gatherLate {a s : State} (ha : Steady a s) (p : Pos) :
    Steady a (s.gatherLate p) := by
  unfold State.gatherLate
  repeat' first
    | with_reducible first | exact ha | apply Steady.raise | apply Steady.enterEmpty | apply Steady.releaseOrder
    | split

theorem Steady.retryLine {a s : State} (ha : Steady a s) (r : LineRef) :
    Steady a (s.retryLine r) := by
  unfold State.retryLine
  repeat' first
    | with_reducible first | exact ha | apply Steady.modLine | apply Steady.wantFor
    | split

theorem Steady.transferEnds {a s : State} (ha : Steady a s) (e : Expected) :
    Steady a (s.transferEnds e) := by
  unfold State.transferEnds
  repeat' with_reducible first | exact ha | apply Steady.produceTaken | apply Steady.dropExpected | apply Steady.transferLate | apply Steady.handLink

theorem Steady.dropOffers {a s : State} (ha : Steady a s) (k : Station) :
    Steady a (s.dropOffers k) := by
  unfold State.dropOffers
  repeat' with_reducible first | exact ha | apply Steady.setXu
  all_goals constructor <;> intro hb <;>
    first | exact hb | exact le_trans (List.length_filter_le _ _) hb | simpa using hb

theorem Steady.reopenOrders {a s : State} (ha : Steady a s) (k : Station) :
    Steady a (s.reopenOrders k) := by
  unfold State.reopenOrders
  dsimp only
  repeat' first
    | with_reducible first | exact ha | apply Steady.setCu | apply Steady.lookAll
    | split
  all_goals intro hb; simpa using hb

theorem Steady.forgetStation {a s : State} (ha : Steady a s) (k : Station) :
    Steady a (s.forgetStation k) := by
  unfold State.forgetStation
  dsimp only
  repeat' first
    | with_reducible first | exact ha | assumption | apply Steady.setXu | apply Steady.clearAndHand | apply Steady.dropOffers | apply Steady.foldl
    | intro _ _ _
  all_goals constructor <;> intro hb <;>
    first | exact hb | exact le_trans (List.length_filter_le _ _) hb | simpa using hb

end Sys2Proof.Machine
end

