-- ==== Sys2Proof/Laws/Bounded.lean ====
section
/-! SUPPORT. The operations that are not steady, because they change a value of JC or WF, STOPPED or the
hand-over sequence, keep the capacities: hand-over and receiving, the line, STOPPED, ISOLATED, ACTIVE,
ROLL, the resets, the sweep and the second. -/

namespace Sys2Proof.Machine

theorem State.Bounded.setJc {s : State} (h : s.Bounded) (v : Join) : (s.setJc v).Bounded := { h with }

theorem State.Bounded.setHc {s : State} (h : s.Bounded) (v : HoldCtl) : (s.setHc v).Bounded := { h with }

theorem State.Bounded.setPlatform {s : State} (h : s.Bounded) (p : Pos) (v : Platform) :
    (s.setPlatform p v).Bounded := { h with }

theorem State.Bounded.setLp {s : State} (h : s.Bounded) (v : LinePort) (hp : v.places ≤ 8)
    (hr : v.received ≤ 12) (hk : v.received13 ≤ 11) : (s.setLp v).Bounded :=
  { h with places := hp, received := hr, received13 := hk }

theorem State.Bounded.foldl {α : Type} {s : State} (h : s.Bounded) (f : State → α → State)
    (hf : ∀ t x, t.Bounded → (f t x).Bounded) (xs : List α) : (xs.foldl f s).Bounded := by
  induction xs generalizing s with
  | nil => exact h
  | cons x xs ih => exact ih (hf s x h)

/-- What is steady keeps the capacities. -/
theorem State.Bounded.of {s t : State} (h : s.Bounded) (k : Steady s t) : t.Bounded := k.bounded h

/-! ### The line -/

theorem takeFor_countP (test : Handed → Bool) (o : Owner) (hs : List Handed) {x : Handed}
    {rest : List Handed} (h : takeFor o hs = some (x, rest)) : rest.countP test ≤ hs.countP test := by
  induction hs generalizing x rest with
  | nil => simp [takeFor] at h
  | cons y ys ih =>
    simp only [takeFor] at h
    split at h
    · obtain ⟨rfl, rfl⟩ : y = x ∧ ys = rest := by simpa using h
      rw [List.countP_cons]; omega
    · cases ht : takeFor o ys with
      | none => rw [ht] at h; simp at h
      | some z =>
        obtain ⟨z, zs⟩ := z
        rw [ht] at h
        obtain ⟨rfl, rfl⟩ : z = x ∧ y :: zs = rest := by simpa using h
        have := ih ht
        simp only [List.countP_cons]
        omega

/-- A frame handed over leaves its receive slot. -/
theorem State.Bounded.handOver {s : State} (hb : s.Bounded) {k : Kind} {h : Handed} {t : State}
    (hh : s.handOver k = some (h, t)) : t.Bounded := by
  unfold State.handOver at hh
  split at hh
  · rename_i x rest ht
    have h1 := takeFor_countP (fun h => !h.own) _ _ ht
    have h2 := takeFor_countP (fun h => !h.own && decide (h.kind.cls ≠ 0)) _ _ ht
    have hl : (s.setLp { s.lp with handover := rest }).Bounded :=
      hb.setLp _ hb.places (le_trans h1 hb.received) (le_trans h2 hb.received13)
    split at hh
    · obtain ⟨rfl, rfl⟩ := by simpa using hh
      split
      · exact hl
      · exact hl.setJc _
    · simp at hh
  · simp at hh

theorem dropLatest0_countP (hs : List Handed)
    (h : hs.any (fun x => !x.own && decide (x.kind.cls = 0)) = true) :
    (dropLatest0 hs).countP (fun x => !x.own) + 1 = hs.countP (fun x => !x.own)
    ∧ (dropLatest0 hs).countP (fun x => !x.own && decide (x.kind.cls ≠ 0))
      = hs.countP (fun x => !x.own && decide (x.kind.cls ≠ 0)) := by
  induction hs with
  | nil => simp at h
  | cons y ys ih =>
    simp only [dropLatest0]
    split
    · rename_i hy
      obtain ⟨h1, h2⟩ := ih hy
      simp only [List.countP_cons]
      omega
    · rename_i hy
      rw [List.any_cons, Bool.or_eq_true] at h
      have hy0 := h.resolve_right hy
      rw [if_pos hy0]
      rw [Bool.and_eq_true, decide_eq_true_eq] at hy0
      simp [hy0.1, hy0.2]

theorem countP_received (hs : List Handed) :
    hs.countP (fun x => !x.own)
      = hs.countP (fun x => !x.own && decide (x.kind.cls = 0))
        + hs.countP (fun x => !x.own && decide (x.kind.cls ≠ 0)) := by
  induction hs with
  | nil => rfl
  | cons y ys ih =>
    simp only [List.countP_cons, ih]
    cases y.own <;> by_cases h : y.kind.cls = 0 <;> simp [h] <;> omega

/-- A full receive buffer within its limits holds a class 0 frame. -/
theorem State.Bounded.holds0 {s : State} (hb : s.Bounded) (hf : 12 ≤ s.lp.received) :
    s.lp.handover.any (fun x => !x.own && decide (x.kind.cls = 0)) = true := by
  have h1 := hb.received13
  have h2 := countP_received s.lp.handover
  simp only [LinePort.received, LinePort.received13] at *
  have h3 : 0 < s.lp.handover.countP (fun x => !x.own && decide (x.kind.cls = 0)) := by omega
  obtain ⟨x, hx, ht⟩ := List.countP_pos_iff.mp h3
  exact List.any_eq_true.mpr ⟨x, hx, ht⟩

theorem State.Bounded.receive {s : State} (hb : s.Bounded) (h : Handed) : (s.receive h).Bounded := by
  unfold State.receive
  split
  · rename_i hc
    unfold State.receive0
    dsimp only
    have h12 := hb.received
    have h11 := hb.received13
    by_cases hr : s.lp.received < Config.maxReceive
    · rw [if_pos hr]
      simp only [Config.maxReceive] at hr
      refine hb.setLp _ hb.places ?_ ?_ <;> simp only [LinePort.received, LinePort.received13] at *
      · rw [List.countP_append, List.countP_singleton]
        split <;> omega
      · rw [List.countP_append, List.countP_singleton]
        simpa [hc] using h11
    · rw [if_neg hr]
      simp only [Config.maxReceive, not_lt] at hr
      obtain ⟨h1, h2⟩ := dropLatest0_countP _ (hb.holds0 hr)
      refine hb.setLp _ hb.places ?_ ?_ <;> simp only [LinePort.received, LinePort.received13] at *
      · rw [List.countP_append, List.countP_singleton]
        split <;> omega
      · rw [List.countP_append, List.countP_singleton, h2]
        simpa [hc] using h11
  · split
    · rename_i hr
      simp only [Config.maxReceive] at hr
      refine hb.setLp _ hb.places ?_ ?_ <;> simp only [LinePort.received, LinePort.received13] at *
      · rw [List.countP_append, List.countP_singleton]; split <;> omega
      · rw [List.countP_append, List.countP_singleton]; split <;> omega
    · unfold State.dropFrame
      dsimp only
      have h2 : (s.benchReport .frameDropped none h.kind.code.toNat).Bounded :=
        hb.of ((Steady.refl s).benchReport _ _ _)
      exact h2.setLp _ h2.places h2.received h2.received13

/-- The head of the queue that begins to contend keeps its place. -/
theorem State.Bounded.beginContention {s : State} (hb : s.Bounded) : s.beginContention.Bounded := by
  unfold State.beginContention
  split
  · rename_i hs hc hq
    split
    · exact hb
    · refine hb.setLp _ ?_ hb.received hb.received13
      have hp := hb.places
      simp only [LinePort.places, LinePort.unstarted, hs, hc, hq, List.length_append, List.length_cons,
        Option.map_none, Option.map_some, Option.toList_none, Option.toList_some, List.length_nil] at hp ⊢
      omega
  · exact hb

/-- A frame that has won its contention starts in the place it had. -/
theorem State.Bounded.startFrame {s : State} (hb : s.Bounded) {c : Contending}
    (hc : s.lp.contending = some c) (f : Frame) : (s.startFrame f).Bounded := by
  refine hb.setLp _ ?_ hb.received hb.received13
  have hp := hb.places
  simp only [LinePort.places, LinePort.unstarted, hc, List.length_append, Option.map_none,
    Option.map_some, Option.toList_none, Option.toList_some, List.length_cons, List.length_nil] at hp ⊢
  simp only [if_true]
  omega

/-- A frame that has lost its contention has the place in the queue it came from. -/
theorem State.Bounded.loseContention {s : State} (hb : s.Bounded) {c : Contending}
    (hc : s.lp.contending = some c) :
    (s.setLp { s.lp.putBack c.frame with contending := none }).Bounded := by
  refine hb.setLp _ ?_ hb.received hb.received13
  have hp := hb.places
  simp only [LinePort.places, LinePort.unstarted, LinePort.putBack, hc, List.length_append,
    insertBy_length, Option.map_none, Option.map_some, Option.toList_none, Option.toList_some,
    List.length_cons, List.length_nil] at hp ⊢
  omega

/-- A frame that has lost its contention with its withdrawal held leaves the queue. -/
theorem State.Bounded.withdrawContending {s : State} (hb : s.Bounded) :
    (s.setLp { s.lp with contending := none }).Bounded := by
  refine hb.setLp _ ?_ hb.received hb.received13
  have hp := hb.places
  simp only [LinePort.places, LinePort.unstarted, List.length_append, Option.map_none,
    Option.toList_none, List.length_nil] at hp ⊢
  omega

theorem State.Bounded.abortFrame {s : State} (hb : s.Bounded) {x : Started} (hx : s.lp.started = some x) :
    (s.abortFrame x).Bounded := by
  unfold State.abortFrame
  dsimp only
  have hp := hb.places
  simp only [LinePort.places, hx] at hp
  split
  · rename_i h
    rw [Bool.and_eq_true] at h
    rw [h.1, if_pos rfl] at hp
    refine hb.setLp _ ?_ hb.received hb.received13
    simp only [LinePort.places, LinePort.unstarted, LinePort.putBack, List.length_append,
      insertBy_length] at hp ⊢
    omega
  · refine hb.setLp _ ?_ hb.received hb.received13
    simp only [LinePort.places, LinePort.unstarted] at hp ⊢
    omega

theorem State.Bounded.completeFrame {s : State} (hb : s.Bounded) (x : Started) :
    (s.completeFrame x).Bounded := by
  unfold State.completeFrame
  refine hb.setLp _ ?_ ?_ ?_
  · have hp := hb.places
    simp only [LinePort.places, LinePort.unstarted] at *
    omega
  · have h := hb.received
    simp only [LinePort.received] at *
    simpa using h
  · have h := hb.received13
    simp only [LinePort.received13] at *
    simpa using h

/-! ### STOPPED, ISOLATED, ACTIVE and ROLL -/

theorem State.Bounded.enterStopped {s : State} (hb : s.Bounded) : s.enterStopped.Bounded := by
  unfold State.enterStopped
  dsimp only
  refine State.Bounded.foldl ?_ _ (fun t r ht => ht.of ((Steady.refl t).clearAsk r)) _
  exact { hb with askQueue := Nat.zero_le _ }

theorem State.Bounded.clearStopped {s : State} (hb : s.Bounded) : s.clearStopped.Bounded := by
  unfold State.clearStopped
  dsimp only
  refine State.Bounded.foldl ?_ _ (fun t r ht => ht.of ((Steady.refl t).handLine r)) _
  refine State.Bounded.of ?_ (Steady.refl _).lookAll
  refine State.Bounded.foldl ?_ _ (fun t p ht => ht.of (((Steady.refl t).nextPut p).tryRemoval p)) _
  refine State.Bounded.foldl ?_ _ (fun t p ht => ?_) _
  · exact State.Bounded.of (hb.setHc _) (Steady.refl _).resendLamps
  · unfold State.resumeJudged
    split
    · split
      · exact ht.of (((Steady.refl t).resumeOp p).showTray p)
      · exact ht
    · exact ht

theorem State.Bounded.enterIsolated {s : State} (hb : s.Bounded) : s.enterIsolated.Bounded := by
  unfold State.enterIsolated
  dsimp only
  refine State.Bounded.foldl ?_ _ (fun t p ht => ht.of ((Steady.refl t).isolatePosition p)) _
  refine State.Bounded.foldl ?_ _ (fun t r ht => ht.of ((Steady.refl t).clearAsk r)) _
  refine { hb with claimWaiting := Nat.zero_le _, exchangeWaiting := Nat.zero_le _,
                   askQueue := Nat.zero_le _, places := ?_ }
  simp only [LinePort.places, LinePort.unstarted, State.setJc, State.setLp, State.setHc, State.setCu,
    State.setXu]
  cases s.lp.started <;> simp

theorem State.Bounded.enterActive {s : State} (hb : s.Bounded) : s.enterActive.Bounded := by
  unfold State.enterActive
  exact (hb.setJc _).of (Steady.refl _).lookAll

theorem State.Bounded.offerRoll {s : State} (hb : s.Bounded) (fresh : Bool) :
    (s.offerRoll fresh).Bounded := by
  unfold State.offerRoll
  split
  · rename_i ha
    exact (hb.of ((Steady.refl s).transmit _ (State.accepts3_space ha))).setJc _
  · exact hb.setJc _

theorem State.Bounded.takeRoll {s : State} (hb : s.Bounded) (k : Station) (fresh : Bool) :
    (s.takeRoll k fresh).Bounded := by
  unfold State.takeRoll
  split
  · split
    · exact hb
    · exact hb.enterIsolated.of ((Steady.refl _).benchReport _ _ _)
  · split
    · exact hb.of (((Steady.refl s).reopenOrders k).forgetStation k)
    · exact hb

theorem State.Bounded.takeSetup {s : State} (hb : s.Bounded) (b : WireSetup) :
    (s.takeSetup b).Bounded := by
  unfold State.takeSetup
  dsimp only
  exact State.Bounded.enterActive
    (State.Bounded.foldl (hb.setJc _) _ (fun t n ht => ht.of ((Steady.refl t).benchReport _ _ _)) _)

/-! ### Resets, the sweep and the second -/

theorem Panel.allOwed_lamps (fitted : Nat) : (Panel.allOwed fitted).lamps.length = 86 := by
  simp [Panel.allOwed, Pos.all]

theorem State.cleared_bounded (s : State) (station : Station) (positions rate : BitVec 2) :
    (s.cleared station positions rate).Bounded := by
  constructor <;> first
    | exact Panel.allOwed_lamps _
    | simp [State.cleared, Panel.allOwed, Stock.reset, Exchange.reset, LinePort.reset, LinePort.places,
        LinePort.unstarted, LinePort.received, LinePort.received13, Config.tableSlots]

theorem State.Bounded.benchCleared {s : State} (hb : s.Bounded) : s.benchCleared.Bounded := by
  constructor <;> first
    | (simp only [State.benchCleared, LinePort.reset, LinePort.places, LinePort.unstarted]
       cases s.lp.started <;> simp; done)
    | exact Panel.allOwed_lamps _
    | exact le_trans (List.length_filterMap_le _ _) hb.notices
    | simp [State.benchCleared, Panel.allOwed, Stock.reset, Exchange.reset, LinePort.reset,
        LinePort.received, LinePort.received13, Config.tableSlots]

theorem State.Bounded.sweep {s : State} (hb : s.Bounded) (readings : PerPos Quad) (ps : List Pos) :
    (ps.foldl (State.sweepResult readings) (ps.foldl (State.readPlatform readings) s)).Bounded :=
  State.Bounded.foldl
    (State.Bounded.foldl hb _ (fun _ p ht => ht.setPlatform p _) _) _
    (fun t p ht => ht.of ((Steady.refl t).sweepResult readings p)) _

theorem State.Bounded.recordSent {s : State} (hb : s.Bounded) : s.recordSent.Bounded := by
  unfold State.recordSent
  refine State.Bounded.fillOwed (hb.setPl { s.pl with buffer := s.pl.buffer.drop 1 } rfl ?_) _
  have := hb.buffer
  simp only [List.length_drop]
  omega

theorem State.Bounded.tick {s : State} (hb : s.Bounded) : s.tick.Bounded := by
  have hl : (Pos.all.foldl State.limitSecond s).Bounded := by
    refine State.Bounded.foldl hb _ (fun t p ht => ?_) _
    unfold State.limitSecond
    split
    · split
      · exact ht.of ((Steady.refl t).setPut _ _)
      · exact ht
    · exact ht
  have hc : s.counted.Bounded :=
    { hl with
      slots := by simpa [State.counted] using hl.slots
      offers := by simpa [State.counted, Exchange.second] using hl.offers
      outbound := by simpa [State.counted, Exchange.second] using hl.outbound
      expected := by simpa [State.counted, Exchange.second] using hl.expected }
  exact { hc with }

end Sys2Proof.Machine
end

