-- ==== Sys2Proof/Laws/Lamps.lean ====
section
/-! SUPPORT. The 86 lamp values by index, and what the end of a command leaves of the panel: every lamp's
value and every fitted position's record as the state has them, which is what `State.PanelTrue` says by the
tables of the manual. -/

namespace Sys2Proof.Machine

theorem numbered_getElem? {α : Type} (xs : List α) (n i : Nat) :
    (numbered n xs)[i]? = (xs[i]?).map (fun x => (n + i, x)) := by
  induction xs generalizing n i with
  | nil => simp [numbered]
  | cons x xs ih =>
    cases i with
    | zero => simp [numbered]
    | succ i => simp [numbered, ih, Nat.add_right_comm, Nat.add_assoc]

theorem numbered_length {α : Type} (n : Nat) (xs : List α) : (numbered n xs).length = xs.length := by
  induction xs generalizing n with
  | nil => rfl
  | cons x xs ih => simp [numbered, ih]

theorem State.shelfLamps_length (s : State) : s.shelfLamps.length = s.su.slots.length + 2 := by
  simp [State.shelfLamps, numbered_length]

/-- The values of the four trays, 8 cells each. -/
theorem trayRows_length (s : State) :
    (Pos.all.map (fun p => if s.isFitted p = true then (List.range 8).map (s.trayLamp p)
      else List.replicate 8 LampShow.dark)).flatten.length = 32 := by
  simp only [Pos.all, List.map_cons, List.map_nil, List.flatten_cons, List.flatten_nil, List.length_append,
    List.length_nil]
  split <;> split <;> split <;> split <;> simp

theorem State.lampValues_length (s : State) (h : s.su.slots.length = 48) : s.lampValues.length = 86 := by
  rw [State.lampValues, List.length_append, List.length_append, trayRows_length, s.shelfLamps_length, h]
  simp [Pos.all]

/-- A slot's lamp among the values. -/
theorem State.lampValues_slot (s : State) (h : s.su.slots.length = 48) (i : Nat) (hi : i < 48) :
    s.lampValues[i]? = some (slotLamp s.hc.stopped s.su.amberSlot i (s.su.slot i)) := by
  have hl : i < s.shelfLamps.length := by rw [s.shelfLamps_length, h]; omega
  have hn : i < (numbered 0 s.su.slots).length := by rw [numbered_length, h]; omega
  rw [State.lampValues, List.append_assoc, List.getElem?_append_left hl, State.shelfLamps,
    List.getElem?_append_left (by simpa using hn), List.getElem?_map, numbered_getElem?]
  have : s.su.slots[i]? = some s.su.slots[i] := List.getElem?_eq_getElem (by omega)
  simp [Stock.slot, this]

/-- The scanner lamps among the values. -/
theorem State.lampValues_scanners (s : State) (h : s.su.slots.length = 48) :
    s.lampValues[48]? = some (scannerLamp s.hc.stopped s.su.intakeLamp)
      ∧ s.lampValues[49]? = some (scannerLamp s.hc.stopped s.su.chuteLamp) := by
  have hn : (numbered 0 s.su.slots).length = 48 := by rw [numbered_length, h]
  constructor <;>
    simp [State.lampValues, State.shelfLamps, List.getElem?_append, hn]

/-- An index into rows of equal length. -/
theorem flatten_getElem? {α : Type} (w : Nat) (rows : List (List α)) (h : ∀ r ∈ rows, r.length = w)
    (k c : Nat) (hc : c < w) : rows.flatten[w * k + c]? = (rows[k]?).bind (·[c]?) := by
  induction rows generalizing k with
  | nil => simp
  | cons r rows ih =>
    have hr := h r (by simp)
    cases k with
    | zero => simp [List.getElem?_append_left, hr, hc]
    | succ k =>
      rw [List.flatten_cons, List.getElem?_append_right (by rw [hr, Nat.mul_succ]; omega), hr,
        Nat.mul_succ, show w * k + w + c - w = w * k + c by omega, ih (fun x hx => h x (by simp [hx]))]
      simp

theorem Pos.all_index (p : Pos) : Pos.all[p.index]? = some p := by cases p <;> rfl

/-- A fitted position's tray lamp among the values. -/
theorem State.lampValues_tray (s : State) (h : s.su.slots.length = 48) (p : Pos) (c : Nat)
    (hp : s.isFitted p = true) (hc : c < 8) :
    s.lampValues[50 + 8 * p.index + c]? = some (s.trayLamp p c) := by
  have hl : s.shelfLamps.length = 50 := by rw [s.shelfLamps_length, h]
  have hrows : ∀ r ∈ Pos.all.map (fun q => if s.isFitted q = true then (List.range 8).map (s.trayLamp q)
      else List.replicate 8 .dark), r.length = 8 := by
    intro r hr
    obtain ⟨q, -, rfl⟩ := List.mem_map.mp hr
    split <;> simp
  have hin := flatten_getElem? 8 _ hrows p.index c hc
  rw [List.getElem?_map, Pos.all_index] at hin
  simp only [Option.map_some, hp, if_true, Option.bind_some] at hin
  rw [State.lampValues, List.append_assoc, List.getElem?_append_right (by omega), hl,
    show 50 + 8 * p.index + c - 50 = 8 * p.index + c by omega]
  have hc' : ((List.range 8).map (s.trayLamp p))[c]? = some (s.trayLamp p c) := by simp [hc]
  rw [hc'] at hin
  rw [List.getElem?_append_left (List.getElem?_eq_some_iff.mp hin).1, hin]

/-- A fitted position's own lamp among the values. -/
theorem State.lampValues_position (s : State) (h : s.su.slots.length = 48) (p : Pos)
    (hp : s.isFitted p = true) : s.lampValues[82 + p.index]? = some (s.positionLamp p) := by
  rw [State.lampValues, List.getElem?_append_right (by
      rw [List.length_append, trayRows_length, s.shelfLamps_length, h]; omega),
    List.length_append, trayRows_length, s.shelfLamps_length, h, Nat.add_sub_cancel_left, List.getElem?_map,
    Pos.all_index]
  simp [hp]

/-- What the panel was last told or is owed is every value of the state's lamps and records. -/
structure State.ShownTrue (s : State) : Prop where
  lamp : ∀ n, n < 86 → s.lampShown n = s.lampValues[n]?
  record : ∀ p, s.isFitted p = true → (s.pl.positions.get p).shown = s.posShow p

theorem State.namedCell_iff (s : State) (p : Pos) (c : Nat) :
    s.namedCell p c = true ↔ ∃ x, s.NamedOver p c x ∧ ¬ s.RemovalPending p x := by
  unfold State.namedCell State.NamedOver State.RemovalPending
  cases hh : s.hold p with
  | none => simp
  | some h =>
    cases hr : s.put p with
    | none => simp [List.any_eq_true]
    | some r =>
      simp only [List.any_eq_true, Bool.and_eq_true, List.contains_iff_mem, Option.some.injEq]
      constructor
      · rintro ⟨x, hx, ⟨hn, hc⟩, hk⟩
        refine ⟨x, ⟨h, rfl, hx, hn, hc⟩, ?_⟩
        rintro ⟨q, rfl, hq, hu⟩
        simp [hq, hu] at hk
      · rintro ⟨x, ⟨h', rfl, hx, hn, hc⟩, hk⟩
        refine ⟨x, hx, ⟨hn, hc⟩, ?_⟩
        by_cases hu : r.unit = x.unit.number
        · by_cases hq : r.kind = .put
          · simp [hq]
          · exact absurd ⟨r, rfl, hq, hu⟩ hk
        · simp [hu]

theorem State.underNamed_iff (s : State) (p : Pos) (c : Nat) :
    s.underNamed p c = true ↔ ∃ x, s.NamedOver p c x := by
  unfold State.underNamed State.NamedOver
  cases hh : s.hold p with
  | none => simp
  | some h =>
    simp only [List.any_eq_true, Bool.and_eq_true, List.contains_iff_mem, Option.some.injEq]
    constructor
    · rintro ⟨x, hx, hn, hc⟩
      exact ⟨x, h, rfl, hx, hn, hc⟩
    · rintro ⟨x, h', rfl, hx, hn, hc⟩
      exact ⟨x, hx, hn, hc⟩

theorem State.trayRow_operation (s : State) (p : Pos) (c : Nat) (r : PutRec) (hn : s.namedCell p c = false)
    (hr : s.put p = some r) (hm : c ∈ cellMask r.size r.start) :
    s.trayRow p c = r.lamp ((s.build p).state = .held) := by
  obtain ⟨kind, _, _, _, _, _, _, _, _, _, phase, _, _, _, _, _, _, failed, _⟩ := r
  simp only [State.trayRow, hn, hr, PutRec.lamp, State.heldSuspends]
  by_cases hf : phase = .faulted ∨ ((s.build p).state = .held ∧ (kind = .put ∨ kind = .removal .unload))
  · simp_all [LampShow.steady]
  · cases kind with
    | put => by_cases hs : phase = .settled <;> simp_all [LampShow.steady, LampShow.flash]
    | removal pu =>
      cases failed <;> by_cases hs : phase = .awaitBase <;> simp_all [LampShow.steady, LampShow.flash]

/-- The lamp values of the model are those of the manual's tables. -/
theorem State.ShownTrue.panelTrue {s : State} (h : s.ShownTrue) (hs : s.su.slots.length = 48) :
    s.PanelTrue := by
  have slot (i : Nat) (hi : i < 48) :=
    (h.lamp i (by omega)).trans (s.lampValues_slot hs i hi)
  have tray (p : Pos) (c : Nat) (hp : s.isFitted p = true) (hc : c < 8) :=
    (h.lamp (50 + 8 * p.index + c) (by cases p <;> simp [Pos.index] <;> omega)).trans
      (s.lampValues_tray hs p c hp hc)
  have pos (p : Pos) (hp : s.isFitted p = true) :=
    (h.lamp (82 + p.index) (by cases p <;> simp [Pos.index])).trans (s.lampValues_position hs p hp)
  have noName {p : Pos} {c : Nat} (hx : ∀ x, s.NamedOver p c x → s.RemovalPending p x) :
      s.namedCell p c = false := by
    rw [Bool.eq_false_iff, Ne, s.namedCell_iff]
    rintro ⟨x, hn, hp⟩
    exact hp (hx x hn)
  constructor
  · intro i u hi hu
    rw [slot i hi, hu]; rfl
  · intro i hi hst hu
    rw [slot i hi]
    cases hx : s.su.slot i with
    | empty g => simp [slotLamp, hst]; rfl
    | reserved p => simp [slotLamp, hst]; rfl
    | occupied u st =>
      cases st with
      | returned => exact absurd hx (hu u)
      | free a => simp [slotLamp, hst]; rfl
      | earmarked p l => simp [slotLamp, hst]; rfl
      | putting p l => simp [slotLamp, hst]; rfl
  · intro i u p l hi hst hu
    rw [slot i hi, hu]; simp [slotLamp, hst]; rfl
  · intro i u st hi hst hu hr hp
    rw [slot i hi, hu]
    cases st with
    | returned => exact absurd rfl hr
    | putting p l => exact absurd rfl (hp p l)
    | free a => by_cases ha : s.su.amberSlot = some i <;> simp [slotLamp, hst, ha, LampShow.steady, LampShow.dark]
    | earmarked p l => by_cases ha : s.su.amberSlot = some i <;> simp [slotLamp, hst, ha, LampShow.steady, LampShow.dark]
  · intro i p hi hst hu
    rw [slot i hi, hu]; simp [slotLamp, hst]; rfl
  · intro i g hi hst hu
    rw [slot i hi, hu]
    cases g <;> simp [slotLamp, hst] <;> rfl
  · have hsc := s.lampValues_scanners hs
    rw [h.lamp 48 (by omega), h.lamp 49 (by omega), hsc.1, hsc.2]
    cases s.hc.stopped <;> simp [scannerLamp, LampShow.steady, LampShow.dark]
  · intro p c x hp hc hn hr
    have hrow : s.trayRow p c = .flash .red := by
      rw [State.trayRow, if_pos ((s.namedCell_iff p c).mpr ⟨x, hn, hr⟩)]
    rw [tray p c hp hc, State.trayLamp, hrow, (s.underNamed_iff p c).mpr ⟨x, hn⟩]
    simp [LampShow.flash]
  · intro p c r hp hc hst hx hr hm
    rw [tray p c hp hc, State.trayLamp, s.trayRow_operation p c r (noName hx) hr hm, hst]
    simp
  · intro p c hp hc hx hm
    rw [tray p c hp hc]
    have : s.trayRow p c = .dark := by
      rw [State.trayRow, noName hx]
      cases hr : s.put p with
      | none => rfl
      | some r => simp [hm r hr]
    rw [State.trayLamp, this]
    simp [LampShow.dark, LampShow.flash]
  · intro p c hp hc hst hx
    rw [tray p c hp hc]
    have : s.underNamed p c = false := by
      rw [Bool.eq_false_iff, Ne, s.underNamed_iff]
      rintro ⟨x, hn⟩
      exact hx x hn
    simp [State.trayLamp, this, hst, LampShow.dark]
  · intro p hp hst
    rw [pos p hp]; simp [State.positionLamp, hst, LampShow.dark]
  · intro p hp hst
    rw [pos p hp]
    refine ⟨?_, ?_, ?_, ?_, ?_, ?_, ?_, ?_, ?_⟩ <;> intros <;>
      simp_all [State.positionLamp, LampShow.dark, LampShow.flash, LampShow.steady]
  · intro p hp
    rw [h.record p hp]
    refine ⟨rfl, rfl, ?_⟩
    simp only [State.posShow]
    cases (s.build p).state <;> simp
  · intro p hp
    rw [h.record p hp]
    refine ⟨?_, ?_, ?_, ?_, ?_⟩
    · intro r h1 h2; simp [State.posShow, h1, h2]
    · intro e es h1 h2 h3; simp [State.posShow, h1, h2, h3]
    · intro k h1 h2; simp [State.posShow, h1, h2]
    · intro h1
      simp only [State.posShow, h1, Build.lastPlaced]
      cases (s.build p).content.getLast? <;> rfl
    · intro h1
      simp only [State.posShow]
      cases hb : (s.build p).state <;> simp_all

/-! ### The end of a command -/

theorem updateAt_getElem? {α : Type} (f : α → α) (i k : Nat) (xs : List α) :
    (updateAt f i xs)[k]? = if k = i then (xs[k]?).map f else xs[k]? := by
  induction xs generalizing i k with
  | nil => cases i <;> simp [updateAt]
  | cons x xs ih =>
    cases i with
    | zero => cases k <;> simp [updateAt]
    | succ i => cases k <;> simp [updateAt, ih]

/-- A lamp that is sent is shown or owed its value; every other lamp and every record stands. -/
theorem Panel.sendLamp_shown (pl : Panel) (i : Nat) (id : LampId) (v : LampShow) :
    (pl.sendLamp i id v).positions = pl.positions
      ∧ ∀ k, (((pl.sendLamp i id v).lamps)[k]?).map (·.shown)
          = if k = i then (pl.lamps[k]?).map (fun _ => v) else (pl.lamps[k]?).map (·.shown) := by
  have key (f : LampCell → LampCell) (hf : ∀ c, (f c).shown = v) (k : Nat) :
      ((updateAt f i pl.lamps)[k]?).map (·.shown)
        = if k = i then (pl.lamps[k]?).map (fun _ => v) else (pl.lamps[k]?).map (·.shown) := by
    rw [updateAt_getElem?]
    split
    · simp [Function.comp_def, hf]
    · rfl
  unfold Panel.sendLamp
  dsimp only
  repeat' split
  all_goals exact ⟨rfl, key _ (fun _ => rfl)⟩

/-- The lamps sent from a place on have their values; those before it, and every record, stand. -/
theorem Panel.sendLamps_shown (n : Nat) (ids : List LampId) (vs : List LampShow) (cs : List LampCell)
    (pl : Panel) (hc : ∀ j, (cs[j]?).map (·.shown) = (pl.lamps[n + j]?).map (·.shown)) :
    (Panel.sendLamps n ids vs cs pl).positions = pl.positions
      ∧ (∀ k, k < n → ((Panel.sendLamps n ids vs cs pl).lamps[k]?).map (·.shown)
          = (pl.lamps[k]?).map (·.shown))
      ∧ ∀ j, j < ids.length → j < vs.length → j < cs.length →
          ((Panel.sendLamps n ids vs cs pl).lamps[n + j]?).map (·.shown) = vs[j]? := by
  induction ids generalizing n vs cs pl with
  | nil => simp [Panel.sendLamps]
  | cons id ids ih =>
    cases vs with
    | nil => simp [Panel.sendLamps]
    | cons v vs =>
      cases cs with
      | nil => simp [Panel.sendLamps]
      | cons c cs =>
        have hsome : (pl.lamps[n]?).map (·.shown) = some c.shown := by simpa using (hc 0).symm
        have key : ∃ q : Panel, (if v = c.shown then pl else pl.sendLamp n id v) = q
            ∧ q.positions = pl.positions
            ∧ ∀ k, (q.lamps[k]?).map (·.shown)
                = if k = n then some v else (pl.lamps[k]?).map (·.shown) := by
          refine ⟨_, rfl, ?_⟩
          split
          · next h =>
            refine ⟨rfl, fun k => ?_⟩
            split
            · next hk => rw [hk, hsome, h]
            · rfl
          · obtain ⟨h1, h2⟩ := pl.sendLamp_shown n id v
            refine ⟨h1, fun k => ?_⟩
            rw [h2]
            split
            · next hk =>
              subst hk
              cases hl : pl.lamps[k]? with
              | none => simp [hl] at hsome
              | some x => rfl
            · rfl
        obtain ⟨q, hq, hpos, hlamp⟩ := key
        obtain ⟨i1, i2, i3⟩ := ih (n + 1) vs cs q (fun j => by
          have := hc (j + 1)
          rw [List.getElem?_cons_succ, show n + (j + 1) = n + 1 + j by omega] at this
          rw [this, hlamp, if_neg (by omega)])
        rw [Panel.sendLamps, hq]
        refine ⟨i1.trans hpos, fun k hk => ?_, fun j h1 h2 h3 => ?_⟩
        · rw [i2 k (by omega), hlamp, if_neg (by omega)]
        · cases j with
          | zero => exact (i2 n (by omega)).trans ((hlamp n).trans (if_pos rfl))
          | succ j =>
            rw [show n + (j + 1) = n + 1 + j by omega, List.getElem?_cons_succ]
            exact i3 j (by simpa using h1) (by simpa using h2) (by simpa using h3)

/-- A record that is sent is shown or owed its value; every other record and every lamp stands. -/
theorem Panel.sendPosition_shown (pl : Panel) (p : Pos) (v : PosShow) :
    (pl.sendPosition p v).lamps = pl.lamps
      ∧ ∀ q, ((pl.sendPosition p v).positions.get q).shown
          = if q = p then v else (pl.positions.get q).shown := by
  unfold Panel.sendPosition
  dsimp only
  split
  · exact ⟨rfl, fun q => by cases p <;> cases q <;> rfl⟩
  · split
    · exact ⟨rfl, fun q => by cases p <;> cases q <;> rfl⟩
    · split
      · exact ⟨rfl, fun q => by cases p <;> cases q <;> rfl⟩
      · exact ⟨rfl, fun q => by cases p <;> cases q <;> rfl⟩

theorem State.showPosition_shown (s : State) (p : Pos) :
    (s.showPosition p).pl.lamps = s.pl.lamps
      ∧ ∀ q, ((s.showPosition p).pl.positions.get q).shown
          = if q = p ∧ s.isFitted p = true then s.posShow p else (s.pl.positions.get q).shown := by
  unfold State.showPosition
  split
  · next h =>
    obtain ⟨h1, h2⟩ := s.pl.sendPosition_shown p (s.posShow p)
    simp only [Bool.and_eq_true] at h
    refine ⟨h1, fun q => ?_⟩
    show ((s.pl.sendPosition p (s.posShow p)).positions.get q).shown = _
    rw [h2]; simp [h.1]
  · next h =>
    refine ⟨rfl, fun q => ?_⟩
    split
    · next hq =>
      simp only [hq.2, Bool.true_and, decide_eq_true_eq, Classical.not_not, ne_eq] at h
      rw [hq.1, h]
    · rfl

/-- Once the records of the listed positions are sent, they are shown or owed. -/
theorem foldl_showPosition_shown (ps : List Pos) (s : State) :
    (ps.foldl State.showPosition s).pl.lamps = s.pl.lamps
      ∧ ∀ q, ((ps.foldl State.showPosition s).pl.positions.get q).shown
          = if q ∈ ps ∧ s.isFitted q = true then s.posShow q else (s.pl.positions.get q).shown := by
  induction ps generalizing s with
  | nil => simp
  | cons p ps ih =>
    obtain ⟨v, hv⟩ := State.showPosition_only_pl s p
    obtain ⟨h1, h2⟩ := s.showPosition_shown p
    obtain ⟨i1, i2⟩ := ih (s.showPosition p)
    rw [List.foldl_cons]
    refine ⟨i1.trans h1, fun q => ?_⟩
    rw [i2, h2, hv]
    show (if q ∈ ps ∧ s.isFitted q = true then s.posShow q else _) = _
    by_cases hq : q = p <;> by_cases hm : q ∈ ps <;> by_cases hf : s.isFitted q = true <;> simp_all

/-- At the end of a command the panel has been told, or is owed, every lamp's value and every fitted
position's record. -/
theorem State.flush_shownTrue (s : State) (hs : s.su.slots.length = 48) (hl : s.pl.lamps.length = 86) :
    s.flush.ShownTrue := by
  unfold State.flush
  dsimp only
  obtain ⟨v, hv⟩ := foldl_showPosition_only_pl Pos.all s
  obtain ⟨h1, h2⟩ := foldl_showPosition_shown Pos.all s
  rw [hv] at h1 h2 ⊢
  obtain ⟨i1, -, i3⟩ := Panel.sendLamps_shown 0 LampId.all (s.setPl v).lampValues v.lamps v
    (fun j => by rw [Nat.zero_add])
  have h86 : v.lamps.length = 86 := (congrArg List.length h1).trans hl
  constructor
  · intro n hn
    have hids : LampId.all.length = 86 := by decide
    have hvals : (s.setPl v).lampValues.length = 86 := State.lampValues_length _ hs
    have := i3 n (by omega) (by omega) (by omega)
    rw [Nat.zero_add] at this
    exact this
  · intro p hp
    show ((Panel.sendLamps 0 LampId.all (s.setPl v).lampValues v.lamps v).positions.get p).shown = s.posShow p
    rw [i1]
    have := h2 p
    rw [if_pos ⟨by cases p <;> simp [Pos.all], hp⟩] at this
    exact this

/-- What a command leaves on the panel is true of its state. -/
theorem State.flush_panelTrue (s : State) (hs : s.su.slots.length = 48) (hl : s.pl.lamps.length = 86) :
    s.flush.PanelTrue := by
  refine (s.flush_shownTrue hs hl).panelTrue ?_
  obtain ⟨v, hv⟩ := State.flush_only_pl s
  rw [hv]; exact hs

end Sys2Proof.Machine
end

