-- ==== Sys2Proof/Laws/PerInstr.lean ====
section
/-! SUPPORT. The family of statements made per command: what well-formedness says of the operands each
command carries. -/

namespace Sys2Proof.Laws

/-- What a well-formed command's operands satisfy; a command whose operands have no range is well-formed. -/
def PortRange.Statement : Instr → Prop
  | .sweep r => (Instr.sweep r).wellFormed = true → ∀ p, Machine.grossOf (r.get p) ≤ 24000
  | .exactWaitExpiry p line => (Instr.exactWaitExpiry p line).wellFormed = true → line < 8
  | .askWaitExpiry p line => (Instr.askWaitExpiry p line).wellFormed = true → line < 8
  | .offerEntryAged k c => (Instr.offerEntryAged k c).wellFormed = true → k ≠ 0#5
  | .transferLimit k n => (Instr.transferLimit k n).wellFormed = true → k ≠ 0#5
  | .peerAbsent k => (Instr.peerAbsent k).wellFormed = true → k ≠ 0#5
  | .frameReceive bytes => (Instr.frameReceive bytes).wellFormed = true → bytes.length ≤ 77
  | .contention stage => (Instr.contention stage).wellFormed = true →
    ∀ rivals, stage = .decided rivals → ∀ r ∈ rivals, r.station ≠ 0#5
  | i => i.wellFormed = true

open PortRange (Statement)

theorem PortRange.powerOnReset (station : BitVec 5) (positions : BitVec 2) (rate : BitVec 2) :
    Statement (.powerOnReset station positions rate) := rfl

theorem PortRange.benchReset : Statement (.benchReset) := rfl

theorem PortRange.intakeScan (label : RawLabel) : Statement (.intakeScan label) := rfl

theorem PortRange.chuteScan (label : RawLabel) : Statement (.chuteScan label) := rfl

theorem PortRange.confirm (p : Pos) : Statement (.confirm p) := rfl

theorem PortRange.reject (p : Pos) : Statement (.reject p) := rfl

theorem PortRange.resume (p : Pos) : Statement (.resume p) := rfl

theorem PortRange.undo (p : Pos) : Statement (.undo p) := rfl

theorem PortRange.abandon (p : Pos) : Statement (.abandon p) := rfl

theorem PortRange.stopAsserted : Statement (.stopAsserted) := rfl

theorem PortRange.stopReleased : Statement (.stopReleased) := rfl

theorem PortRange.panelRecordTimeout : Statement (.panelRecordTimeout) := rfl

theorem PortRange.sweep (readings : PerPos Quad) : Statement (.sweep readings) := by
  intro h
  simp only [Instr.wellFormed, quadInRange, Bool.and_eq_true, decide_eq_true_eq] at h
  simp only [Config.saturated] at h
  intro p
  cases p <;> simp only [PerPos.get, Machine.grossOf] <;> omega

theorem PortRange.slotReserved : Statement (.slotReserved) := rfl

theorem PortRange.putTimeout (p : Pos) : Statement (.putTimeout p) := rfl

theorem PortRange.exactWaitExpiry (p : Pos) (line : Nat) : Statement (.exactWaitExpiry p line) := by
  intro h
  simpa [Instr.wellFormed, lineInRange] using h

theorem PortRange.gatherLimitExpiry (p : Pos) : Statement (.gatherLimitExpiry p) := rfl

theorem PortRange.chillExpiry (unit : UnitNo) : Statement (.chillExpiry unit) := rfl

theorem PortRange.surplusReached (unit : UnitNo) : Statement (.surplusReached unit) := rfl

theorem PortRange.offerSecondLook : Statement (.offerSecondLook) := rfl

theorem PortRange.wantRetry : Statement (.wantRetry) := rfl

theorem PortRange.askWaitExpiry (p : Pos) (line : Nat) : Statement (.askWaitExpiry p line) := by
  intro h
  simpa [Instr.wellFormed, lineInRange] using h

theorem PortRange.offerEntryAged (station : Station) (code : ItemCode) :
    Statement (.offerEntryAged station code) := by
  intro h
  simpa [Instr.wellFormed, stationInRange] using h

theorem PortRange.transferLimit (station : Station) (seq : Seq) :
    Statement (.transferLimit station seq) := by
  intro h
  simpa [Instr.wellFormed, stationInRange] using h

theorem PortRange.writeOff (seq : Seq) : Statement (.writeOff seq) := rfl

theorem PortRange.suppressionExpiry : Statement (.suppressionExpiry) := rfl

theorem PortRange.joinLimitExpiry : Statement (.joinLimitExpiry) := rfl

theorem PortRange.rollPeriodExpiry : Statement (.rollPeriodExpiry) := rfl

theorem PortRange.rollRetry : Statement (.rollRetry) := rfl

theorem PortRange.peerAbsent (station : Station) :
    Statement (.peerAbsent station) := by
  intro h
  simpa [Instr.wellFormed, stationInRange] using h

theorem PortRange.frameReceive (bytes : List Byte) : Statement (.frameReceive bytes) := by
  intro h
  simp only [Instr.wellFormed, frameInRange, decide_eq_true_eq] at h
  exact h

theorem PortRange.contention (stage : ContentionStage) : Statement (.contention stage) := by
  intro h rivals hs r hr
  subst hs
  simp only [Instr.wellFormed, stageInRange, List.all_eq_true] at h
  simpa [stationInRange] using h r hr

theorem PortRange.contentionFault : Statement (.contentionFault) := rfl

theorem PortRange.ownFrameComplete : Statement (.ownFrameComplete) := rfl

theorem PortRange.txSpaceGrant : Statement (.txSpaceGrant) := rfl

theorem PortRange.notice : Statement (.notice) := rfl

theorem PortRange.claim : Statement (.claim) := rfl

theorem PortRange.prior : Statement (.prior) := rfl

theorem PortRange.release : Statement (.release) := rfl

theorem PortRange.done : Statement (.done) := rfl

theorem PortRange.offer : Statement (.offer) := rfl

theorem PortRange.want : Statement (.want) := rfl

theorem PortRange.ask : Statement (.ask) := rfl

theorem PortRange.askServe : Statement (.askServe) := rfl

theorem PortRange.grant : Statement (.grant) := rfl

theorem PortRange.taken : Statement (.taken) := rfl

theorem PortRange.roll : Statement (.roll) := rfl

theorem PortRange.setup : Statement (.setup) := rfl

theorem PortRange.halt : Statement (.halt) := rfl

theorem PortRange.go : Statement (.go) := rfl

theorem PortRange.outboundRecordSent : Statement (.outboundRecordSent) := rfl

theorem PortRange.panelRecordDiscarded (bytes : List Byte) : Statement (.panelRecordDiscarded bytes) := rfl

end Sys2Proof.Laws
end

