-- ==== Sys2Proof/Tests/Slice0.lean ====
section
/-! SUPPORT. Tests: the ports' refusals, the operand forms, the manual's worked figures and sequences, one
step of each command, and a witness for the hypotheses of every statement. Expected values are the
manual's, or counted by hand from its rules. -/

namespace Sys2Proof.Tests

open Sys2Proof.Machine

set_option Elab.async false

/-! ### Small states -/

/-- The state after a command. -/
def after (c : Instr) (s : State) : State :=
  match exec c s with
  | .next t => t
  | _ => s

/-- Station 1 in ACTIVE with nothing queued. -/
def active : State :=
  { State.reset with
    jc := { State.reset.jc with state := .active, joinLeft := none, rollLeft := some 10 }
    lp := .reset }

/-- Code 33.1. -/
def tea : ItemCode := ⟨33#10, 1#6⟩

/-- The bytes of a label of code 33.1: AMBIENT, SINGLE, FIXED, 1,100, 400 g. -/
def teaRaw : RawLabel := ⟨tea, 1#8, 1#8, 1#8, 1100#24, 400#16⟩

/-- Its label. -/
def teaLabel : Label := ⟨tea, .ambient, .single, .fixed, 1100, 400⟩

/-- A unit of it. -/
def teaUnit (n : UnitNo) : UnitRec := ⟨n, teaLabel, .loose, none, false⟩

/-- A CHILLED unit of the same code and weight with an exposure. -/
def coldUnit (n : UnitNo) (e : Nat) : UnitRec := ⟨n, { teaLabel with handling := .chilled }, .loose, some e, false⟩

/-- A unit on the shelf. -/
def shelved (i : Nat) (u : UnitRec) (st : ShelfState) (s : State) : State := s.setSlot i (.occupied u st)

/-- A full table of FREE units. -/
def fullTable (s : State) : State :=
  s.setSu { s.su with slots := List.replicate 48 (.occupied (teaUnit 9#16) (.free 0)) }

/-- A frame of another station, or this station's own, alone in the hand-over sequence. -/
def heard (own : Bool) (k : Station) (f : Frame) (s : State) : State :=
  s.setLp { s.lp with handover := [⟨own, k, f.kind, f.body⟩] }

/-- Order 7: rank 2, LARGE, 10 % down and 15 % up, one unit of code 33.1 at 1,100. -/
def orderInfo : NoticeInfo := ⟨2, .large, 10, 15, [⟨tea, 1, 1100, .family⟩]⟩

/-- Its NOTICE body. -/
def orderWire : WireNotice := ⟨7#32, 2#8, 1#8, 10#8, 15#8, 0#8, [⟨tea, 1#8, 1100#24, 1#8⟩]⟩

/-- Its notice in a state at a count. -/
def order (st : NoticeState) (count : Nat) : Notice := ⟨7#32, some orderInfo, st, count, false⟩

/-- A notice list of that notice alone. -/
def listed (st : NoticeState) (count : Nat) (s : State) : State :=
  s.setCu { s.cu with notices := [order st count] }

/-- The line of order 7. -/
def orderLine : LineRec := LineRec.fresh 30 ⟨tea, 1, 1100, .family⟩

/-- Position A GATHERING order 7. -/
def gathering : Build :=
  { Build.cleared with
    state := .gathering, link := some 7#32, claimOrder := some 1, lines := [orderLine], gatherLeft := some 300 }

/-- A unit placed in cell 0 as put 1. -/
def placed (u : UnitRec) : Placed := ⟨u, 0, 0, 1, 400, 1100⟩

/-- The state with position A's build. -/
def building (b : Build) (s : State) : State := s.setBuild .a b

/-- Position A PUTTING order 7 with a tare. -/
def putting : Build := { gathering with state := .putting, tare := some 1180 }

/-- A hold of position A. -/
def held (c : Cause) (next : SavedState) : Hold :=
  { primary := ⟨c, false⟩, named := [], secondary := [], saved := next, savedIndex := 1, next := next
    resolving := .none, resumed := [] }

/-- Position A HELD. -/
def heldBuild (h : Hold) (b : Build) (s : State) : State :=
  (building { b with state := .held } s).setHold .a (some h)

/-- The put of unit 5 into cell 0. -/
def thePut (ph : Phase) : PutRec :=
  { putRecord (teaUnit 5#16) ⟨5#16, 0, .single, 0, 1⟩ (some 1180) with phase := ph }

/-- Position A PUTTING with the put of unit 5 in a phase; the unit stands in slot 0. -/
def midPut (ph : Phase) : State :=
  ((building { putting with lines := [{ orderLine with putting := 1 }] }
    (shelved 0 (teaUnit 5#16) (.putting .a 0) (listed (.mine .a) 0 active))).setPut .a
      (some { thePut ph with settledDelta := if ph = .settled then some 398 else none }))

/-- ACTIVE with the CLAIM of order 7 contending. -/
def contends (withdrawn : Bool) : State :=
  active.setLp { active.lp with contending := some ⟨.claim 7#32, withdrawn⟩ }

/-- Position A HELD with the last unit placed in cell 0. -/
def heldPlaced (c : Cause) (next : SavedState) : State :=
  heldBuild (held c next) { putting with content := [placed (teaUnit 5#16)] } (listed (.mine .a) 0 active)

/-- A state whose panel buffer is empty and owes nothing. -/
def roomy (s : State) : State := s.setPl ⟨[], List.replicate 86 ⟨.dark, false⟩, .all ⟨.empty, false⟩, false, []⟩

/-- Four cells that read a gross of 1,580 g. -/
def quad1580 : Quad := ⟨395, 395, 395, 395⟩

/-- A platform stable at a reading. -/
def stableAt (g : Nat) : Platform := ⟨List.replicate 4 g, List.replicate 10 g, List.replicate 13 false⟩

/-! ### Ports: each check refuses an ill-formed command -/

theorem test_wf_sweep : (Instr.sweep (.all ⟨0, 0, 6001, 0⟩)).wellFormed = false := by decide
theorem test_wf_exact_line : (Instr.exactWaitExpiry .a 8).wellFormed = false := by decide
theorem test_wf_ask_line : (Instr.askWaitExpiry .d 8).wellFormed = false := by decide
theorem test_wf_offer_station : (Instr.offerEntryAged 0#5 tea).wellFormed = false := by decide
theorem test_wf_transfer_station : (Instr.transferLimit 0#5 1#8).wellFormed = false := by decide
theorem test_wf_peer_station : (Instr.peerAbsent 0#5).wellFormed = false := by decide
theorem test_wf_frame_long : (Instr.frameReceive (List.replicate 78 0#8)).wellFormed = false := by decide
theorem test_wf_rival : (Instr.contention (.decided [⟨1#2, 4#5⟩, ⟨0#2, 0#5⟩])).wellFormed = false := by decide
theorem test_wf_prior_holder : (Frame.prior 7#32 0#5).wellFormed = false := by decide
theorem test_wf_ask_station : (Frame.ask 0#5 tea 1#8).wellFormed = false := by decide
theorem test_wf_grant_station : (Frame.grant 0#5 1#8 tea []).wellFormed = false := by decide
theorem test_wf_grant_long : (Frame.grant 7#5 1#8 tea (List.replicate 5 0#16)).wellFormed = false := by decide
theorem test_wf_taken_station : (Frame.taken 0#5 1#8 1#8).wellFormed = false := by decide
theorem test_wf_notice_empty : (Frame.notice { orderWire with lines := [] }).wellFormed = false := by decide
theorem test_wf_notice_long :
    (Frame.notice { orderWire with lines := List.replicate 9 ⟨tea, 1#8, 0#24, 0#8⟩ }).wellFormed = false := by
  decide

/-! ### Operand forms -/

/-- R2: handling is field 1, then size, pricing, value, weight. -/
theorem test_label_handling : checkLabel { teaRaw with handling := 4#8, weight := 0#16 } = .error 1 := rfl
theorem test_label_size : checkLabel { teaRaw with size := 0#8 } = .error 2 := rfl
theorem test_label_pricing : checkLabel { teaRaw with pricing := 3#8 } = .error 3 := rfl
theorem test_label_value : checkLabel { teaRaw with value := 1000000#24 } = .error 4 := by decide
theorem test_label_weight : checkLabel { teaRaw with weight := 20001#16 } = .error 5 := by decide
theorem test_label_good : checkLabel teaRaw = .ok teaLabel := by decide

/-- The check word of the digits 1 to 9 under the generator and preset of R189 is 29B1H (PRESUMED: the
published value for CRC-16 with that generator and preset). -/
theorem test_crc_digits :
    crc [0x31#8, 0x32#8, 0x33#8, 0x34#8, 0x35#8, 0x36#8, 0x37#8, 0x38#8, 0x39#8] = 0x29B1#16 := by
  decide +kernel

/-- R202: an OFFER of 33.1, quantity 3, from station 7: class 3, kind 49, length 4; 33 × 64 + 1 = 2113. -/
theorem test_offer_header :
    (Frame.offer tea 3#16).header 7#5 = [0xC7#8, 49#8, 4#8, 8#8, 65#8, 0#8, 3#8] := by decide

/-- R202: a GRANT's body is asker, sequence, code, quantity, exposures. -/
theorem test_grant_body :
    (Frame.grant 12#5 19#8 tea [610#16, 455#16]).body
      = [12#8, 19#8, 8#8, 65#8, 2#8, 2#8, 98#8, 1#8, 199#8] := by decide

/-- R193: a wrong class for the kind, a wrong check and an unknown kind fail the test. -/
theorem test_frame_wrong_class : readFrame [0x87#8, 49#8, 0#8, 0#8, 0#8] = none := by decide +kernel
theorem test_frame_wrong_check :
    readFrame ((Frame.halt.header 7#5) ++ bytes2 (crc (Frame.halt.header 7#5) + 1#16)) = none := by
  decide +kernel
theorem test_frame_unknown_kind : readFrame [0xC7#8, 53#8, 0#8, 0#8, 0#8] = none := by decide +kernel

/-- R203: KEY at B with action 4 is UNDO at B; a LAMP record of the intake scanner lamp, GREEN steady. -/
theorem test_panel_key : panelRead [] [0#8, 126#8, 2#8, 2#8, 1#8, 4#8] = ([.key .b 4], []) := by decide
/-- R210: a record of kind 9 is discarded and the RESET behind it is read; action 6 of a KEY is none. -/
theorem test_panel_reset_behind : panelRead [] [126#8, 9#8, 0#8, 126#8, 4#8, 0#8] = ([.reset], []) := by decide
theorem test_panel_key_action : panelRead [126#8, 2#8] [2#8, 1#8, 6#8, 126#8] = ([], [126#8]) := by decide
theorem test_panel_lamp :
    (PanelOut.lamp (.shelf 48) (.steady .green)).bytes = [126#8, 17#8, 4#8, 0#8, 48#8, 1#8, 0#8] := by decide

/-! ### The manual's figures: rounding, limits, bands (chapter 5) -/

theorem test_round_cheese :
    [Rounding.nearestEven, .nearestUp, .down, .up].map (fun m => (valueByWeight m 2495 437).value)
      = [1090, 1090, 1090, 1091] := by decide
theorem test_round_tie_even :
    [Rounding.nearestEven, .nearestUp, .down, .up].map (fun m => (valueByWeight m 2500 441).value)
      = [1102, 1103, 1102, 1103] := by decide
theorem test_round_tie_odd :
    [Rounding.nearestEven, .nearestUp, .down, .up].map (fun m => (valueByWeight m 2500 443).value)
      = [1108, 1108, 1107, 1108] := by decide
theorem test_round_exact : (valueByWeight .up 2500 440) = ⟨1100, .none⟩ := by decide
theorem test_limit_clamped_inexact :
    valueByWeight .nearestEven 999999 1001
      = ⟨999999, { CauseSet.none with clamped := true, inexact := true }⟩ := by decide
theorem test_limit_negative :
    valueByWeight .nearestEven 2495 (-3) = ⟨0, { CauseSet.none with invalid := true }⟩ := by decide
theorem test_band_substitute : (bandLow 1100 10, bandHigh 1100 15) = (990, 1265) := by decide
theorem test_check_exact_value :
    checkTotals 4440 4432 0 0 = ⟨4432, 4440, 4440, { CauseSet.none with bandLow := true }⟩ := by decide
theorem test_tolerance : (tolerance 10 430, tolerance 5 752) = (43, 38) := by decide

/-! ### The manual's placements (chapter 3) -/

def unit201 : PlanUnit := ⟨201#16, 2, .chilled, .single, 180⟩
def unit202 : PlanUnit := ⟨202#16, 0, .fragile, .double, 600⟩
def unit203 : PlanUnit := ⟨203#16, 1, .ambient, .double, 1800⟩
def unit204 : PlanUnit := ⟨204#16, 3, .ambient, .single, 400⟩
def unit205 : PlanUnit := ⟨205#16, 4, .ambient, .quad, 1200⟩

theorem test_plan_four_units :
    (planRequest .large 0 [] 1 [unit201, unit202, unit203, unit204]).map
        (·.map (fun e => (e.index, e.unit, e.start, e.line)))
      = .ok [(1, 201#16, 0, 2), (2, 203#16, 2, 1), (3, 204#16, 1, 3), (4, 202#16, 4, 0)] := by decide +kernel
theorem test_plan_quad_fails :
    planRequest .large 0 [] 1 [unit201, unit202, unit203, unit204, unit205] = .error (.place 205#16) := by
  decide +kernel
theorem test_plan_heavy_stollen :
    planRequest .medium 0 [] 1 [⟨302#16, 0, .ambient, .double, 1600⟩, ⟨303#16, 1, .ambient, .single, 430⟩,
      ⟨301#16, 2, .chilled, .single, 212⟩] = .error (.place 302#16) := by decide +kernel
theorem test_plan_weight :
    planRequest .small 0 [] 1 [⟨401#16, 0, .ambient, .single, 1600⟩, ⟨402#16, 1, .ambient, .single, 950⟩]
      = .error (.weight 2550) := by decide +kernel

/-! ### One step of each command -/

/-- R204, R212: reset is POWER_ON_RESET with the model's straps (log 1). -/
theorem test_powerOn_reset : after (.powerOnReset 1#5 3#2 0#2) State.reset = State.reset := by decide +kernel
/-- R204: number 29 is no bench: ISOLATED, no ROLL. -/
theorem test_powerOn_29 :
    let t := after (.powerOnReset 29#5 3#2 0#2) active
    (t.jc.state, t.lp.queue) = (.isolated, []) := by decide +kernel
/-- R144, R209: a MARKED notice is given up with its count raised; the sequence number stays. -/
theorem test_benchReset :
    let t := after .benchReset ((listed (.marked .a) 0 active).setXu { active.xu with seq := 9#8 })
    (t.xu.seq, t.cu.notices.map (fun n => (n.state, n.count, n.releasedByMe))) = (9#8, [(.opened, 1, true)]) := by
  decide +kernel
/-- The first arrival of chapter 1: carried 610, clock 40 s, so exposure 650; the next number is 72. -/
theorem test_intake_carried :
    let e : Expected := ⟨7#5, 19#8, tea, 2, 2, [610, 455], 40, none⟩
    let s := (active.setXu { active.xu with expected := [e] }).setSu { active.su with lastNumber := 71#16 }
    let t := after (.intakeScan { teaRaw with handling := 2#8 }) s
    ((t.su.slot 0).unit?.map (fun u => (u.number, u.exposure, u.source)), t.xu.expected.map (·.exposures))
      = (some (72#16, some 650, .received 7#5), [[455]]) := by decide +kernel
/-- R8: a full table refuses with TABLE_FULL (32) and the code 33 × 64 + 1. -/
theorem test_intake_full :
    let pl : Panel := ⟨[], [], .all ⟨.empty, false⟩, false, []⟩
    let t := after (.intakeScan teaRaw) ((fullTable active).setPl pl)
    (t.su.intakeLamp, t.pl.buffer.head?) = (.red, some (.report 32 none none 2113)) := by decide +kernel
/-- R12: a RETURN unit goes before a FREE one. -/
theorem test_chute_return_first :
    let s := shelved 0 (coldUnit 1#16 300) (.free 5) (shelved 3 (coldUnit 2#16 1200) .returned active)
    let t := after (.chuteScan teaRaw) s
    (t.su.slots.map (fun x => x.unit?.isSome)).take 4 = [true, false, false, false] := by decide +kernel
/-- R78: CONFIRM of a SETTLED put places the unit at its settled delta. -/
theorem test_confirm_settled :
    ((after (.confirm .a) (midPut .settled)).build .a).content.map (fun x => (x.unit.number, x.weight))
      = [(5#16, 398)] := by decide +kernel
/-- R80, R42: REJECT frees the unit, excludes it and regathers. -/
theorem test_reject :
    let t := after (.reject .a) (midPut .awaitMove)
    ((t.build .a).exclusion, (t.build .a).state, t.put .a) = ([5#16], .gathering, none) := by decide +kernel
/-- R89: RESUME restarts a mismatched put with a limit of 90 s. -/
theorem test_resume_mismatch :
    let s := heldBuild (held .putMismatch .putting) putting (midPut .faulted)
    let t := after (.resume .a) s
    (t.hold .a, (t.put .a).map (fun r => (r.phase, r.limitLeft))) = (none, some (.awaitBase, 90)) := by
  decide +kernel
/-- R176: UNDO reserves a slot and starts the removal. -/
theorem test_undo :
    let s := heldBuild (held .overweight .check) { putting with content := [placed (teaUnit 5#16)] } active
    let t := after (.undo .a) s
    (t.su.slot 0, (t.put .a).map (fun r => (r.kind, r.expected))) = (.reserved .a, some (.removal .undo, -400)) := by
  decide +kernel
/-- R180: ABANDON unloads. -/
theorem test_abandon :
    let s := heldBuild (held .overweight .check) { putting with content := [placed (teaUnit 5#16)] }
      (listed (.mine .a) 0 active)
    let t := after (.abandon .a) s
    ((t.build .a).state, (t.build .a).unloadReason, t.hold .a) = (.unloading, some .release, none) := by decide +kernel
/-- R182: STOP asserted stops the bench and queues HALT; released, it stays STOPPED. -/
theorem test_stopAsserted :
    let t := after .stopAsserted active
    (t.hc.stopped, t.hc.localStop, t.lp.queue) = (true, true, [.halt]) := by decide +kernel
theorem test_stopReleased :
    let t := after .stopReleased (active.setHc { active.hc with stopped := true, localStop := true })
    (t.hc.stopped, t.hc.localStop) = (true, false) := by decide +kernel
theorem test_panelTimeout :
    (after .panelRecordTimeout (active.setPl { active.pl with inbound := [126#8] })).pl.inbound = [] := by
  decide +kernel
/-- R76: the sweep of 1,610 after four of 1,392 gives 1,446, which is movement. -/
theorem test_sweep_movement :
    let s := ((midPut .awaitMove).setPlatform .a (stableAt 1392)).setPut .a
      (some { thePut .awaitMove with baseline := some 1392 })
    let t := after (.sweep (.all ⟨400, 400, 405, 405⟩)) s
    ((t.wf.get .a).filtered.getLast?, (t.put .a).map (·.phase)) = (some 1446, some .awaitSettle) := by decide +kernel
/-- R77, R84: a saturated cell faults the put with SCALE_OVERRANGE. -/
theorem test_sweep_overrange :
    ((after (.sweep (.all ⟨0, 6000, 0, 6000⟩)) (midPut .awaitMove)).hold .a).map (·.primary.cause)
      = some .scaleOverrange := by decide +kernel
/-- R14: the waiting request of C gets the lowest empty slot. -/
theorem test_slotReserved :
    let t := after .slotReserved (active.setSu { active.su with requests := [.c] })
    (t.su.slot 0, t.su.requests) = (.reserved .c, []) := by decide +kernel
/-- R81: the put limit holds the build. -/
theorem test_putTimeout :
    ((after (.putTimeout .a) ((midPut .awaitMove).setPut .a (some { thePut .awaitMove with limitLeft := 0 }))).hold
      .a).map (fun h => (h.primary.cause, h.savedIndex)) = some (.putTimeout, 1) := by decide +kernel
/-- R32, R33: an expired exact wait takes a FAMILY substitute at 990 to 1,265 (33.7 at 990). -/
theorem test_exactWait_substitute :
    let u : UnitRec := { teaUnit 8#16 with label := { teaLabel with code := ⟨33#10, 7#6⟩, value := 990 } }
    let s := building { gathering with lines := [{ orderLine with exactWait := .running 0 }] }
      (listed (.mine .a) 0 (shelved 2 u (.free 0) active))
    let t := after (.exactWaitExpiry .a 0) s
    (t.put .a, (t.build .a).state, (t.build .a).trayWanted, t.su.slot 2)
      = (none, .putting, true, .occupied u (.earmarked .a 0)) := by decide +kernel
/-- R39, R135: with nothing placed the order is released. -/
theorem test_gatherLimit :
    let s := building { gathering with gatherLeft := some 0 } (listed (.mine .a) 0 active)
    let t := after (.gatherLimitExpiry .a) s
    (t.cu.notices.map (fun n => (n.state, n.releasedByMe)), t.lp.queue, (t.build .a).state)
      = ([(.opened, true)], [.release 7#32], .empty) := by decide +kernel
/-- R115: a FREE unit at the chill limit becomes RETURN. -/
theorem test_chillExpiry :
    (after (.chillExpiry 4#16) (shelved 6 (coldUnit 4#16 1200) (.free 3) active)).su.slot 6
      = .occupied { coldUnit 4#16 1200 with expired := true } .returned := by decide +kernel
/-- R148: surplus is offered with the FREE count. -/
theorem test_surplusReached :
    (after (.surplusReached 4#16) (shelved 6 (teaUnit 4#16) (.free 60) active)).lp.queue
      = [.offer tea 1#16] := by decide +kernel
theorem test_secondLook_spaced :
    (after .offerSecondLook ((shelved 6 (teaUnit 4#16) (.free 60) active).setXu
      { active.xu with clocks := [⟨tea, 59⟩] })).lp.queue = [] := by decide +kernel
theorem test_wantRetry :
    (after .wantRetry (building { gathering with lines := [{ orderLine with wantRefused := true }] } active)).lp.queue
      = [.want tea 1#8] := by decide +kernel
/-- R154: the ask record goes and the line's pending ask is 0. -/
theorem test_askWait :
    let s := (building { gathering with lines := [{ orderLine with pendingAsk := 1, wantSent := true }] }
      active).setXu { active.xu with asks := [⟨⟨.a, 0⟩, 7#5, tea, 1, 0⟩] }
    let t := after (.askWaitExpiry .a 0) s
    (t.xu.asks, (t.build .a).lines.map (·.pendingAsk)) = ([], [0]) := by decide +kernel
theorem test_offerAged :
    (after (.offerEntryAged 7#5 tea) (active.setXu { active.xu with
      offers := [⟨7#5, tea, 3, 20⟩, ⟨8#5, tea, 3, 20⟩, ⟨7#5, tea, 2, 19⟩] })).xu.offers
      = [⟨8#5, tea, 3, 20⟩, ⟨7#5, tea, 2, 19⟩] := by decide +kernel
/-- R162: at 180 s TAKEN carries what was received. -/
theorem test_transferLimit :
    (after (.transferLimit 7#5 19#8) (active.setXu { active.xu with
      expected := [⟨7#5, 19#8, tea, 3, 1, [0], 180, none⟩] })).lp.queue = [.taken 7#5 19#8 2#8] := by decide +kernel
/-- R164: at 210 s the entry goes and its slot is BLUE no more. -/
theorem test_writeOff :
    let t := after (.writeOff 3#8) ((active.setSlot 2 (.empty (some 3#8))).setXu { active.xu with
      outbound := [⟨3#8, 7#5, [teaUnit 4#16], 210⟩] })
    (t.xu.outbound, t.su.slot 2) = ([], .empty none) := by decide +kernel
/-- R27, R196: with suppression over, the EMPTY position A marks the OPEN order and claims it. -/
theorem test_suppression :
    let t := after .suppressionExpiry ((listed .opened 0 active).setLp { active.lp with suppression := some 0 })
    (t.lp.suppression, t.lp.queue, (t.build .a).state) = (none, [.claim 7#32], .claiming) := by decide +kernel
theorem test_joinLimit :
    let t := after .joinLimitExpiry (State.reset.setJc { State.reset.jc with joinLeft := some 0 })
    (t.jc.state, t.jc.rollLeft) = (.active, some 10) := by decide +kernel
/-- R207: a ROLL with the fresh flag clear; five class 3 frames in the queue refuse it. -/
theorem test_rollPeriod :
    (after .rollPeriodExpiry (active.setJc { active.jc with rollLeft := some 0 })).lp.queue = [.roll false 4#8] := by
  decide +kernel
theorem test_rollRetry_refused :
    (after .rollRetry ((active.setJc { active.jc with rollOwed := true, rollLeft := none }).setLp
      { active.lp with queue := List.replicate 5 (.want tea 1#8) })).jc.rollOwed = true := by decide +kernel
theorem test_peerAbsent :
    let t := after (.peerAbsent 7#5) ((active.setJc { active.jc with peers := [⟨7#5, 30⟩, ⟨8#5, 3⟩] }).setXu
      { active.xu with offers := [⟨7#5, tea, 1, 4⟩] })
    (t.jc.peers, t.xu.offers) = ([⟨8#5, 3⟩], []) := by decide +kernel
/-- R195: a twelfth frame of class 3 is dropped and suppresses claims. -/
theorem test_frameReceive_dropped :
    let s := active.setLp { active.lp with handover := List.replicate 11 ⟨false, 7#5, .want, []⟩ }
    let t := after (.frameReceive ((Frame.offer tea 3#16).wire 7#5)) s
    (t.lp.handover.length, t.lp.suppression) = (11, some 15) := by decide +kernel
theorem test_frameReceive_halt :
    let s := active.setLp { active.lp with handover := List.replicate 11 ⟨false, 7#5, .want, []⟩ }
    (after (.frameReceive (Frame.halt.wire 7#5)) s).lp.handover.getLast? = some ⟨false, 7#5, .halt, []⟩ := by
  decide +kernel
/-- R191: station 1 beats station 4 in its class. -/
theorem test_contention_wins :
    (after (.contention (.decided [⟨1#2, 4#5⟩])) (contends false)).lp.started = some ⟨.claim 7#32, true⟩ := by
  decide +kernel
/-- R199: a CLAIM whose withdrawal is held loses and is removed, and its place goes to a waiting TAKEN. -/
theorem test_contention_withdrawn :
    let s := (contends true).setXu { active.xu with waiting := [⟨.taken 7#5 1#8 1#8, none⟩] }
    let t := after (.contention (.decided [⟨0#2, 4#5⟩])) s
    (t.lp.contending, t.lp.queue, t.xu.waiting) = (none, [.taken 7#5 1#8 1#8], []) := by decide +kernel
/-- R192: the third fault in a row isolates. -/
theorem test_contentionFault_third :
    let t := after .contentionFault (active.setLp { active.lp with started := some ⟨.halt, true⟩, faults := 2 })
    (t.jc.state, t.lp.queue, t.lp.started) = (.isolated, [], none) := by decide +kernel
/-- R194: the frame comes back as this station's own. -/
theorem test_ownFrame :
    (after .ownFrameComplete (active.setLp { active.lp with started := some ⟨.halt, true⟩, faults := 2 })).lp.handover
      = [⟨true, 1#5, .halt, []⟩] := by decide +kernel
/-- R198: HC's HALT goes before CU's frame. -/
theorem test_txSpace :
    (after .txSpaceGrant (((active.setHc { active.hc with haltsWaiting := 1 }).setCu
      { active.cu with waiting := [.release 9#32] }).setLp
        { active.lp with queue := List.replicate 7 (.claim 8#32) })).cu.waiting = [.release 9#32] := by decide +kernel
/-- R127, R28: a new order joins the list and the EMPTY position A marks it. -/
theorem test_notice :
    (after .notice (heard false 30#5 (.notice orderWire) active)).cu.notices
      = [order (.marked .a) 0] := by decide +kernel
theorem test_claim_own :
    let t := after .claim (heard true 1#5 (.claim 7#32) (building { Build.cleared with
      state := .claiming, link := some 7#32 } (listed (.marked .a) 0 active)))
    (t.cu.notices, (t.build .a).state, (t.build .a).claimOrder) = ([order (.mine .a) 0], .gathering, some 1) := by
  decide +kernel
theorem test_prior :
    (after .prior (heard false 9#5 (.prior 7#32 4#5) (listed (.others 9#5) 1 active))).cu.notices
      = [order (.others 4#5) 1] := by decide +kernel
/-- R136: the third release strands the order. -/
theorem test_release_strands :
    (after .release (heard false 9#5 (.release 7#32) (listed (.others 9#5) 2 active))).cu.notices
      = [order .stranded 3] := by decide +kernel
theorem test_done :
    (after .done (heard false 9#5 (.done 7#32 .none 4430#24 1400#16) (listed (.others 9#5) 0 active))).cu.notices
      = [] := by decide +kernel
/-- R151: an OFFER is answered by an ASK at once. -/
theorem test_offer_asks :
    (after .offer (heard false 7#5 (.offer tea 3#16) (building gathering active))).lp.queue
      = [.ask 7#5 tea 1#8] := by decide +kernel
theorem test_want_answered :
    (after .want (heard false 7#5 (.want tea 1#8) (shelved 0 (teaUnit 4#16) (.free 0) active))).lp.queue
      = [.offer tea 1#16] := by decide +kernel
/-- R155, R156: an ASK that can be served is served at once; the most exposed unit goes first. -/
theorem test_ask_served :
    let s := shelved 0 (coldUnit 4#16 100) (.free 0) (shelved 1 (coldUnit 5#16 300) (.free 0) active)
    let t := after .ask (heard false 7#5 (.ask 1#5 tea 1#8) s)
    (t.lp.queue, t.su.slot 1, t.xu.outbound.map (·.units.map (·.number)))
      = ([.grant 7#5 0#8 tea [300#16]], .empty (some 0#8), [[5#16]]) := by decide +kernel
theorem test_askServe_nothing :
    (after .askServe (active.setXu { active.xu with askQueue := [⟨7#5, tea, 2⟩], seq := 255#8 })).lp.queue
      = [.grant 7#5 255#8 tea []] := by decide +kernel
theorem test_grant_expected :
    (after .grant (heard false 7#5 (.grant 1#5 19#8 tea [610#16, 455#16]) active)).xu.expected
      = [⟨7#5, 19#8, tea, 2, 2, [610, 455], 0, none⟩] := by decide +kernel
theorem test_taken :
    (after .taken (heard false 7#5 (.taken 1#5 3#8 1#8) (active.setXu { active.xu with
      outbound := [⟨3#8, 7#5, [teaUnit 4#16], 20⟩] }))).xu.outbound = [] := by decide +kernel
/-- R140, R207: a fresh ROLL reopens the sender's order, and A marks it. -/
theorem test_roll_fresh :
    (after .roll (heard false 9#5 (.roll true 4#8) (listed (.others 9#5) 0 active))).cu.notices
      = [order (.marked .a) 1] := by decide +kernel
theorem test_roll_clash :
    (after .roll (heard false 1#5 (.roll false 4#8) active)).jc.state = .isolated := by decide +kernel
/-- Station 12's SETUP of chapter 11: chill 3,000 becomes 2,700, exact wait 5 becomes 10, auto-confirm on. -/
theorem test_setup_values :
    (after .setup (heard false 30#5 (.setup ⟨0#8, 0#8, 3000#16, 240#16, 5#8, 90#16, ⟨true, true, true, true, true⟩,
      2#8⟩) State.reset)).jc.setup
      = ⟨.nearestEven, 2700, 240, 10, 90, ⟨true, true, true, true, true⟩, true⟩ := by decide +kernel
theorem test_setup_clamped :
    WireSetup.clamped ⟨0#8, 0#8, 3000#16, 240#16, 5#8, 90#16, ⟨true, true, true, true, true⟩, 2#8⟩ = [2, 4, 7] := by
  decide +kernel
theorem test_halt : (after .halt (heard false 7#5 .halt active)).hc.stopped = true := by decide +kernel
theorem test_go_local :
    (after .go (heard false 30#5 .go (active.setHc { active.hc with stopped := true, localStop := true }))).hc.stopped
      = true := by decide +kernel
/-- The full buffer of chapter 11: POSITION A enters with reports lost, and the mark is cleared. -/
theorem test_recordSent :
    let s := active.setPl { active.pl with
      buffer := List.replicate 16 (.report 38 none none 0)
      positions := { active.pl.positions with a := ⟨.empty, true⟩ }
      lamps := List.replicate 86 ⟨.dark, false⟩
      reportsLost := true }
    let t := after .outboundRecordSent s
    (t.pl.buffer.getLast?, t.pl.reportsLost) = (some (.position .a .empty true), false) := by decide +kernel
/-- R210: a KEY record that was partly read is completed, and the STOP behind a bad one is taken. -/
theorem test_discarded :
    let t := after (.panelRecordDiscarded [3#8, 126#8, 3#8, 1#8, 1#8])
      (active.setPl { active.pl with inbound := [126#8, 2#8] })
    (t.pl.inbound, t.hc.localStop) = ([], true) := by decide +kernel
/-- R193: a HALT with a body is discarded. -/
theorem test_halt_body :
    (after .halt (active.setLp { active.lp with handover := [⟨false, 7#5, .halt, [0#8]⟩] })).hc.stopped = false := by
  decide +kernel
/-- R86: a positive delta fails a removal, 4 g expected back and 5 g found with a tolerance of 10 g. -/
theorem test_removal_positive :
    let r : PutRec := { removalRecord .undo (placed (teaUnit 5#16)) (some 1180) with expected := -4, tolerance := 10 }
    (((heldPlaced .overweight .check).judge .a r 5).put .a).map (·.failed) = some true := by decide +kernel
/-- R88: the named unit of a failed CHILL removal flashes RED while STOPPED. -/
theorem test_stopped_chill_lamp :
    let r := { removalRecord .chill (placed (teaUnit 5#16)) none with failed := true }
    let h := { held .chillExpired .gathering with named := [5#16], resolving := .chill }
    let s := (heldBuild h { putting with content := [placed (teaUnit 5#16)] } active).setPut .a (some r)
    ((s.setHc { s.hc with stopped := true }).trayLamp .a 0, s.trayLamp .a 1) = (.flash .red, .dark) := by
  decide +kernel
/-- R142: the own CLAIM that waits to be handed back has started: its link stays. -/
theorem test_isolated_own_claim :
    let s := (heard true 1#5 (.claim 7#32) (building { Build.cleared with
      state := .claiming, link := some 7#32 } (listed (.marked .a) 0 active))).enterIsolated
    (s.cu.notices, (s.build .a).state) = ([order (.marked .a) 0], .claiming) := by decide +kernel
/-- The second of an empty queue (log 2): a peer of 29 s is 30 s old and its absence falls due. -/
theorem test_second :
    (active.setJc { active.jc with peers := [⟨7#5, 29⟩] }).tick.pending
      = [.peerAbsent 7#5, .offerSecondLook] := by decide +kernel

/-! ### Witnesses: for each statement a state and operands that meet the hypotheses of each clause -/

/-- ACTIVE with the transmit queue full. -/
def fullQueue : State := active.setLp { active.lp with queue := List.replicate 8 (.claim 8#32) }

/-- Position A GATHERING with a placed unit. -/
def gatheringPlaced (u : UnitRec) : State :=
  building { gathering with content := [placed u] } (listed (.mine .a) 0 active)

/-- ACTIVE with an ask record of A's line. -/
def asking (wait : Nat) : State :=
  (building { gathering with lines := [{ orderLine with pendingAsk := 1 }] } active).setXu
    { active.xu with asks := [⟨⟨.a, 0⟩, 7#5, tea, 1, wait⟩] }

/-- ACTIVE with 8 expected entries, or with 8 waiting asks. -/
def fullAsks : State := active.setXu { active.xu with askQueue := List.replicate 8 ⟨7#5, tea, 1⟩ }

/-- Code 33.1 in surplus at the hold of 60 s. -/
def surplus : State := shelved 6 (teaUnit 4#16) (.free 60) active

theorem witness_StepRunsFrontCommand :
    ({ active with pending := [.confirm .a, .benchReset] } : State).pending = .confirm .a :: [.benchReset] := rfl

theorem witness_IdleSecondCounts : active.pending = [] := rfl

theorem witness_ExposureCounts :
    let s := shelved 0 (coldUnit 4#16 65535) (.free 7) (shelved 47 (coldUnit 5#16 3) .returned
      ((gatheringPlaced (coldUnit 6#16 3)).setBuild .d { Build.cleared with
        state := .sealed, content := [placed (coldUnit 7#16 3)] }))
    s.pending = [] ∧ s.su.slot 0 = .occupied (coldUnit 4#16 65535) (.free 7)
      ∧ s.su.slot 47 = .occupied (coldUnit 5#16 3) .returned
      ∧ (s.build .a).state ≠ .sealed ∧ (s.build .d).state = .sealed := by decide +kernel

theorem witness_StepKeepsBounded : active.Bounded ∧ ∃ t, step active = .next t := by
  refine ⟨?_, _, rfl⟩
  constructor <;> decide +kernel

/-- A RETURN unit in slot 47 whose lamp is not yet told, and position A GATHERING. -/
def untold : State := shelved 47 (coldUnit 5#16 1200) .returned (building gathering active)

theorem witness_StepKeepsBounded_panel :
    active.Bounded ∧ active.surplusLook.flush.PanelTrue ∧ exec .offerSecondLook active = .next active.surplusLook.flush
      ∧ ∃ t, step active = .next t :=
  ⟨by constructor <;> decide +kernel, State.flush_panelTrue _ (by decide +kernel) (by decide +kernel), rfl, _, rfl⟩

theorem witness_StepKeepsBounded_panel_untold :
    let t := after .offerSecondLook untold
    LampId.all[47]? = some (.shelf 47) ∧ t.lampShown 47 ≠ untold.lampShown 47
      ∧ (t.pl.positions.get .a).shown ≠ (untold.pl.positions.get .a).shown := by decide +kernel

theorem witness_PowerOnSamplesStraps :
    (1 ≤ (1#5).toNat ∧ (1#5).toNat ≤ 28) ∧ (1 ≤ (28#5).toNat ∧ (28#5).toNat ≤ 28)
      ∧ (0#5).toNat = 0 ∧ 29 ≤ (29#5).toNat := by decide

theorem witness_BenchResetKeepsAndClears :
    active.jc.state ≠ .isolated ∧ ∀ m ∈ (listed (.mine .a) 1 active).cu.notices, m = order (.mine .a) 1 := by
  decide +kernel

/-- One CLAIM for a notice marked at once, the fresh ROLL behind it, and no frame of before. -/
theorem witness_BenchResetKeepsAndClears_looks :
    let s := ((listed .opened 0 active).setLp fullQueue.lp).setXu
      { active.xu with waiting := [⟨.taken 7#5 1#8 1#8, none⟩] }
    let t := after .benchReset s
    s.jc.state = .active ∧ (t.build .a).state = .claiming ∧ t.lp.queue = [.claim 7#32, .roll true 4#8]
      ∧ State.reset.jc.state ≠ .active := by decide +kernel

theorem witness_SlotReservedServesRequests :
    let s := active.setSu { active.su with requests := [.c, .a] }
    s.su.requests = .c :: [.a] ∧ s.su.lowestEmpty = some 0 := by decide +kernel

theorem witness_RefusedScansTurnLampRed :
    (∃ field, checkLabel { teaRaw with value := 1000000#24 } = .error field)
      ∧ (fullTable active).su.lowestEmpty = none
      ∧ ∃ l, checkLabel teaRaw = .ok l ∧ active.chuteChoice l.code = none :=
  ⟨⟨4, by decide⟩, by decide +kernel, teaLabel, by decide, by decide +kernel⟩

theorem witness_IntakeScanEntersUnit :
    checkLabel teaRaw = .ok teaLabel ∧ active.su.lowestEmpty = some 0 := by decide +kernel

/-- The line of order 7 alone is open, exact or (its wait EXPIRED) to the substitute of its family. -/
theorem witness_IntakeScanEntersUnit_line :
    let s := building gathering (listed (.mine .a) 0 active)
    checkLabel teaRaw = .ok teaLabel ∧ s.su.lowestEmpty = some 0 ∧ s.expectedOf tea = none
      ∧ s.overLimit (s.scannedUnit teaLabel) = false ∧ (s.build .a).state = .gathering
      ∧ (s.scannedUnit teaLabel).number ∉ (s.build .a).exclusion ∧ s.isFitted .a = true
      ∧ (s.build .a).claimOrder = some 1 ∧ s.line? ⟨.a, 0⟩ = some orderLine ∧ 0 < orderLine.uncovered
      ∧ orderLine.item.code = teaLabel.code ∧ s.line? ⟨.a, 1⟩ = none
      ∧ ∀ p ∈ Pos.all, p ≠ .a → (s.build p).lines = [] := by decide +kernel

theorem witness_IntakeScanEntersUnit_substitute :
    let l := { orderLine with exactWait := .expired }
    let s := building { gathering with lines := [l] } (listed (.mine .a) 0 active)
    let u := s.scannedUnit { teaLabel with code := ⟨33#10, 2#6⟩, value := 990 }
    s.acceptable ⟨.a, 0⟩ u = true ∧ s.acceptable ⟨.a, 0⟩ { u with label := { u.label with value := 989 } } = false
      ∧ s.acceptable ⟨.a, 0⟩ { u with label := { u.label with value := 1265 } } = true
      ∧ s.acceptable ⟨.a, 0⟩ { u with label := { u.label with value := 1266 } } = false := by decide +kernel

theorem witness_IntakeScanEntersUnit_linked :
    let e : Expected := ⟨7#5, 19#8, tea, 2, 2, [1160, 455], 40, some ⟨.a, 0⟩⟩
    let s := (building gathering (listed (.mine .a) 0 active)).setXu { active.xu with expected := [e] }
    (s.expectedOf tea).bind (·.link) = some ⟨.a, 0⟩ ∧ s.overLimit (s.scannedUnit teaLabel) = false
      ∧ s.overLimit (s.scannedUnit { teaLabel with handling := .chilled }) = true := by decide +kernel

/-- R4: 65535 given last, 0 held on the shelf, 1 in a tray and 2 in the outbound list: the next is 3. -/
theorem witness_IntakeScanEntersUnit_number :
    let s := shelved 9 (teaUnit 0#16) .returned (building { putting with content := [placed (teaUnit 1#16)] }
      (active.setXu { active.xu with outbound := [⟨4#8, 7#5, [teaUnit 2#16], 0⟩] }))
    s.su.lastNumber = 65535#16 ∧ s.allUnits.length = 3 ∧ s.su.lowestEmpty = some 0
      ∧ (after (.intakeScan teaRaw) s).su.lastNumber = 3#16 := by decide +kernel

/-- R9, R11, R161: an entry behind one of another code, with two units to come and with one, whose TAKEN is
queued, waits and is discarded; and no entry of the code. -/
theorem witness_IntakeScanEntersUnit_expected :
    let e (left : Nat) : Expected := ⟨7#5, 19#8, tea, 2, left, [65530, 455], 40, some ⟨.a, 0⟩⟩
    let other : Expected := ⟨7#5, 18#8, ⟨33#10, 2#6⟩, 1, 1, [0], 3, none⟩
    let s (left : Nat) (base : State) : State :=
      (building { gathering with state := .held, lines := [{ orderLine with incoming := 1 }] } base).setXu
        { base.xu with expected := [other, e left] }
    let cold := { teaRaw with handling := 2#8 }
    let t (left : Nat) (base : State) : State := after (.intakeScan cold) (s left base)
    ((t 2 active).su.slot 0).unit?.map (fun u => (u.source, u.exposure)) = some (.received 7#5, some 65535)
      ∧ (t 2 active).xu.expected = [other, { e 1 with exposures := [455] }]
      ∧ ((t 2 active).line? ⟨.a, 0⟩).map (·.incoming) = some 0
      ∧ (t 1 active).xu.expected = [other] ∧ (t 1 active).lp.queue = [.taken 7#5 19#8 2#8]
      ∧ (t 1 fullQueue).xu.waiting = [⟨.taken 7#5 19#8 2#8, none⟩]
      ∧ (t 1 (active.setJc { active.jc with state := .isolated })).lp.queue = []
      ∧ ((after (.intakeScan cold) active).su.slot 0).unit?.map (fun u => (u.source, u.exposure))
          = some (.loose, some 0) := by decide +kernel

theorem witness_ChuteScanRemovesUnit :
    let s := shelved 47 (teaUnit 4#16) (.free 0) active
    checkLabel teaRaw = .ok teaLabel ∧ s.chuteChoice teaLabel.code = some 47 ∧ 47 < s.su.slots.length
      ∧ (s.su.slot 47).unit?.isSome = true := by decide +kernel

/-- R12: of three RETURN units, two equally exposed, the lower slot of the two; without them the lowest FREE
slot; without those the latest earmark, which is not the lowest slot; and none where all are PUTTING. -/
theorem witness_ChuteScanRemovesUnit_choices :
    let put := shelved 1 (teaUnit 1#16) (.putting .a 0) active
    let marked := (shelved 2 (teaUnit 2#16) (.earmarked .a 0) (shelved 40 (teaUnit 3#16) (.earmarked .b 0) put)).setSu
      { (shelved 2 (teaUnit 2#16) (.earmarked .a 0) (shelved 40 (teaUnit 3#16) (.earmarked .b 0) put)).su with
        earmarkOrder := [1#16, 2#16, 3#16] }
    let free := shelved 30 (teaUnit 4#16) (.free 0) (shelved 31 (teaUnit 5#16) (.free 9) marked)
    let back := shelved 47 (coldUnit 6#16 1300) .returned (shelved 46 (coldUnit 7#16 1300) .returned
      (shelved 45 (coldUnit 8#16 1299) .returned free))
    put.chuteChoice tea = none ∧ marked.chuteChoice tea = some 40 ∧ free.chuteChoice tea = some 30
      ∧ back.chuteChoice tea = some 46 ∧ marked.su.slotOf 3#16 = some 40
      ∧ marked.su.slot 40 = .occupied (teaUnit 3#16) (.earmarked .b 0) := by decide +kernel

/-- R13: an earmark lost in GATHERING, in PUTTING with a put pending, and in PUTTING with none. -/
theorem witness_ChuteScanRemovesUnit_earmarked :
    let s (b : Build) : State := shelved 9 (teaUnit 4#16) (.earmarked .a 0)
      (building { b with lines := [{ orderLine with earmarked := 1 }] }
        ((listed (.mine .a) 0 active).setSu { active.su with earmarkOrder := [4#16] }))
    let t (b : Build) : State := after (.chuteScan teaRaw) (s b)
    let going := after (.chuteScan teaRaw) ((s putting).setPut .a (some (thePut .settled)))
    (s putting).chuteChoice tea = some 9 ∧ (s putting).putPending .a = false
      ∧ ((t putting).build .a).state = .gathering ∧ ((t putting).build .a).gatherLeft = some 300
      ∧ ((t putting).build .a).covered = false
      ∧ ((t { gathering with gatherLeft := some 7 }).build .a).gatherLeft = some 7
      ∧ (going.build .a).state = .putting ∧ (going.build .a).regatherDue = true := by decide +kernel

theorem witness_ChillExpiryActsByPlace_free :
    let s := shelved 6 (coldUnit 4#16 1200) (.free 3) active
    s.su.slotOf 4#16 = some 6 ∧ s.su.slot 6 = .occupied (coldUnit 4#16 1200) (.free 3)
      ∧ s.expires (coldUnit 4#16 1200) = true := by decide +kernel

theorem witness_ChillExpiryActsByPlace_placed :
    let s := gatheringPlaced (coldUnit 4#16 1200)
    s.su.slotOf 4#16 = none ∧ s.expiringBuild 4#16 = some .a ∧ s.put .a = none ∧ s.hold .a = none
      ∧ (s.build .a).state = .gathering := by decide +kernel

theorem witness_ChillExpiryActsByPlace_removal :
    let s := gatheringPlaced (coldUnit 4#16 1200)
    s.hc.stopped = false ∧ (s.setHc { s.hc with stopped := true }).hc.stopped = true
      ∧ (s.build .a).content.find? (fun y => decide (y.unit.number = 4#16))
          = some (placed (coldUnit 4#16 1200)) := by decide +kernel

theorem witness_KeysRefused :
    (active.setHc { active.hc with stopped := true }).hc.stopped = true
      ∧ (active.setJc { active.jc with fitted := 3 }).isFitted .d = false
      ∧ active.keyPut .a = none ∧ (active.build .a).state ≠ .held := by decide +kernel

theorem witness_ChillExpiryActsByPlace_earmarked :
    let s := shelved 6 (coldUnit 4#16 1200) (.earmarked .a 0) (building gathering active)
    s.su.slotOf 4#16 = some 6 ∧ s.su.slot 6 = .occupied (coldUnit 4#16 1200) (.earmarked .a 0)
      ∧ s.expires (coldUnit 4#16 1200) = true ∧ (s.build .a).state ≠ .putting := by decide +kernel

theorem witness_ChillExpiryActsByPlace_pending :
    let s := shelved 6 (coldUnit 4#16 1200) (.earmarked .a 0) (midPut .awaitMove)
    s.su.slotOf 4#16 = some 6 ∧ s.expires (coldUnit 4#16 1200) = true ∧ (s.build .a).state = .putting
      ∧ s.putPending .a = true := by decide +kernel

theorem witness_KeysRefused_held :
    let s (c : Cause) (next : SavedState) : State := heldPlaced c next
    ((s .overweight .check).build .a).state = .held
      ∧ (s .overweight .check).hold .a = some (held .overweight .check)
      ∧ (held .overweight .check).primary.cause ∈ [Cause.chillExpired, .orderGone, .planFull, .overweight]
      ∧ (held .putMismatch .unloading).next = .unloading
      ∧ (held .putMismatch .unloading).primary.cause ≠ .orderGone := by decide +kernel

theorem witness_ConfirmPlacesUnit_mark :
    let s := midPut .awaitMove
    s.keysShut .a = false ∧ s.keyPut .a = some (thePut .awaitMove) ∧ (thePut .awaitMove).phase ≠ .settled := by
  decide +kernel

/-- A WEIGHT unit of rate 0 has the cause INVALID, and the power-on mask holds it. -/
theorem witness_ConfirmPlacesUnit_causes :
    let e : PlanEntry := ⟨9#16, 1, .single, 1, 2⟩
    let s := (midPut .settled).setBuild .a { (midPut .settled).build .a with plan := [e] }
    ((s.build .a).plan.filter (fun e => decide (e.unit ≠ 5#16)) ≠ [] ∧ (s.build .a).regatherDue = false)
      ∧ (valueUnit s.jc.setup.mode { teaLabel with pricing := .byWeight, value := 0 } 398).causes.invalid = true
      ∧ s.jc.setup.holdMask.invalid = true ∧ s.hold .a = none := by decide +kernel

theorem witness_ConfirmPlacesUnit :
    let s := midPut .settled
    let r := { thePut .settled with settledDelta := some 398 }
    s.keysShut .a = false ∧ s.keyPut .a = some r ∧ r.phase = .settled ∧ r.settledDelta = some 398
      ∧ s.su.slotOf r.unit = some 0 ∧ s.su.slot 0 = .occupied (teaUnit 5#16) (.putting .a 0) := by decide +kernel

theorem witness_RejectExcludesUnit :
    let s := midPut .awaitMove
    s.keysShut .a = false ∧ s.put .a = some (thePut .awaitMove) ∧ (thePut .awaitMove).kind = .put
      ∧ (s.build .a).state = .putting := by decide +kernel

theorem witness_RejectExcludesUnit_held :
    let s := heldBuild (held .putTimeout .putting) putting (midPut .faulted)
    s.keysShut .a = false ∧ s.put .a = some (thePut .faulted) ∧ (thePut .faulted).kind = .put
      ∧ s.keyHoldOpen .a = some (held .putTimeout .putting)
      ∧ rejectAccepted Cause.putTimeout .putting = true := by decide +kernel

/-- The clauses of what follows a REJECT: nothing held back, a secondary cause, and none. -/
theorem witness_RejectExcludesUnit_after :
    let h := { held .putTimeout .putting with secondary := [⟨.gatherLate, false⟩, ⟨.bandLow, true⟩] }
    let s := heldBuild h putting (midPut .faulted)
    (thePut .faulted).expiries = [] ∧ s.keyHoldOpen .a = some h
      ∧ h.secondary.filter (fun x => !x.byCheck) = [⟨.gatherLate, false⟩]
      ∧ ((after (.reject .a) s).hold .a).map (·.primary.cause) = some .gatherLate
      ∧ ((after (.reject .a) (midPut .faulted)).build .a).covered = false
      ∧ ((after (.reject .a) (heldBuild (held .putTimeout .putting) putting (midPut .faulted))).build .a).covered
          = false := by decide +kernel

/-- RESUME with no cause left, into PUTTING with a line uncovered and covered, with a plan and without. -/
theorem witness_ResumeTakesUpNextCause_putting :
    let h := held .putMismatch .putting
    let s := heldBuild h { putting with lines := [{ orderLine with putting := 1 }] } (midPut .faulted)
    let heavy := { s with pv := s.pv.set .a (some { thePut .faulted with refWeight := 9001 }) }
    s.keysShut .a = false ∧ s.keyHoldOpen .a = some h ∧ h.secondary.filter (fun x => !x.byCheck) = []
      ∧ (s.build .a).covered = true ∧ s.plan .a = .ok [⟨5#16, 0, .single, 0, 1⟩]
      ∧ heavy.plan .a = .error (.weight 9001)
      ∧ ((heldBuild h putting (midPut .faulted)).build .a).covered = false := by decide +kernel

/-- RESUME with no cause left, into GATHERING, CHECK (with one cause left as well) and UNLOADING. -/
theorem witness_ResumeTakesUpNextCause_others :
    let s (c : Cause) (n : SavedState) : State := heldPlaced c n
    let h := { held .bandLow .check with primary := ⟨.bandLow, true⟩ }
    let r := removalRecord .unload (placed (teaUnit 5#16)) (some 1580)
    resumeAccepted .gatherLate .gathering = true ∧ (s .gatherLate .gathering).keyHoldOpen .a = some (held .gatherLate .gathering)
      ∧ ((after (.resume .a) (s .gatherLate .gathering)).build .a).covered = false
      ∧ resumeAccepted .bandLow .check = true ∧ h.primary.byCheck = true ∧ h.secondary = []
      ∧ (s .bandLow .check).put .a = none
      ∧ sortBy (fun x y : HeldCause => decide (x.cause.code < y.cause.code)) [⟨.gatherLate, false⟩] = ⟨.gatherLate, false⟩ :: []
      ∧ resumeAccepted .putMismatch .unloading = true
      ∧ (((s .putMismatch .unloading).setPut .a (some r)).put .a).isSome = true
      ∧ ((s .putMismatch .unloading).build .a).content ≠ [] := by decide +kernel

theorem witness_ResumeTakesUpNextCause :
    let h := { held .putMismatch .putting with secondary := [⟨.gatherLate, false⟩, ⟨.orderGone, false⟩] }
    let s := heldBuild h putting (midPut .faulted)
    s.keysShut .a = false ∧ s.keyHoldOpen .a = some h ∧ s.put .a = some (thePut .faulted)
      ∧ (thePut .faulted).kind = .put ∧ h.primary.cause = .putMismatch ∧ h.next = .putting
      ∧ sortBy (fun x y : HeldCause => decide (x.cause.code < y.cause.code))
          (h.secondary.filter (fun x => !x.byCheck)) = ⟨.orderGone, false⟩ :: [⟨.gatherLate, false⟩] := by
  decide +kernel

/-- R89: RESUME of SCALE_OVERRANGE into PUTTING in AWAIT_SETTLE, in AWAIT_BASE at 100 g and at 99 g, with a
cause left, with a line uncovered, covered, and with a plan that fails. -/
theorem witness_ResumeTakesUpNextCause_overrange :
    let h := held .scaleOverrange .putting
    let r (before : Phase) : PutRec := { thePut .faulted with before := before, limitLeft := 41 }
    let s (h : Hold) (lines : List LineRec) (r : PutRec) : State :=
      (heldBuild h { putting with lines := lines } (midPut .faulted)).setPut .a (some r)
    let on := [{ orderLine with putting := 1 }]
    let t (before : Phase) (g : Nat) : State :=
      after (.resume .a) ((s h on (r before)).setPlatform .a (stableAt g))
    (s h on (r .awaitSettle)).keyHoldOpen .a = some h ∧ h.secondary = []
      ∧ (t .awaitSettle 100).put .a = some { r .awaitSettle with phase := .awaitSettle, resuming := true }
      ∧ (t .awaitBase 100).put .a
          = some { r .awaitBase with phase := .awaitMove, baseline := some 100, failed := false }
      ∧ (t .awaitBase 99).put .a = some { r .awaitBase with phase := .awaitBase }
      ∧ ((t .awaitBase 99).build .a).state = .putting ∧ (t .awaitBase 99).hold .a = none
      ∧ ((after (.resume .a) (s h [orderLine] (r .awaitMove))).build .a).regatherDue = true
      ∧ ((after (.resume .a) (s { h with secondary := [⟨.gatherLate, false⟩] } on (r .awaitMove))).hold .a).map
          (fun k => (k.primary.cause, k.secondary, k.next)) = some (.gatherLate, [], .putting)
      ∧ ((after (.resume .a) (s h on { r .awaitMove with refWeight := 9001 })).hold .a).map
          (fun k => (k.primary.cause, k.saved)) = some (.planFull, .gathering) := by decide +kernel

/-- R174: RESUME of INVALID into PUTTING with a line uncovered, with a unit to put, with none, with a plan that
fails, and with a cause left. -/
theorem witness_ResumeTakesUpNextCause_valuation :
    let s (h : Hold) (quantity weight : Nat) (st : ShelfState) : State :=
      heldBuild h { putting with
        lines := [{ orderLine with item := ⟨tea, quantity, 1100, .family⟩, earmarked := 1, placed := 1 }]
        content := [placed (teaUnit 5#16)] }
        (shelved 9 { teaUnit 6#16 with label := { teaLabel with weight := weight } } st (listed (.mine .a) 0 active))
    let h := held .invalid .putting
    let t (quantity weight : Nat) (st : ShelfState) : State := after (.resume .a) (s h quantity weight st)
    (s h 2 400 .returned).keyHoldOpen .a = some h ∧ (s h 2 400 .returned).put .a = none
      ∧ (s h 2 400 (.earmarked .a 0)).plan .a = .ok [⟨6#16, 0, .single, 1, 2⟩]
      ∧ ((t 2 400 (.earmarked .a 0)).put .a).map (fun r => (r.unit, r.index, r.start)) = some (6#16, 2, 1)
      ∧ (s h 2 400 .returned).plan .a = .ok [] ∧ ((t 2 400 .returned).hold .a).map (·.primary.cause) = some .bandLow
      ∧ ((t 3 400 (.earmarked .a 0)).build .a).covered = false
      ∧ ((t 3 400 (.earmarked .a 0)).build .a).state = .gathering
      ∧ (s h 2 8601 (.earmarked .a 0)).plan .a = .error (.weight 9001)
      ∧ ((t 2 8601 (.earmarked .a 0)).hold .a).map (·.primary.cause) = some .planFull
      ∧ ((after (.resume .a) (s { h with secondary := [⟨.inexact, false⟩] } 2 400 .returned)).hold .a).map
          (·.primary.cause) = some .inexact := by decide +kernel

theorem witness_UndoReservesAndStarts :
    let s := heldPlaced .overweight .check
    s.keysShut .a = false ∧ s.keyHoldOpen .a = some (held .overweight .check)
      ∧ undoAccepted .overweight .check = true ∧ (s.build .a).lastPlaced = some (placed (teaUnit 5#16))
      ∧ s.put .a = none ∧ s.su.reservedSlot .a = none ∧ s.su.requests.contains .a = false
      ∧ s.su.lowestEmpty = some 0 := by decide +kernel

theorem witness_AbandonUnloads :
    let s := heldPlaced .orderGone .gathering
    s.keysShut .a = false ∧ s.keyHold .a = some (held .orderGone .gathering)
      ∧ abandonAccepted .orderGone .gathering = true ∧ (s.build .a).content ≠ [] := by decide +kernel

/-- R50: ABANDON with nothing placed: RELEASE for a MINE order at a count of 3 and of 2, none for a GONE one. -/
theorem witness_AbandonUnloads_empty :
    let s (st : NoticeState) (count : Nat) : State := heldBuild (held .planFull .gathering)
      { putting with lines := [{ orderLine with earmarked := 1 }] }
      (shelved 9 (teaUnit 4#16) (.earmarked .a 0) (listed st count active))
    let t (st : NoticeState) (count : Nat) : State := after (.abandon .a) (s st count)
    (s (.mine .a) 3).keysShut .a = false ∧ (s (.mine .a) 3).keyHold .a = some (held .planFull .gathering)
      ∧ ((s (.mine .a) 3).build .a).content = [] ∧ ((s (.mine .a) 3).build .a).link = some 7#32
      ∧ (t (.mine .a) 3).notice? 7#32 = some { order .stranded 3 with releasedByMe := true }
      ∧ (t (.mine .a) 2).notice? 7#32 = some { order .opened 2 with releasedByMe := true }
      ∧ (t (.mine .a) 2).lp.queue = [.release 7#32] ∧ (t (.mine .a) 2).build .a = .cleared
      ∧ (t (.mine .a) 2).su.slot 9 = .occupied (teaUnit 4#16) (.free 0)
      ∧ (t (.gone .a none) 1).lp.queue = [] ∧ (t (.gone .a none) 1).cu.notices = [] := by decide +kernel

theorem witness_StopInput :
    active.hc.localStop = false ∧ active.hc.stopped = false ∧ active.jc.state ≠ .isolated
      ∧ active.lp.hasSpace = true ∧ fullQueue.hc.localStop = false ∧ fullQueue.jc.state ≠ .isolated
      ∧ fullQueue.lp.hasSpace = false ∧ (active.setJc { active.jc with state := .isolated }).jc.state = .isolated
      ∧ (active.setHc { active.hc with localStop := true }).hc.localStop = true := by decide +kernel

theorem witness_HaltAndGo_halt :
    (∃ u, (heard false 7#5 .halt active).handOver .halt = some (⟨false, 7#5, .halt, []⟩, u))
      ∧ Frame.ofBody .halt [] = some .halt ∧ Frame.ofBody .go [] = some .go := ⟨⟨_, rfl⟩, rfl, rfl⟩

theorem witness_HaltAndGo_body :
    let s (k : Kind) : State := active.setLp { active.lp with handover := [⟨false, 7#5, k, [0#8]⟩] }
    (∃ u, (s .halt).handOver .halt = some (⟨false, 7#5, .halt, [0#8]⟩, u))
      ∧ ∃ u, (s .go).handOver .go = some (⟨false, 7#5, .go, [0#8]⟩, u) := ⟨⟨_, rfl⟩, _, rfl⟩

theorem witness_HaltAndGo_own :
    ∃ u, (heard true 1#5 .halt active).handOver .halt = some (⟨true, 1#5, .halt, []⟩, u) := ⟨_, rfl⟩

theorem witness_HaltAndGo_go :
    let s := heard false 30#5 .go (active.setHc { active.hc with stopped := true })
    ∃ u, s.handOver .go = some (⟨false, 30#5, .go, []⟩, u) ∧ s.hc.stopped = true := ⟨_, rfl, rfl⟩

theorem witness_HaltAndGo_idle :
    let s := heard false 30#5 .go active
    ∃ u, s.handOver .go = some (⟨false, 30#5, .go, []⟩, u) ∧ s.hc.stopped = false := ⟨_, rfl, rfl⟩

/-- R36, R41, R85, R88: what a GO that clears STOPPED sets going: a put in AWAIT_SETTLE, one in AWAIT_BASE at
100 g and at 99 g, a put held back, and an UNLOAD, an UNDO and a CHILL removal held back. -/
theorem witness_HaltAndGo_goes_on :
    let stopped (s : State) : State := heard false 30#5 .go (s.setHc { s.hc with stopped := true })
    let t (s : State) : State := after .go (stopped s)
    let based (g : Nat) : State := (midPut .awaitBase).setPlatform .a (stableAt g)
    let due := shelved 9 (teaUnit 4#16) (.earmarked .a 0) (building { putting with
      lines := [{ orderLine with earmarked := 1 }], plan := [⟨4#16, 0, .single, 0, 1⟩] } (listed (.mine .a) 0 active))
    let reserved (s : State) : State := s.setSlot 3 (.reserved .a)
    let unloads := reserved (building { putting with state := .unloading, content := [placed (teaUnit 5#16)] } active)
    let undoes := reserved (heldBuild { held .overweight .check with resolving := .undo }
      { putting with content := [placed (teaUnit 5#16)] } active)
    let chills := heldBuild { held .chillExpired .putting with named := [5#16] }
      { putting with content := [placed (coldUnit 5#16 1200)] } active
    (∃ u, (stopped due).handOver .go = some (⟨false, 30#5, .go, []⟩, u)) ∧ (stopped due).hc.stopped = true
      ∧ (stopped due).hc.localStop = false
      ∧ (t (midPut .awaitSettle)).put .a = some { thePut .awaitSettle with resuming := true }
      ∧ ((t (based 100)).put .a).map (fun r => (r.phase, r.baseline)) = some (.awaitMove, some 100)
      ∧ ((t (based 99)).put .a).map (·.phase) = some .awaitBase
      ∧ ((t due).put .a).map (·.unit) = some 4#16
      ∧ ((t unloads).put .a).map (·.kind) = some (.removal .unload)
      ∧ ((t undoes).put .a).map (·.kind) = some (.removal .undo)
      ∧ ((t chills).put .a).map (·.kind) = some (.removal .chill)
      ∧ ((t chills).hold .a).map (·.resolving) = some .chill := by
  refine ⟨⟨_, rfl⟩, ?_⟩
  decide +kernel

/-- R36: a line is handed to XU when STOPPED clears, and an OPEN order is marked first (log 38). -/
theorem witness_HaltAndGo_looks :
    let s := building gathering ((listed (.mine .a) 0 active).setCu
      { notices := [order (.mine .a) 0, { order .opened 0 with order := 8#32 }], waiting := [] })
    let t := after .go (heard false 30#5 .go (s.setHc { s.hc with stopped := true }))
    (t.build .b).link = some 8#32 ∧ t.lp.queue = [.claim 8#32, .want tea 1#8] := by decide +kernel

theorem witness_SweepFiltersEveryPlatform :
    (active.setJc { active.jc with fitted := 3 }).isFitted .c = true
      ∧ (active.setJc { active.jc with fitted := 3 }).isFitted .d = false := by decide +kernel

/-- Each phase with a reading on either side of its bound: 100 g for the baseline, 5 g from 1,180 g for
movement, 5 g from 1,578 g for a settle of +398 g, and a cell at 6,000 and at 5,999. -/
theorem witness_SweepFiltersEveryPlatform_phases :
    let s (ph : Phase) (g : Nat) : State := (midPut ph).setPlatform .a (stableAt g)
    let gone (x : State) : State := x.setHc { x.hc with stopped := true }
    (∀ ph ∈ [Phase.awaitBase, .awaitMove, .awaitSettle, .settled],
        ((s ph 100).put .a).map (fun r => (r.phase, r.baseline, r.resuming)) = some (ph, some 1180, false)
        ∧ (s ph 100).hc.stopped = false ∧ ((s ph 100).build .a).state = .putting ∧ (s ph 100).hold .a = none)
      ∧ (s .awaitBase 100).stable .a = some 100 ∧ (s .awaitBase 99).stable .a = some 99
      ∧ ((s .awaitMove 1185).wf.get .a).filteredValue = some 1185 ∧ 5 ≤ ((1185 : Int) - 1180).natAbs
      ∧ ((s .awaitMove 1184).wf.get .a).filteredValue = some 1184 ∧ ((1184 : Int) - 1180).natAbs < 5
      ∧ 5 ≤ ((1583 : Int) - (1180 + 398)).natAbs ∧ ((1582 : Int) - (1180 + 398)).natAbs < 5
      ∧ ((midPut .awaitSettle).stable .a = none ∧ (gone (midPut .awaitSettle)).hc.stopped = true)
      ∧ (6000 ≤ (⟨5999, 6000, 0, 0⟩ : Quad).c1 ∧ ¬ 6000 ≤ (⟨5999, 6000, 0, 0⟩ : Quad).c0) := by decide +kernel

/-- What those readings do: the baseline at 100 g, movement at 1,185 g, the settle of +420 g, which is at the
tolerance of 400 g and waits for CONFIRM, and a SETTLED settle that 1,583 g discards. -/
theorem witness_SweepFiltersEveryPlatform_effects :
    let q : Quad := ⟨300, 300, 300, 300⟩
    let go (ph : Phase) (g : Nat) : Option (Phase × Option Nat) :=
      ((((midPut ph).setPlatform .a (stableAt g)).sweepOp .a q).put .a).map (fun r => (r.phase, r.baseline))
    [go .awaitBase 100, go .awaitBase 99, go .awaitMove 1185, go .awaitMove 1184, go .awaitSettle 1600,
        go .settled 1583, go .settled 1582]
      = [some (.awaitMove, some 100), some (.awaitBase, some 1180), some (.awaitSettle, some 1180),
        some (.awaitMove, some 1180), some (.settled, some 1180), some (.awaitSettle, some 1180),
        some (.settled, some 1180)] := by decide +kernel

/-- The tare at 100 g, after which the first planned put starts; 99 g is none. -/
theorem witness_SweepFiltersEveryPlatform_tare :
    let e : PlanEntry := ⟨5#16, 0, .single, 0, 1⟩
    let s (g : Nat) : State := (building { putting with
        tare := none, trayWanted := true, plan := [e], lines := [{ orderLine with earmarked := 1 }] }
      (shelved 0 (teaUnit 5#16) (.earmarked .a 0) (listed (.mine .a) 0 active))).setPlatform .a (stableAt g)
    ((s 100).build .a).state = .putting ∧ ((s 100).build .a).trayWanted = true ∧ (s 100).stable .a = some 100
      ∧ (s 100).hc.stopped = false ∧ (s 99).stable .a = some 99 ∧ ((s 100).build .a).plan = [e]
      ∧ ((s 100).build .a).regatherDue = false ∧ (s 100).put .a = none ∧ (s 100).su.slotOf 5#16 = some 0
      ∧ (s 100).su.slot 0 = .occupied (teaUnit 5#16) (.earmarked .a 0) := by decide +kernel

/-- Removals of each purpose under a saturated cell: an UNLOAD of a build in UNLOADING, an UNDO of a HELD one. -/
theorem witness_SweepFiltersEveryPlatform_removals :
    let x := placed (teaUnit 5#16)
    let unload := (building { putting with state := .unloading, content := [x] } active).setPut .a
      (some (removalRecord .unload x (some 1580)))
    let undo := (heldPlaced .overweight .check).setPut .a (some (removalRecord .undo x (some 1580)))
    let kept := (heldBuild (held .putMismatch .putting) putting (midPut .awaitSettle)).setPut .a
      (some { thePut .awaitSettle with resuming := true })
    ((unload.build .a).state = .unloading ∧ unload.hold .a = none ∧ unload.hc.stopped = false)
      ∧ ((undo.sweepOp .a ⟨0, 0, 6000, 0⟩).put .a).map (fun r => (r.phase, r.baseline, r.failed))
          = some (.awaitBase, none, true)
      ∧ ((unload.sweepOp .a ⟨0, 0, 6000, 0⟩).hold .a).map (fun h => (h.primary.cause, h.saved))
          = some (.scaleOverrange, .unloading)
      ∧ (kept.build .a).state = .held ∧ (kept.put .a).map (·.kind) = some .put := by decide +kernel

/-- R88: after a suspension a put in AWAIT_MOVE is judged at the first stable reading of 1,185 g, a mismatch of
a put of 400 g, and stays in AWAIT_MOVE at 1,184 g; a SETTLED one stays so at 1,582 g and is judged at 1,583 g. -/
theorem witness_SweepFiltersEveryPlatform_resuming :
    let s (ph : Phase) (g : Nat) : State := ((midPut ph).setPut .a (((midPut ph).put .a).map
      (fun r => { r with resuming := true }))).setPlatform .a (stableAt g)
    let go (ph : Phase) (g : Nat) : Option (Phase × Bool × Option Int) :=
      (((s ph g).sweepOp .a ⟨300, 300, 300, 300⟩).put .a).map (fun r => (r.phase, r.resuming, r.settledDelta))
    ((s .awaitMove 1185).put .a).map (·.resuming) = some true ∧ (s .awaitMove 1185).stable .a = some 1185
      ∧ (s .awaitMove 1185).hc.stopped = false
      ∧ [go .awaitMove 1185, go .awaitMove 1184, go .settled 1582, go .settled 1583, go .awaitBase 100]
        = [some (.faulted, false, none), some (.awaitMove, false, none), some (.settled, false, some 398),
          some (.settled, false, some 403), some (.awaitMove, false, none)] := by decide +kernel

/-- Boundaries: a delta of −5 is PUT_REMOVED and −4 is not; 400 g FIXED has a tolerance of 20 g. -/
theorem witness_PutJudgedAtSettle :
    let s := midPut .awaitSettle
    let r := thePut .awaitSettle
    s.put .a = some r ∧ r.kind = .put ∧ (s.build .a).state = .putting ∧ s.hold .a = none
      ∧ (-5 : Int) ≤ -5 ∧ ((-5 : Int) < -4 ∧ r.tolerance < ((-4 : Int) - r.expected).natAbs)
      ∧ ((-5 : Int) < 420 ∧ ((420 : Int) - r.expected).natAbs ≤ r.tolerance)
      ∧ s.jc.setup.autoConfirm = false ∧ r.confirmMark = false := by decide +kernel

/-- Boundaries: with the mark set or auto-confirm on, +380 g is confirmed and +379 g is a mismatch. -/
theorem witness_PutJudgedAtSettle_confirms :
    let s := midPut .awaitSettle
    let r := { thePut .awaitSettle with confirmMark := true }
    let auto := s.setJc { s.jc with setup := { s.jc.setup with autoConfirm := true } }
    r.confirmMark = true ∧ auto.jc.setup.autoConfirm = true ∧ (-5 : Int) < 380
      ∧ ((380 : Int) - r.expected).natAbs ≤ r.tolerance ∧ r.tolerance < ((379 : Int) - r.expected).natAbs
      ∧ s.su.slotOf r.unit = some 0 ∧ s.su.slot 0 = .occupied (teaUnit 5#16) (.putting .a 0)
      ∧ s.jc.setup.holdMask.invalid = true
      ∧ ([(s.setPut .a (some r)).judge .a r 380, auto.judge .a (thePut .awaitSettle) 380].map
          (fun t => (t.build .a).content.map (·.weight))) = [[380], [380]] := by decide +kernel

theorem witness_PutJudgedAtSettle_timeout :
    let r := { thePut .awaitMove with limitLeft := 0 }
    let s := (midPut .awaitMove).setPut .a (some r)
    s.put .a = some r ∧ s.hc.stopped = false ∧ r.phase ≠ .settled ∧ r.phase ≠ .faulted ∧ r.limitLeft = 0
      ∧ r.kind = .put ∧ (s.build .a).state = .putting ∧ s.hold .a = none := by decide +kernel

/-- Boundaries: 400 g expected back with a tolerance of 20 g: −380 is in tolerance, −379 is not. -/
theorem witness_RemovalJudged :
    let s := (heldPlaced .overweight .check).setSlot 3 (.reserved .a)
    let r := removalRecord .undo (placed (teaUnit 5#16)) (some 1580)
    r.kind = .removal .undo ∧ s.su.reservedSlot .a = some 3
      ∧ (s.build .a).content.find? (fun y => decide (y.unit.number = r.unit)) = some (placed (teaUnit 5#16))
      ∧ ((-380 : Int) - r.expected).natAbs ≤ r.tolerance ∧ r.tolerance < ((-379 : Int) - r.expected).natAbs := by
  decide +kernel

/-- Two named units, the first being removed; a secondary CHILL_EXPIRED, a cause of a check and another. -/
def chilling (named : List UnitNo) : State :=
  let h := { held .chillExpired .gathering with
    named := named, resolving := .chill
    secondary := [⟨.chillExpired, false⟩, ⟨.bandLow, true⟩, ⟨.gatherLate, false⟩] }
  heldBuild h { putting with
    lines := [{ orderLine with placed := 2 }]
    content := [placed (coldUnit 5#16 1200), { placed (coldUnit 6#16 1200) with start := 1 }] }
    (listed (.mine .a) 0 active)

/-- The CHILL removal of unit 5. -/
def chillRemoval : PutRec := removalRecord .chill (placed (coldUnit 5#16 1200)) (some 1580)

/-- R119, R177: with another unit named its removal starts; after the last the other cause is primary. -/
theorem witness_RemovalJudged_chill :
    let s := chilling [5#16, 6#16]
    let t := s.judge .a chillRemoval (-400)
    (s.build .a).content.find? (fun y => decide (y.unit.number = chillRemoval.unit)) = some (placed (coldUnit 5#16 1200))
      ∧ ((-400 : Int) - chillRemoval.expected).natAbs ≤ chillRemoval.tolerance
      ∧ s.hc.stopped = false ∧ (s.build .a).state = .held ∧ (t.put .a).map (·.unit) = some 6#16
      ∧ (((chilling [5#16]).judge .a chillRemoval (-400)).hold .a).map (·.primary.cause) = some .gatherLate := by
  decide +kernel

/-- R178, R179: with no cause left an UNDO and the last CHILL removal leave HELD, a line uncovered. -/
theorem witness_RemovalJudged_leaves :
    let s := (heldPlaced .overweight .check).setSlot 3 (.reserved .a)
    let t := s.judge .a (removalRecord .undo (placed (teaUnit 5#16)) (some 1580)) (-400)
    let c := heldBuild { held .chillExpired .gathering with named := [5#16], resolving := .chill } putting
      (building { putting with content := [placed (coldUnit 5#16 1200)] } (listed (.mine .a) 0 active))
    (t.build .a).covered = false ∧ (t.build .a).state = .gathering ∧ (c.hold .a).map (·.secondary) = some [] := by
  decide +kernel

/-- R50: the last unit out, with the reason RELEASE at a count of 3, and SILENT. -/
theorem witness_RemovalJudged_ends :
    let r := removalRecord .unload (placed (teaUnit 5#16)) (some 1580)
    let s (why : UnloadReason) (st : NoticeState) : State :=
      ((building { putting with state := .unloading, content := [placed (teaUnit 5#16)], unloadReason := some why }
        (listed st 3 active)).setSlot 3 (.reserved .a)).setPut .a (some r)
    let t (why : UnloadReason) (st : NoticeState) : State := (s why st).judge .a r (-400)
    r.expected = -400 ∧ ((s .release (.mine .a)).build .a).link = some 7#32
      ∧ ((s .release (.mine .a)).build .a).content.filter (fun y => decide (y.unit.number ≠ r.unit)) = []
      ∧ (t .release (.mine .a)).lp.queue = [.release 7#32] ∧ (t .release (.mine .a)).build .a = .cleared
      ∧ (t .release (.mine .a)).notice? 7#32 = some { order .stranded 3 with releasedByMe := true }
      ∧ (t .silent (.gone .a none)).lp.queue = [] ∧ (t .silent (.gone .a none)).cu.notices = [] := by
  decide +kernel

theorem witness_RemovalJudged_unload :
    let r := removalRecord .unload (placed (teaUnit 5#16)) (some 1580)
    let s := (building { putting with state := .unloading, content := [placed (teaUnit 5#16)] } active).setPut
      .a (some r)
    s.put .a = some r ∧ (s.build .a).state = .unloading ∧ s.hold .a = none
      ∧ r.tolerance < ((1 : Int) - r.expected).natAbs := by decide +kernel

/-- An order of 1,100 with 10 % down and 15 % up in a LARGE tray: 989 is below the band and 990 in it; a
weight total of 9,000 g passes and 9,001 g does not. -/
def checked (value : Nat) (grams : Int) : State :=
  building { putting with
    content := [{ placed (teaUnit 5#16) with value := value, weight := grams }] } (listed (.mine .a) 0 active)

theorem witness_CheckSealDispatch :
    (checked 990 9000).infoOf .a = some orderInfo ∧ (checked 990 9000).hold .a = none
      ∧ (((checked 990 9000).build .a).lines.map (fun l => l.item.quantity * l.item.value)).sum = 1100
      ∧ (((checked 990 9000).build .a).content.map (·.value)).sum = 990
      ∧ (((checked 990 9001).build .a).content.map (·.weight)).sum = 9001 ∧ orderInfo.tray.limit = 9000
      ∧ ¬ 100 * 990 < 1100 * (100 - min orderInfo.down 50) ∧ 100 * 989 < 1100 * (100 - min orderInfo.down 50)
      ∧ ((checked 990 9000).runCheck .a []).lp.queue = [.done 7#32 .none 990#24 9000#16]
      ∧ active.jc.state ≠ .isolated ∧ active.lp.hasSpace = true := by decide +kernel

/-- The band's high end: 1,265 is in the band of 1,100 with 15 % up, and 1,266 is held with BAND_HIGH. -/
theorem witness_CheckSealDispatch_high :
    let t := (checked 1266 9000).runCheck .a []
    ¬ 1100 * (100 + min orderInfo.up 50) < 100 * 1265 ∧ 1100 * (100 + min orderInfo.up 50) < 100 * 1266
      ∧ ((t.vu.get .a).causes.bandHigh && active.jc.setup.holdMask.bandHigh) = true ∧ Cause.bandHigh ∉ ([] : List Cause)
      ∧ (t.hold .a).map (fun h => (h.primary, h.saved)) = some (⟨.bandHigh, true⟩, .check)
      ∧ (((checked 1265 9000).runCheck .a []).build .a).state = .sealed := by decide +kernel

theorem witness_CheckSealDispatch_dispatch :
    let s (g : Nat) : State := (building { putting with state := .sealed } active).setPlatform .a (stableAt g)
    ((s 99).build .a).state = .sealed ∧ (s 99).stable .a = some 99 ∧ (s 100).stable .a = some 100 := by
  decide +kernel

/-- A tie (2,500 × 441) and a weight of 0 g. -/
theorem witness_ValueRoundsByMode : 0 < 2500 ∧ 0 < 441 ∧ 2500 * 441 % 1000 = 500 ∧ (0 : Int) ≤ 0 := by decide

theorem quad_never_small (c : Nat) : permitted .small unit205 c = false := by
  simp only [permitted, fitsLayer, unit205, cellMask, TrayType.cells]
  have : ¬ (c + 3 < 2) := by omega
  simp [this]

theorem witness_PlanPlacesPermitted :
    placeAll .large [] [unit201, unit203] = .ok [⟨unit201, 0⟩, ⟨unit203, 2⟩]
      ∧ unit205 ∈ [unit201, unit205] ∧ ∀ c, permitted .small unit205 c = false :=
  ⟨by decide +kernel, by decide, quad_never_small⟩

/-- R53 to R57, R61, R64 at their bounds: 1,500 g is not heavy and 1,501 g is; a QUAD lies in one layer; a
SINGLE skips the occupied cell; the second QUAD of a layer finds no place. -/
theorem witness_PlanPlacesPermitted_cells :
    permitted .large { unit204 with weight := 1500 } 4 = true
      ∧ permitted .large { unit204 with weight := 1501 } 4 = false
      ∧ permitted .large unit205 4 = true ∧ permitted .large unit205 2 = false ∧ permitted .medium unit205 0 = false
      ∧ permitted .medium unit201 0 = true ∧ permitted .medium unit201 1 = false
      ∧ permitted .large unit202 4 = true ∧ permitted .large unit202 2 = false
      ∧ placeAll .large [0] [unit204] = .ok [⟨unit204, 1⟩]
      ∧ placeAll .large [] [{ unit205 with weight := 1501 }, { unit205 with unit := 6#16, weight := 1501 }]
          = .error (.place 6#16) := by decide +kernel

/-- R59 to R62: a request at the limit, one above it, and the plan order of three units. -/
theorem witness_PlanPlacesPermitted_request :
    let us := [unit204, unit202, unit203]
    let vs := [unit202, unit203, unit204]
    us.Perm vs ∧ vs.Pairwise (fun x y => x.keys < y.keys)
      ∧ planRequest .large 6200 [] 1 us
          = .ok [⟨203#16, 1, .double, 0, 1⟩, ⟨204#16, 3, .single, 2, 2⟩, ⟨202#16, 0, .double, 4, 3⟩]
      ∧ planRequest .large 6201 [] 1 us = .error (.weight 9001) := by decide +kernel

/-- R58, R62: a plan around a placed unit, and around a placed and a pending one (log 53). -/
theorem witness_PlanPlacesPermitted_build :
    let b := { putting with content := [placed (teaUnit 5#16)] }
    let s := shelved 9 (teaUnit 6#16) (.earmarked .a 0) (building b (listed (.mine .a) 0 active))
    let t := s.setPut .a (some { thePut .awaitMove with unit := 7#16, start := 1, index := 2 })
    s.infoOf .a = some orderInfo ∧ s.putPending .a = false ∧ s.plan .a = .ok [⟨6#16, 0, .single, 1, 2⟩]
      ∧ t.plan .a = .ok [⟨7#16, 0, .single, 1, 2⟩, ⟨6#16, 0, .single, 2, 3⟩] := by decide +kernel

theorem witness_ExactWaitExpires :
    let l := { orderLine with exactWait := .running 0 }
    let s := building { gathering with lines := [l] } active
    s.exactWaitDue ⟨.a, 0⟩ = true ∧ s.line? ⟨.a, 0⟩ = some l := by decide +kernel

/-- Three FREE units on the shelf: one of the line's own code, one outside its band, one acceptable. -/
theorem witness_ExactWaitExpires_search :
    let l := { orderLine with exactWait := .running 0 }
    let u (n : UnitNo) (v : Nat) : UnitRec := { teaUnit n with label := { teaLabel with code := ⟨33#10, 2#6⟩, value := v } }
    let s := shelved 2 (u 6#16 989) (.free 3) (shelved 9 (u 7#16 990) (.free 4)
      (building { gathering with lines := [l] } (listed (.mine .a) 0 active)))
    let t := after (.exactWaitExpiry .a 0) s
    s.exactWaitDue ⟨.a, 0⟩ = true ∧ s.line? ⟨.a, 0⟩ = some l ∧ l.uncovered = 1
      ∧ t.su.slot 9 = .occupied (u 7#16 990) (.earmarked .a 0) ∧ t.su.slot 2 = .occupied (u 6#16 989) (.free 3) := by
  decide +kernel

theorem witness_BandIsExactRange :
    let s := building gathering (listed (.mine .a) 0 active)
    s.line? ⟨.a, 0⟩ = some orderLine ∧ s.infoOf .a = some orderInfo := by decide +kernel

theorem witness_GatherLimitEnds_release :
    let s := building { gathering with gatherLeft := some 0 } (listed (.mine .a) 3 active)
    (s.build .a).state = .gathering ∧ (s.build .a).gatherLeft = some 0 ∧ (s.build .a).content = []
      ∧ (s.build .a).link = some 7#32 ∧ s.notice? 7#32 = some (order (.mine .a) 3) := by decide +kernel

/-- R39, R50, R135: RELEASE queued, waiting and discarded; the earmark freed, and taken by B's line. -/
theorem witness_GatherLimitEnds_ends :
    let s (base : State) : State := shelved 9 (teaUnit 4#16) (.earmarked .a 0)
      (building { gathering with gatherLeft := some 0, lines := [{ orderLine with earmarked := 1 }] }
        (listed (.mine .a) 2 base))
    let t (base : State) : State := after (.gatherLimitExpiry .a) (s base)
    let other := active.setBuild .b { gathering with link := some 8#32, claimOrder := some 2 }
    (t active).lp.queue = [.release 7#32] ∧ (t active).build .a = .cleared
      ∧ (t active).su.slot 9 = .occupied (teaUnit 4#16) (.free 0)
      ∧ (t fullQueue).cu.waiting = [.release 7#32]
      ∧ (t (active.setJc { active.jc with state := .isolated })).lp = active.lp
      ∧ (t other).su.slot 9 = .occupied (teaUnit 4#16) (.earmarked .b 0) := by decide +kernel

theorem witness_GatherLimitEnds_hold :
    let s := building { gathering with gatherLeft := some 0, content := [placed (teaUnit 5#16)] } active
    (s.build .a).state = .gathering ∧ (s.build .a).gatherLeft = some 0 ∧ (s.build .a).content ≠ []
      ∧ s.hold .a = none := by decide +kernel

theorem witness_SurplusLooks :
    surplus.su.slotOf 4#16 = some 6 ∧ surplus.su.slot 6 = .occupied (teaUnit 4#16) (.free 60)
      ∧ surplus.jc.setup.surplusHold ≤ 60 ∧ State.reset.gateOpen = false ∧ surplus.gateOpen = true
      ∧ surplus.surplusCodes = [tea] ∧ surplus.clockAllows tea surplus.jc.setup.surplusHold = true
      ∧ surplus.accepts3 = true := by decide +kernel

theorem witness_WantRetryOffersWant :
    let l := { orderLine with wantRefused := true }
    let s := building { gathering with lines := [l] } active
    s.allLines = [⟨.a, 0⟩] ∧ s.line? ⟨.a, 0⟩ = some l ∧ l.wantRefused = true ∧ s.canAsk ⟨.a, 0⟩ = true
      ∧ s.askOf ⟨.a, 0⟩ = none ∧ bestOffer l.item.code s.xu.offers = none ∧ s.gateOpen = true
      ∧ l.wantSent = false ∧ s.accepts3 = true := by decide +kernel

theorem witness_AskWaitClearsRecord :
    (asking 0).askOf ⟨.a, 0⟩ = some ⟨⟨.a, 0⟩, 7#5, tea, 1, 0⟩
      ∧ ((asking 0).setHc { active.hc with stopped := true }).hc.stopped = true := by decide +kernel

theorem witness_AgedEntriesLeave :
    ∃ x ∈ (active.setJc { active.jc with peers := [⟨7#5, 30⟩] }).jc.peers, x.station = 7#5 ∧ 30 ≤ x.age :=
  ⟨⟨7#5, 30⟩, by decide⟩

theorem witness_TransfersRunOut :
    let s := active.setXu { active.xu with
      expected := [⟨7#5, 19#8, tea, 3, 1, [0], 180, none⟩], outbound := [⟨3#8, 7#5, [teaUnit 4#16], 210⟩] }
    s.expectedTag 7#5 19#8 = some ⟨7#5, 19#8, tea, 3, 1, [0], 180, none⟩
      ∧ s.xu.outbound.find? (fun x => decide (x.seq = 3#8)) = some ⟨3#8, 7#5, [teaUnit 4#16], 210⟩ := by
  decide +kernel

/-- A linked entry that had one unit to come; a queue with and without space, and ISOLATED. -/
theorem witness_TransfersRunOut_taken :
    let s := (building { gathering with lines := [{ orderLine with incoming := 1 }] } active).setXu { active.xu with
      expected := [⟨7#5, 19#8, tea, 3, 1, [0], 180, some ⟨.a, 0⟩⟩] }
    s.expectedTag 7#5 19#8 = some ⟨7#5, 19#8, tea, 3, 1, [0], 180, some ⟨.a, 0⟩⟩
      ∧ s.line? ⟨.a, 0⟩ = some { orderLine with incoming := 1 } ∧ s.jc.state ≠ .isolated ∧ s.lp.hasSpace = true
      ∧ Frame.taken 7#5 19#8 2#8 ∈ (after (.transferLimit 7#5 19#8) s).lp.queue
      ∧ fullQueue.lp.hasSpace = false ∧ fullQueue.xu.waiting.length < 16 := by decide +kernel

/-- A's line can ask; an entry of 3 from station 9, older, and the OFFER of 3 from station 7: a tie. -/
theorem witness_OfferEntersList_asks :
    let s := heard false 7#5 (.offer tea 3#16) ((building gathering active).setXu
      { active.xu with offers := [⟨9#5, tea, 3, 5⟩] })
    (∃ u, s.handOver .offer = some (⟨false, 7#5, .offer, (Frame.offer tea 3#16).body⟩, u))
      ∧ s.hc.stopped = false ∧ s.line? ⟨.a, 0⟩ = some orderLine
      ∧ s.allLines.filter (fun x => decide ((s.line? x).map (·.item.code) = some tea)) = [⟨.a, 0⟩]
      ∧ s.canAsk ⟨.a, 0⟩ = true ∧ s.askOf ⟨.a, 0⟩ = none ∧ s.xu.waiting.length < 16
      ∧ joinOffers s.xu.offers 7#5 tea (3#16).toNat = [] ++ ⟨9#5, tea, 3, 5⟩ :: [⟨7#5, tea, 3, 0⟩]
      ∧ s.lp.hasSpace = true ∧ (s.setLp fullQueue.lp).lp.hasSpace = false
      ∧ (after .offer s).lp.queue = [.ask 9#5 tea 1#8] := ⟨⟨_, rfl⟩, by decide +kernel⟩

theorem witness_OfferEntersList :
    let s := heard false 7#5 (.offer tea 300#16) active
    ∃ u, s.handOver .offer = some (⟨false, 7#5, .offer, (Frame.offer tea 300#16).body⟩, u)
      ∧ Frame.ofBody .offer (Frame.offer tea 300#16).body = some (.offer tea 300#16)
      ∧ s.jc.state = .active ∧ s.allLines = [] := ⟨_, rfl, by decide +kernel⟩

theorem witness_WantAnswered :
    let s := heard false 7#5 (.want tea 1#8) surplus
    ∃ u, s.handOver .want = some (⟨false, 7#5, .want, (Frame.want tea 1#8).body⟩, u)
      ∧ Frame.ofBody .want (Frame.want tea 1#8).body = some (.want tea 1#8)
      ∧ s.gateOpen = true ∧ 0 < s.su.freeCount tea ∧ s.clockAllows tea 5 = true ∧ u.accepts3 = true :=
  ⟨_, rfl, by decide +kernel, by decide +kernel, by decide +kernel, by decide +kernel, by decide +kernel⟩

theorem witness_WantAnswered_closed :
    let s := heard false 7#5 (.want tea 1#8) State.reset
    ∃ u, s.handOver .want = some (⟨false, 7#5, .want, (Frame.want tea 1#8).body⟩, u) ∧ s.gateOpen = false :=
  ⟨_, rfl, by decide⟩

theorem witness_AskJoinsQueue :
    let s := heard false 7#5 (.ask 1#5 tea 4#8) fullQueue
    ∃ u, s.handOver .ask = some (⟨false, 7#5, .ask, (Frame.ask 1#5 tea 4#8).body⟩, u)
      ∧ Frame.ofBody .ask (Frame.ask 1#5 tea 4#8).body = some (.ask 1#5 tea 4#8) ∧ 1#5 = s.jc.station
      ∧ s.gateOpen = true ∧ u.canServe = false ∧ s.xu.askQueue.length < 8 :=
  ⟨_, rfl, by decide +kernel, by decide +kernel, by decide +kernel, by decide +kernel, by decide +kernel⟩

theorem witness_AskJoinsQueue_full :
    let s := heard false 7#5 (.ask 1#5 tea 1#8) (fullAsks.setLp fullQueue.lp)
    ∃ u, s.handOver .ask = some (⟨false, 7#5, .ask, (Frame.ask 1#5 tea 1#8).body⟩, u)
      ∧ s.gateOpen = true ∧ u.canServe = false ∧ 8 ≤ s.xu.askQueue.length :=
  ⟨_, rfl, by decide +kernel, by decide +kernel, by decide +kernel⟩

theorem witness_AskJoinsQueue_other :
    let s := heard false 7#5 (.ask 2#5 tea 1#8) active
    ∃ u, s.handOver .ask = some (⟨false, 7#5, .ask, (Frame.ask 2#5 tea 1#8).body⟩, u)
      ∧ Frame.ofBody .ask (Frame.ask 2#5 tea 1#8).body = some (.ask 2#5 tea 1#8) ∧ 2#5 ≠ s.jc.station :=
  ⟨_, rfl, by decide +kernel, by decide⟩

theorem witness_AskServeGrants :
    let s := surplus.setXu { surplus.xu with askQueue := [⟨7#5, tea, 2⟩] }
    s.xu.askQueue = [⟨7#5, tea, 2⟩] ∧ s.canServe = true ∧ (s.chosenFor ⟨7#5, tea, 2⟩).length = 1 := by
  decide +kernel

/-- R156, R157: three FREE units of the code with two CHILLED, asked for two: the most exposed first; none with 8
outbound entries and two with 7; and 255 and 0 held, the number after 255 is 1. -/
theorem witness_AskServeGrants_choice :
    let s := shelved 2 (teaUnit 1#16) (.free 0) (shelved 5 (coldUnit 2#16 7) (.free 0)
      (shelved 6 (coldUnit 3#16 900) (.free 0) active))
    let out (n : Nat) : State := s.setXu { s.xu with
      seq := 255#8, outbound := (List.range n).map (fun i => ⟨BitVec.ofNat 8 (255 + i), 7#5, [], 0⟩) }
    ((out 7).chosenFor ⟨7#5, tea, 2⟩).map (·.slot) = [6, 5] ∧ ((out 7).chosenFor ⟨7#5, tea, 4⟩).map (·.slot) = [6, 5, 2]
      ∧ (out 8).chosenFor ⟨7#5, tea, 2⟩ = [] ∧ (out 2).nextSeq = 1#8 ∧ (out 0).nextSeq = 255#8
      ∧ s.su.freeCount tea = 3 := by decide +kernel

/-- Two asks: the first is served and the second is left; with the table's other slots taken and C waiting for
a slot, the slot emptied is reserved for C. -/
theorem witness_AskServeGrants_queue :
    let a : AskEntry := ⟨7#5, tea, 2⟩
    let s := surplus.setXu { surplus.xu with askQueue := [a, ⟨9#5, tea, 1⟩] }
    let wanted := s.setSu { s.su with requests := [.c], slots := s.su.slots.map (fun x =>
      match x with | .empty _ => .reserved .d | y => y) }
    s.xu.askQueue = a :: [⟨9#5, tea, 1⟩] ∧ s.canServe = true ∧ s.su.requests = [] ∧ [(⟨9#5, tea, 1⟩ : AskEntry)].length < 8
      ∧ wanted.canServe = true ∧ wanted.su.requests ≠ []
      ∧ (wanted.chosenFor a).map (fun g => (wanted.serve a []).su.slot g.slot) = [.reserved .c]
      ∧ (s.chosenFor a).map (fun g => (s.serve a []).su.slot g.slot) = [.empty (some s.nextSeq)] := by
  decide +kernel

theorem witness_GrantMakesExpected :
    let s := heard false 7#5 (.grant 1#5 19#8 tea [610#16, 455#16]) (asking 5)
    ∃ u, s.handOver .grant = some (⟨false, 7#5, .grant, (Frame.grant 1#5 19#8 tea [610#16, 455#16]).body⟩, u)
      ∧ Frame.ofBody .grant (Frame.grant 1#5 19#8 tea [610#16, 455#16]).body
          = some (.grant 1#5 19#8 tea [610#16, 455#16])
      ∧ 1#5 = s.jc.station ∧ s.jc.state ≠ .joining ∧ s.expectedTag 7#5 19#8 = none
      ∧ s.xu.expected.length < 8 ∧ (s.answered 7#5 tea).isSome = true := ⟨_, rfl, by decide +kernel⟩

theorem witness_TakenEndsOutbound :
    let s := heard false 7#5 (.taken 1#5 3#8 1#8) (active.setXu { active.xu with
      outbound := [⟨3#8, 7#5, [teaUnit 4#16], 20⟩] })
    ∃ u, s.handOver .taken = some (⟨false, 7#5, .taken, (Frame.taken 1#5 3#8 1#8).body⟩, u)
      ∧ Frame.ofBody .taken (Frame.taken 1#5 3#8 1#8).body = some (.taken 1#5 3#8 1#8)
      ∧ 1#5 = s.jc.station ∧ s.jc.state ≠ .joining
      ∧ (∃ o ∈ s.xu.outbound, o.seq = 3#8 ∧ o.dest = 7#5)
      ∧ ∀ o ∈ s.xu.outbound, ¬ (o.seq = 4#8 ∧ o.dest = 7#5) := ⟨_, rfl, by decide +kernel⟩

theorem witness_NoticeUpdatesList :
    let s := heard false 30#5 (.notice orderWire) active
    ∃ u, s.handOver .notice = some (⟨false, 30#5, .notice, (Frame.notice orderWire).body⟩, u)
      ∧ Frame.ofBody .notice (Frame.notice orderWire).body = some (.notice orderWire)
      ∧ orderWire.check = some orderInfo ∧ s.notice? orderWire.order = none
      ∧ s.cu.notices.length < 32 := ⟨_, rfl, by decide +kernel⟩

theorem witness_NoticeUpdatesList_known :
    let s := heard false 30#5 (.notice orderWire) (listed (.others 9#5) 1 active)
    ∃ u, s.handOver .notice = some (⟨false, 30#5, .notice, (Frame.notice orderWire).body⟩, u)
      ∧ s.notice? orderWire.order = some (order (.others 9#5) 1) := ⟨_, rfl, by decide +kernel⟩

/-- A list of 32 with one notice to evict, the third of the order of choosing, and one with none. -/
def fullList (one : Notice) : State :=
  heard false 30#5 (.notice orderWire) (active.setCu { active.cu with
    notices := one :: List.replicate 31 ⟨9#32, some orderInfo, .mine .a, 0, false⟩ })

theorem witness_NoticeUpdatesList_full :
    let test := fun test => (fullList ⟨8#32, none, .opened, 0, false⟩).cu.notices.find? test
    let kept := (fullList ⟨8#32, some orderInfo, .opened, 0, false⟩)
    (∃ u, kept.handOver .notice = some (⟨false, 30#5, .notice, (Frame.notice orderWire).body⟩, u))
      ∧ kept.notice? orderWire.order = none ∧ 32 ≤ kept.cu.notices.length
      ∧ firstSome test [fun n => n.isOthers, fun n => decide (n.state = .stranded),
          fun n => decide (n.state = .opened) && n.info.isNone] = some ⟨8#32, none, .opened, 0, false⟩
      ∧ ∀ n ∈ kept.cu.notices, n.isOthers = false ∧ n.state ≠ .stranded ∧ ¬ (n.state = .opened ∧ n.info = none) :=
  ⟨⟨_, rfl⟩, by decide +kernel⟩

/-- Rounds 2 and 3 against counts 1 and 2; a skeleton that is filled in at no higher round. -/
theorem witness_NoticeUpdatesList_rounds :
    let s (st : NoticeState) (count : Nat) (round : Byte) : State :=
      heard false 30#5 (.notice { orderWire with round := round }) (listed st count active)
    let filled := heard false 30#5 (.notice orderWire) (active.setCu
      { active.cu with notices := [⟨7#32, none, .opened, 0, false⟩] })
    (∃ u, (s (.others 9#5) 1 2#8).handOver .notice
        = some (⟨false, 30#5, .notice, (Frame.notice { orderWire with round := 2#8 }).body⟩, u))
      ∧ (after .notice (s (.others 9#5) 1 2#8)).cu.notices.map (·.state) = [.marked .a]
      ∧ (after .notice (s .opened 2 3#8)).cu.notices.map (·.state) = [.stranded]
      ∧ (after .notice (s (.mine .b) 2 3#8)).cu.notices.map (·.state) = [.mine .b]
      ∧ (after .notice filled).cu.notices.map (·.state) = [.marked .a] := ⟨⟨_, rfl⟩, by decide +kernel⟩

theorem witness_OwnClaimSucceeds :
    let s := heard true 1#5 (.claim 7#32) (listed (.marked .b) 0 active)
    ∃ u, s.handOver .claim = some (⟨true, 1#5, .claim, (Frame.claim 7#32).body⟩, u)
      ∧ Frame.ofBody .claim (Frame.claim 7#32).body = some (.claim 7#32)
      ∧ (1#5 : Station) = s.jc.station
      ∧ s.notice? 7#32 = some (order (.marked .b) 0) ∧ s.claimCounter < 65535 := ⟨_, rfl, by decide +kernel⟩

theorem witness_OtherClaimTakesOrder_marked :
    let s := heard false 9#5 (.claim 7#32) ((listed (.marked .a) 0 active).setLp
      { active.lp with contending := some ⟨.claim 7#32, false⟩ })
    ∃ u, s.handOver .claim = some (⟨false, 9#5, .claim, (Frame.claim 7#32).body⟩, u)
      ∧ s.notice? 7#32 = some (order (.marked .a) 0) ∧ (∀ w ∈ s.xu.waiting, w.frame ≠ .claim 7#32)
      ∧ s.lp.contending = some ⟨.claim 7#32, false⟩ ∧ (9#5 : Station) ≠ s.jc.station := ⟨_, rfl, by decide +kernel⟩

theorem witness_OtherClaimTakesOrder :
    let s := heard false 9#5 (.claim 7#32) (listed .opened 0 active)
    ∃ u, s.handOver .claim = some (⟨false, 9#5, .claim, (Frame.claim 7#32).body⟩, u)
      ∧ Frame.ofBody .claim (Frame.claim 7#32).body = some (.claim 7#32)
      ∧ s.notice? 7#32 = some (order .opened 0) := ⟨_, rfl, by decide +kernel⟩

theorem witness_OtherClaimTakesOrder_mine :
    let s := heard false 9#5 (.claim 7#32) (listed (.mine .a) 0 active)
    ∃ u, s.handOver .claim = some (⟨false, 9#5, .claim, (Frame.claim 7#32).body⟩, u)
      ∧ s.notice? 7#32 = some (order (.mine .a) 0) := ⟨_, rfl, by decide +kernel⟩

/-- PRIOR for a MINE notice: with space, without, ISOLATED, and one that waits already. -/
theorem witness_OtherClaimTakesOrder_prior :
    let s := heard false 9#5 (.claim 7#32) (listed (.mine .a) 0 active)
    let full := s.setLp { s.lp with queue := List.replicate 8 (.claim 8#32) }
    (∃ u, full.handOver .claim = some (⟨false, 9#5, .claim, (Frame.claim 7#32).body⟩, u))
      ∧ s.cu.waiting = [] ∧ s.lp.unstarted = [] ∧ s.jc.state ≠ .isolated ∧ s.lp.hasSpace = true ∧ s.xu.askQueue = []
      ∧ full.lp.hasSpace = false ∧ full.lp.unstarted = List.replicate 8 (.claim 8#32)
      ∧ (s.setJc { s.jc with state := .isolated }).jc.state = .isolated
      ∧ Frame.prior 7#32 1#5 ∈ (after .claim s).lp.unstarted := ⟨⟨_, rfl⟩, by decide +kernel⟩

theorem witness_OtherClaimTakesOrder_unknown :
    let s := heard false 9#5 (.claim 8#32) (listed .opened 0 active)
    ∃ u, s.handOver .claim = some (⟨false, 9#5, .claim, (Frame.claim 8#32).body⟩, u)
      ∧ Frame.ofBody .claim (Frame.claim 8#32).body = some (.claim 8#32)
      ∧ s.notice? 8#32 = none ∧ s.cu.notices.length < 32 := ⟨_, rfl, by decide +kernel⟩

theorem witness_PriorNamesHolder :
    let s := heard false 9#5 (.prior 7#32 4#5) (listed (.others 9#5) 0 active)
    ∃ u, s.handOver .prior = some (⟨false, 9#5, .prior, (Frame.prior 7#32 4#5).body⟩, u)
      ∧ Frame.ofBody .prior (Frame.prior 7#32 4#5).body = some (.prior 7#32 4#5)
      ∧ 4#5 ≠ s.jc.station ∧ s.notice? 7#32 = some (order (.others 9#5) 0) := ⟨_, rfl, by decide +kernel⟩

theorem witness_PriorNamesHolder_yield :
    let s := heard false 4#5 (.prior 7#32 4#5) (building gathering (listed (.mine .a) 0 active))
    ∃ u, s.handOver .prior = some (⟨false, 4#5, .prior, (Frame.prior 7#32 4#5).body⟩, u)
      ∧ s.notice? 7#32 = some (order (.mine .a) 0) ∧ (s.build .a).state ≠ .sealed
      ∧ s.countsUnloading .a = false ∧ (s.build .a).content = [] ∧ s.putPending .a = false := ⟨_, rfl, by decide +kernel⟩

theorem witness_PriorNamesHolder_marked :
    let s := heard false 4#5 (.prior 7#32 4#5) (listed (.marked .a) 0 active)
    ∃ u, s.handOver .prior = some (⟨false, 4#5, .prior, (Frame.prior 7#32 4#5).body⟩, u)
      ∧ s.notice? 7#32 = some (order (.marked .a) 0) := ⟨_, rfl, by decide +kernel⟩

theorem witness_PriorNamesHolder_own :
    let s := heard true 1#5 (.prior 7#32 1#5) active
    ∃ u, s.handOver .prior = some (⟨true, 1#5, .prior, (Frame.prior 7#32 1#5).body⟩, u)
      ∧ Frame.ofBody .prior (Frame.prior 7#32 1#5).body = some (.prior 7#32 1#5)
      ∧ 1#5 = s.jc.station := ⟨_, rfl, by decide +kernel⟩

theorem witness_LostOrderHoldsBuild_prior :
    let s := heard false 4#5 (.prior 7#32 4#5) (gatheringPlaced (teaUnit 5#16))
    ∃ u, s.handOver .prior = some (⟨false, 4#5, .prior, (Frame.prior 7#32 4#5).body⟩, u)
      ∧ Frame.ofBody .prior (Frame.prior 7#32 4#5).body = some (.prior 7#32 4#5)
      ∧ s.notice? 7#32 = some (order (.mine .a) 0) ∧ (s.build .a).state = .gathering ∧ s.hold .a = none
      ∧ 4#5 ≠ s.jc.station ∧ (s.build .a).content ≠ [] := ⟨_, rfl, by decide +kernel⟩

theorem witness_LostOrderHoldsBuild_done :
    let f : Frame := .done 7#32 .none 1100#24 400#16
    let s := heard false 9#5 f (gatheringPlaced (teaUnit 5#16))
    ∃ u, s.handOver .done = some (⟨false, 9#5, .done, f.body⟩, u) ∧ Frame.ofBody .done f.body = some f
      ∧ s.notice? 7#32 = some (order (.mine .a) 0) ∧ (s.build .a).state = .gathering
      ∧ s.hold .a = none := ⟨_, rfl, by decide +kernel⟩

theorem witness_ReleaseCounts :
    let s := heard false 9#5 (.release 7#32) (listed (.others 9#5) 1 active)
    ∃ u, s.handOver .release = some (⟨false, 9#5, .release, (Frame.release 7#32).body⟩, u)
      ∧ Frame.ofBody .release (Frame.release 7#32).body = some (.release 7#32)
      ∧ s.notice? 7#32 = some (order (.others 9#5) 1) := ⟨_, rfl, by decide +kernel⟩

theorem witness_ReleaseCounts_marked :
    let s := heard false 9#5 (.release 7#32) (listed (.marked .a) 2 active)
    ∃ u, s.handOver .release = some (⟨false, 9#5, .release, (Frame.release 7#32).body⟩, u)
      ∧ s.notice? 7#32 = some (order (.marked .a) 2) := ⟨_, rfl, by decide +kernel⟩

theorem witness_ReleaseCounts_third :
    let s := heard false 9#5 (.release 7#32) (listed .opened 2 active)
    ∃ u, s.handOver .release = some (⟨false, 9#5, .release, (Frame.release 7#32).body⟩, u)
      ∧ s.notice? 7#32 = some (order .opened 2) := ⟨_, rfl, by decide +kernel⟩

theorem witness_ReleaseCounts_kept :
    let s := heard false 9#5 (.release 7#32) (listed (.others 4#5) 1 active)
    ∃ u, s.handOver .release = some (⟨false, 9#5, .release, (Frame.release 7#32).body⟩, u)
      ∧ s.notice? 7#32 = some (order (.others 4#5) 1) ∧ (4#5 : Station) ≠ 9#5 := ⟨_, rfl, by decide +kernel⟩

theorem witness_DoneRemovesNotice :
    let f : Frame := .done 7#32 .none 1100#24 400#16
    let s := heard false 9#5 f (listed .stranded 3 active)
    ∃ u, s.handOver .done = some (⟨false, 9#5, .done, f.body⟩, u) ∧ Frame.ofBody .done f.body = some f
      ∧ s.notice? 7#32 = some (order .stranded 3) := ⟨_, rfl, by decide +kernel⟩

theorem witness_DoneRemovesNotice_marked :
    let f : Frame := .done 7#32 .none 1100#24 400#16
    let s := heard false 9#5 f (listed (.marked .a) 0 active)
    ∃ u, s.handOver .done = some (⟨false, 9#5, .done, f.body⟩, u) ∧ s.notice? 7#32 = some (order (.marked .a) 0)
      ∧ ∀ w ∈ s.xu.waiting, w.frame ≠ .claim 7#32 := ⟨_, rfl, by decide +kernel⟩

theorem witness_DoneRemovesNotice_own :
    let f : Frame := .done 7#32 .none 1100#24 400#16
    let s := heard true 1#5 f (listed (.mine .a) 0 active)
    ∃ u, s.handOver .done = some (⟨true, 1#5, .done, f.body⟩, u) ∧ Frame.ofBody .done f.body = some f
      ∧ s.notice? 7#32 = some (order (.mine .a) 0) := ⟨_, rfl, by decide +kernel⟩

theorem witness_FrameRoundTrip :
    (31#5 : Station) ≠ 0#5 ∧ (Frame.notice { orderWire with lines := List.replicate 8 ⟨tea, 1#8, 0#24, 0#8⟩ }).wellFormed
      = true ∧ (Frame.grant 7#5 1#8 tea (List.replicate 4 2699#16)).wellFormed = true := by decide

/-- Frames for each clause, and buffers at 10, 11 and 12. -/
theorem witness_FrameReceiveBuffers :
    let filled (n : Nat) : State := active.setLp { active.lp with handover := List.replicate n ⟨false, 7#5, .want, []⟩ }
    let full : State := active.setLp { active.lp with handover := List.replicate 12 ⟨false, 7#5, .halt, []⟩ }
    readFrame [] = none ∧ readFrame (Frame.halt.wire 7#5) = some ⟨false, 7#5, .halt, []⟩
      ∧ readFrame ((Frame.roll false 4#8).wire 7#5) = some ⟨false, 7#5, .roll, [0#8, 4#8]⟩
      ∧ ((filled 10).lp.received13 < 11 ∧ (filled 10).lp.received < 12)
      ∧ 11 ≤ (filled 11).lp.received13 ∧ 12 ≤ full.lp.received := by decide +kernel

/-- Equal fields (a clashing number) do not lose; a lower station of the class does. -/
theorem witness_ContentionByClassThenStation :
    let s := active.setLp { active.lp with queue := [.claim 7#32] }
    s.lp.started = none ∧ s.lp.contending = none ∧ s.lp.queue = .claim 7#32 :: [] ∧ s.jc.state ≠ .isolated
      ∧ (contends false).lp.contending = some ⟨.claim 7#32, false⟩
      ∧ (contends true).lp.contending = some ⟨.claim 7#32, true⟩ ∧ (contends true).anyWaiting = false
      ∧ (contends true).xu.askQueue = []
      ∧ (Frame.claim 7#32).cls = (1#2).toNat ∧ s.jc.station.toNat ≤ (1#5).toNat
      ∧ (0#2).toNat < (Frame.claim 7#32).cls := by decide +kernel

theorem witness_ContentionByClassThenStation_lower :
    let s := (active.setJc { active.jc with station := 5#5 }).setLp { active.lp with queue := [.claim 7#32] }
    (1#2).toNat = (Frame.claim 7#32).cls ∧ (4#5).toNat < s.jc.station.toNat := by decide +kernel

theorem witness_ContentionFaultCounts :
    let s (n : Nat) : State := active.setLp { active.lp with started := some ⟨.halt, true⟩, faults := n }
    (s 1).lp.started = some ⟨.halt, true⟩ ∧ (s 1).jc.state ≠ .isolated ∧ (s 1).lp.faults < 2
      ∧ 2 ≤ (s 2).lp.faults := by decide +kernel

theorem witness_OwnFrameHandedBack :
    (active.setLp { active.lp with started := some ⟨.halt, true⟩ }).lp.started = some ⟨.halt, true⟩ := rfl

theorem witness_NoFrameWaitsBesideSpace :
    let s := active.setLp { active.lp with queue := List.replicate 7 (.claim 8#32) }
    s.jc.state ≠ .isolated ∧ s.lp.places = 7 ∧ 0 < (s.setHc { s.hc with haltsWaiting := 1 }).hc.haltsWaiting
      ∧ s.hc.haltsWaiting = 0 ∧ (s.setCu { s.cu with waiting := [.release 9#32] }).cu.waiting = .release 9#32 :: []
      ∧ (Frame.release 9#32).kind ≠ .claim ∧ s.cu.waiting = []
      ∧ (s.setXu { s.xu with waiting := [⟨.taken 7#5 1#8 1#8, none⟩] }).xu.waiting
          = ⟨.taken 7#5 1#8 1#8, none⟩ :: [] := by decide +kernel

theorem witness_StationTimersRunOut :
    (active.setLp { active.lp with suppression := some 0 }).lp.suppression = some 0
      ∧ State.reset.jc.state = .joining
      ∧ (State.reset.setJc { State.reset.jc with joinLeft := some 0 }).jc.joinLeft = some 0 := by decide +kernel

/-- R27, R28: the lowest rank, the earlier of two equals, a skeleton and a released notice passed over; CLAIM
queued, and waiting where the queue is full. -/
theorem witness_StationTimersRunOut_look :
    let n (o : OrderId) (rank : Nat) : Notice := ⟨o, some { orderInfo with rank := rank }, .opened, 0, false⟩
    let ns := [n 1#32 2, { n 2#32 0 with info := none }, { n 3#32 0 with releasedByMe := true }, n 4#32 1, n 5#32 1]
    let s (base : State) : State := base.setCu { notices := ns, waiting := [] }
    ((s active).look .a).lp.queue = [.claim 4#32] ∧ (((s active).look .a).build .a).link = some 4#32
      ∧ ((s fullQueue).look .a).cu.waiting = [.claim 4#32]
      ∧ ((((s fullQueue).look .a).look .b).build .b).state = .empty
      ∧ ((((s active).look .a).look .b).build .b).link = some 5#32
      ∧ ((s active).build .a).state = .empty ∧ active.jc.state = .active ∧ active.hc.stopped = false
      ∧ active.lp.suppression = none := by decide +kernel

theorem witness_RollOffered :
    let s := active.setJc { active.jc with rollLeft := some 0, rollOwed := true }
    s.jc.state = .active ∧ s.jc.rollLeft = some 0 ∧ s.jc.rollOwed = true ∧ s.accepts3 = true
      ∧ (s.setLp fullQueue.lp).accepts3 = false := by decide +kernel

theorem witness_RollFromAnother :
    let s (k : Station) (fresh : Bool) : State := heard false k (.roll fresh 4#8) (listed (.others 9#5) 0 active)
    (∃ u, (s 1#5 false).handOver .roll = some (⟨false, 1#5, .roll, [0#8, 4#8]⟩, u))
      ∧ (∃ u, (s 9#5 false).handOver .roll = some (⟨false, 9#5, .roll, [0#8, 4#8]⟩, u))
      ∧ (∃ u, (s 9#5 true).handOver .roll = some (⟨false, 9#5, .roll, [1#8, 4#8]⟩, u))
      ∧ Frame.ofBody .roll [0#8, 4#8] = some (.roll false 4#8)
      ∧ Frame.ofBody .roll [1#8, 4#8] = some (.roll true 4#8)
      ∧ (1#5 = (s 1#5 false).jc.station ∧ (s 1#5 false).jc.state ≠ .isolated)
      ∧ 9#5 ≠ (s 9#5 true).jc.station
      ∧ ∀ m ∈ (s 9#5 true).cu.notices, m.order = 7#32 → m = order (.others 9#5) 0 :=
  ⟨⟨_, rfl⟩, ⟨_, rfl⟩, ⟨_, rfl⟩, by decide, by decide, by decide, by decide, by decide +kernel⟩

/-- A SETUP body for a target. -/
def setupTo (target : Byte) : WireSetup :=
  ⟨target, 0#8, 3000#16, 240#16, 5#8, 90#16, ⟨true, true, true, true, true⟩, 2#8⟩

theorem witness_SetupAccepted :
    let s := heard false 30#5 (.setup (setupTo 0#8)) State.reset
    ∃ u, s.handOver .setup = some (⟨false, 30#5, .setup, (Frame.setup (setupTo 0#8)).body⟩, u)
      ∧ Frame.ofBody .setup (Frame.setup (setupTo 0#8)).body = some (.setup (setupTo 0#8))
      ∧ s.jc.state = .joining ∧ (setupTo 0#8).target = 0#8
      ∧ (setupTo 1#8).target = stationByte s.jc.station := ⟨_, rfl, by decide +kernel⟩

/-- The bounds: 300 and 2,700 are as sent, 299 and 2,701 are not; the reports of station 12's SETUP. -/
theorem witness_SetupAccepted_bounds :
    let s := heard false 30#5 (.setup (setupTo 0#8)) (roomy State.reset)
    s.pl.buffer = [] ∧ s.pl.anyOwed = false
      ∧ [299, 300, 2700, 2701].map (fun n : Nat => if n < 300 then 300 else if 2700 < n then 2700 else n)
          = [300, 300, 2700, 2700]
      ∧ (after .setup s).pl.buffer.take 3 = [.report 40 none none 2, .report 40 none none 4, .report 40 none none 7] := by
  decide +kernel

theorem witness_SetupAccepted_other :
    let s := heard false 30#5 (.setup (setupTo 2#8)) State.reset
    ∃ u, s.handOver .setup = some (⟨false, 30#5, .setup, (Frame.setup (setupTo 2#8)).body⟩, u)
      ∧ (setupTo 2#8).target ≠ 0#8 ∧ (setupTo 2#8).target ≠ stationByte s.jc.station
      ∧ active.jc.state ≠ .joining := ⟨_, rfl, by decide +kernel⟩

theorem witness_PanelLinkRecords :
    let dry : Panel := ⟨[], [], .all ⟨.empty, false⟩, false, []⟩
    let owing : Panel := { dry with
      buffer := List.replicate 16 (.report 38 none none 0), positions := { dry.positions with c := ⟨.empty, true⟩ } }
    (active.setPl dry).pl.anyOwed = false ∧ owing.buffer.length = 16
      ∧ Pos.all.find? (fun q => (owing.positions.get q).owed) = some .c
      ∧ panelRead [126#8] [2#8, 2#8, 4#8, 1#8, 126#8] = ([], [126#8]) ∧ dry.inbound = []
      ∧ ((9#8 : Byte).toNat, (0#8 : Byte).toNat) ∉ [(1, 11), (2, 2), (3, 1), (4, 0)]
      ∧ ((2#8 : Byte).toNat, (3#8 : Byte).toNat) ∉ [(1, 11), (2, 2), (3, 1), (4, 0)] := by decide +kernel

/-- R168: the reports of the build causes, each from a state that meets its clause. -/
theorem witness_PanelLinkRecords_reports_causes :
    let s (x : State) : State := roomy x
    let r := { thePut .awaitMove with limitLeft := 0 }
    let cold := s (gatheringPlaced (coldUnit 4#16 1200))
    let late := s (building { gathering with gatherLeft := some 0, content := [placed (teaUnit 5#16)] } active)
    (s active).pl.buffer.length < 16 ∧ (s active).pl.anyOwed = false
      ∧ (s (midPut .awaitSettle)).put .a = some (thePut .awaitSettle)
      ∧ [6000, 0, 0, 6000][0]? = some 6000 ∧ (-5 : Int) ≤ -5
      ∧ ((-5 : Int) < -4 ∧ (thePut .awaitSettle).tolerance < ((-4 : Int) - (thePut .awaitSettle).expected).natAbs)
      ∧ .report 6 (some .a) (some 5#16) 90
          ∈ (after (.putTimeout .a) ((s (midPut .awaitMove)).setPut .a (some r))).pl.buffer
      ∧ (cold.su.slotOf 4#16 = none ∧ cold.expiringBuild 4#16 = some .a ∧ cold.put .a = none)
      ∧ .report 2 (some .a) (some 4#16) 1200 ∈ (after (.chillExpiry 4#16) cold).pl.buffer
      ∧ .report 14 (some .a) none 1 ∈ (after (.gatherLimitExpiry .a) late).pl.buffer
      ∧ ((s (checked 989 9001)).runCheck .a []).pl.buffer.take 2
          = [.report 8 (some .a) none 1, .report 11 (some .a) none 1] := by decide +kernel

/-- R168: UNLOAD removals, a unit that expires in a HELD build, and the CLAMPED of a check. -/
theorem witness_PanelLinkRecords_reports_held :
    let x := placed (coldUnit 5#16 1200)
    let unload := (building { putting with state := .unloading, content := [x] } (roomy active)).setPut .a
      (some (removalRecord .unload x (some 1580)))
    let cold := roomy (heldBuild (held .gatherLate .gathering) { putting with content := [x] } active)
    let much := roomy (checked 16777216 400)
    unload.put .a = some (removalRecord .unload x (some 1580))
      ∧ ((removalRecord .unload x (some 1580)).tolerance < ((-379 : Int) - -400).natAbs ∧ (0 : Int) < 1)
      ∧ (cold.expiringBuild 5#16 = some .a ∧ cold.putPending .a = false ∧ (cold.build .a).state = .held)
      ∧ .report 2 (some .a) (some 5#16) 1200 ∈ (after (.chillExpiry 5#16) cold).pl.buffer
      ∧ (much.infoOf .a).isSome = true
      ∧ .report 10 (some .a) none 16777215 ∈ (much.runCheck .a []).pl.buffer := by decide +kernel

/-- R172, R173: keys refused in the build's state, by the primary cause, the next state and while resolving. -/
theorem witness_PanelLinkRecords_reports_keys :
    (active.build .a).state ≠ .held ∧ active.keyPut .a = none
      ∧ ((heldPlaced .overweight .check).build .a).state = .held
      ∧ (heldPlaced .overweight .check).hold .a = some (held .overweight .check)
      ∧ (held .overweight .check).primary.cause ∈ [Cause.chillExpired, .orderGone, .planFull, .overweight]
      ∧ (held .putMismatch .unloading).next = .unloading
      ∧ (held .putMismatch .unloading).primary.cause ≠ .orderGone
      ∧ { held .overweight .check with resolving := .undo }.resolving ≠ .none
      ∧ .report 37 (some .a) none 3 ∈ (after (.resume .a) (roomy (heldPlaced .overweight .check))).pl.buffer := by
  decide +kernel

/-- R188: TRANSFER_LATE of a GRANT at a full list and at a repeated tag; WRITE_OFF of a TAKEN of one of two. -/
theorem witness_PanelLinkRecords_reports_transfers :
    let f : Frame := .grant 1#5 19#8 tea [610#16, 455#16]
    let e : Expected := ⟨7#5, 19#8, tea, 3, 1, [0], 20, none⟩
    let base := roomy (heard false 7#5 f (asking 5))
    let full := base.setXu { base.xu with expected := List.replicate 8 { e with seq := 3#8 } }
    let again := base.setXu { base.xu with expected := [e] }
    let taken := roomy (heard false 7#5 (.taken 1#5 3#8 1#8) (active.setXu { active.xu with
      outbound := [⟨3#8, 7#5, [teaUnit 4#16, teaUnit 6#16], 20⟩] }))
    (∃ u, base.handOver .grant = some (⟨false, 7#5, .grant, f.body⟩, u)) ∧ Frame.ofBody .grant f.body = some f
      ∧ (full.expectedTag 7#5 19#8 = none ∧ 8 ≤ full.xu.expected.length) ∧ again.expectedTag 7#5 19#8 = some e
      ∧ .report 33 (some .a) none 2 ∈ (after .grant full).pl.buffer
      ∧ .report 33 none none 1 ∈ (after .grant again).pl.buffer
      ∧ ((1#8 : Byte).toNat < 2 ∧ .report 34 none none 1 ∈ (after .taken taken).pl.buffer) :=
  ⟨⟨_, rfl⟩, by decide +kernel⟩

/-- R83, R97: a put that ends with an expiry held back and a valuation cause; the panel owes nothing after. -/
theorem witness_PanelLinkRecords_told :
    let r := { thePut .settled with expiries := [6#16] }
    let x := { placed (coldUnit 6#16 1200) with start := 1 }
    let u := { teaUnit 5#16 with label := { teaLabel with pricing := .byWeight, value := 0 } }
    let m := midPut .settled
    let s := roomy ((shelved 0 u (.putting .a 0) (m.setBuild .a { m.build .a with content := [x] })).setPut .a (some r))
    s.put .a = some r ∧ s.su.slotOf r.unit = some 0 ∧ s.su.slot 0 = .occupied u (.putting .a 0)
      ∧ 6#16 ∈ r.expiries ∧ (s.build .a).content.find? (fun y => decide (y.unit.number = 6#16)) = some x
      ∧ (6#16 : UnitNo) ≠ r.unit
      ∧ ((valueUnit s.jc.setup.mode u.label 398).causes.invalid && s.jc.setup.holdMask.invalid) = true
      ∧ (s.confirmPut .a 398).pl.anyOwed = false ∧ (s.rejectPut .a r).pl.anyOwed = false
      ∧ .report 2 (some .a) (some 6#16) 1200 ∈ (s.confirmPut .a 398).pl.buffer
      ∧ .report 9 (some .a) (some 5#16) 0 ∈ (s.confirmPut .a 398).pl.buffer := by decide +kernel

/-- R48, R168: ORDER_GONE with the new holder. -/
theorem witness_PanelLinkRecords_reports_gone :
    let s := heard false 4#5 (.prior 7#32 4#5) (roomy (gatheringPlaced (teaUnit 5#16)))
    (∃ u, s.handOver .prior = some (⟨false, 4#5, .prior, (Frame.prior 7#32 4#5).body⟩, u))
      ∧ s.notice? 7#32 = some (order (.mine .a) 0) ∧ (s.build .a).content ≠ []
      ∧ .report 3 (some .a) none 4 ∈ (after .prior s).pl.buffer := ⟨⟨_, rfl⟩, by decide +kernel⟩

/-- R139, R168: ORDER_GONE with the sender of a DONE, in a build that is HELD. -/
theorem witness_PanelLinkRecords_reports_done :
    let f : Frame := .done 7#32 .none 1100#24 400#16
    let s := heard false 9#5 f (roomy (heldPlaced .gatherLate .gathering))
    (∃ u, s.handOver .done = some (⟨false, 9#5, .done, f.body⟩, u)) ∧ Frame.ofBody .done f.body = some f
      ∧ s.notice? 7#32 = some (order (.mine .a) 0) ∧ (s.build .a).state = .held
      ∧ .report 3 (some .a) none 9 ∈ (after .done s).pl.buffer := ⟨⟨_, rfl⟩, by decide +kernel⟩

/-- R188: the bench reports, each from a state that meets its clause. -/
theorem witness_PanelLinkRecords_reports_bench :
    let s := roomy active
    let moved := s.setXu { s.xu with
      expected := [⟨7#5, 19#8, tea, 3, 1, [0], 180, none⟩], outbound := [⟨3#8, 7#5, [teaUnit 4#16], 210⟩] }
    let stopped := s.setHc { s.hc with stopped := true }
    let clash := s.setLp { s.lp with started := some ⟨.halt, true⟩, faults := 2 }
    let full := s.setLp { s.lp with handover := List.replicate 11 ⟨false, 7#5, .want, []⟩ }
    checkLabel { teaRaw with value := 1000000#24 } = .error 4 ∧ (fullTable s).su.lowestEmpty = none
      ∧ s.chuteChoice tea = none ∧ stopped.keysShut .a = true ∧ moved.expectedTag 7#5 19#8 ≠ none
      ∧ moved.xu.outbound.find? (fun x => decide (x.seq = 3#8)) ≠ none ∧ (∀ x ∈ moved.su.slots, x ≠ .empty (some 3#8))
      ∧ .report 34 none none 1 ∈ (after (.writeOff 3#8) moved).pl.buffer
      ∧ 11 ≤ full.lp.received13 ∧ (∀ p ∈ Pos.all, (clash.build p).state ≠ .claiming)
      ∧ .report 36 none none 1 ∈ (after .contentionFault clash).pl.buffer := by decide +kernel

/-- R131, R188: a skeleton with no room. -/
theorem witness_PanelLinkRecords_reports_skeleton :
    let s := heard false 9#5 (.claim 7#32) (roomy (active.setCu { active.cu with
      notices := List.replicate 32 ⟨9#32, some orderInfo, .opened, 0, true⟩ }))
    (∃ u, s.handOver .claim = some (⟨false, 9#5, .claim, (Frame.claim 7#32).body⟩, u))
      ∧ .report 38 none none 8 ∈ (after .claim s).pl.buffer := ⟨⟨_, rfl⟩, by decide +kernel⟩

end Sys2Proof.Tests
end

section
/-! Valuation arithmetic (R94 to R96): what each rounding mode makes of an exact product in
thousandths, and what a WEIGHT unit is then worth. -/

namespace Sys2Proof.Proofs

open Sys2Proof.Machine

/-- The rounded value of the exact product rate × grams, before the range test (R94, R95). -/
def roundedProduct (m : Rounding) (raw : Nat) : Nat := roundValue m (raw / 1000) (raw % 1000)

/-! ### One rule per rounding mode (the rows of R95's table) -/

theorem roundedProduct_nearestEven (raw : Nat) :
    roundedProduct .nearestEven raw =
      if raw % 1000 < 500 then raw / 1000
      else if 500 < raw % 1000 then raw / 1000 + 1
      else if raw / 1000 % 2 = 0 then raw / 1000 else raw / 1000 + 1 := rfl

theorem roundedProduct_nearestUp (raw : Nat) :
    roundedProduct .nearestUp raw = if raw % 1000 < 500 then raw / 1000 else raw / 1000 + 1 := rfl

theorem roundedProduct_down (raw : Nat) : roundedProduct .down raw = raw / 1000 := rfl

theorem roundedProduct_up (raw : Nat) :
    roundedProduct .up raw = if raw % 1000 = 0 then raw / 1000 else raw / 1000 + 1 := rfl

/-! ### The distance of the rounded value from the product -/

theorem roundedProduct_nearest_within_half {m : Rounding} (hm : m = .nearestEven ∨ m = .nearestUp)
    (raw : Nat) :
    1000 * roundedProduct m raw ≤ raw + 500 ∧ raw ≤ 1000 * roundedProduct m raw + 500 := by
  obtain rfl | rfl := hm
  · rw [roundedProduct_nearestEven]
    split_ifs <;> omega
  · rw [roundedProduct_nearestUp]
    split_ifs <;> omega

theorem roundedProduct_nearestEven_tie_even {raw : Nat} (tie : raw % 1000 = 500) :
    roundedProduct .nearestEven raw % 2 = 0 := by
  rw [roundedProduct_nearestEven]
  split_ifs <;> omega

theorem roundedProduct_nearestUp_tie_up {raw : Nat} (tie : raw % 1000 = 500) :
    1000 * roundedProduct .nearestUp raw = raw + 500 := by
  rw [roundedProduct_nearestUp, if_neg (by omega)]
  omega

theorem roundedProduct_down_cuts_off (raw : Nat) :
    1000 * roundedProduct .down raw ≤ raw ∧ raw < 1000 * roundedProduct .down raw + 1000 := by
  rw [roundedProduct_down]
  omega

theorem roundedProduct_up_carries_up (raw : Nat) :
    raw ≤ 1000 * roundedProduct .up raw ∧ 1000 * roundedProduct .up raw < raw + 1000 := by
  rw [roundedProduct_up]
  split_ifs <;> omega

/-! ### The value of a WEIGHT unit -/

/-- R94: the input test fails. -/
theorem valueByWeight_of_invalid (m : Rounding) {rate : Nat} {g : Int} (h : rate = 0 ∨ g ≤ 0) :
    valueByWeight m rate g = ⟨0, { CauseSet.none with invalid := true }⟩ := if_pos h

/-- R96: the range test on the rounded value, with the causes raised. -/
theorem valueByWeight_of_pos (m : Rounding) {rate k : Nat} (hrate : 0 < rate) (hk : 0 < k) :
    valueByWeight m rate k =
      ⟨min (roundedProduct m (rate * k)) 999999,
        { CauseSet.none with
          inexact := decide (rate * k % 1000 ≠ 0)
          clamped := decide (999999 < roundedProduct m (rate * k)) }⟩ :=
  if_neg (show ¬ (rate = 0 ∨ (k : Int) ≤ 0) by omega)

/-- Settles O27: the input test, then for the product of a valid pair the rule of the mode in force;
the clamp and the causes are read off `valueByWeight_of_pos`. -/
theorem valueRoundsByMode : Obligations.ValueRoundsByMode := by
  intro m rate g
  refine ⟨valueByWeight_of_invalid m, ?_⟩
  rintro k hrate hk rfl
  rw [valueByWeight_of_pos m hrate hk]
  refine ⟨roundedProduct m (rate * k), ?nearest, ?tieEven, ?tieUp, ?down, ?up, rfl,
    decide_eq_true_iff, decide_eq_true_iff, rfl⟩
  case nearest => exact fun hm => roundedProduct_nearest_within_half hm _
  case tieEven =>
    rintro rfl
    exact roundedProduct_nearestEven_tie_even
  case tieUp =>
    rintro rfl
    exact roundedProduct_nearestUp_tie_up
  case down =>
    rintro rfl
    exact roundedProduct_down_cuts_off _
  case up =>
    rintro rfl
    exact roundedProduct_up_carries_up _

end Sys2Proof.Proofs
end

section
/-! The stop input and the local stop (R182): what entering STOPPED, producing HALT and the power-on
reset make of the stop records, the transmit queue and the ask queue. -/

namespace Sys2Proof.Proofs

open Sys2Proof.Machine

/-! ### Entering STOPPED -/

/-- A read that every step of a fold leaves alone is left alone by the fold. -/
theorem foldl_read_eq {α β : Type} (read : State → β) (f : State → α → State)
    (hf : ∀ t x, read (f t x) = read t) (xs : List α) (s : State) :
    read (xs.foldl f s) = read s := by
  induction xs generalizing s with
  | nil => rfl
  | cons x xs ih => exact (ih (f s x)).trans (hf s x)

@[simp] theorem enterStopped_hc (s : State) : s.enterStopped.hc = { s.hc with stopped := true } :=
  foldl_read_eq State.hc State.clearAsk (fun _ _ => rfl) _ _

@[simp] theorem enterStopped_jc (s : State) : s.enterStopped.jc = s.jc :=
  foldl_read_eq State.jc State.clearAsk (fun _ _ => rfl) _ _

@[simp] theorem enterStopped_lp (s : State) : s.enterStopped.lp = s.lp :=
  foldl_read_eq State.lp State.clearAsk (fun _ _ => rfl) _ _

@[simp] theorem enterStopped_askQueue (s : State) : s.enterStopped.xu.askQueue = [] :=
  foldl_read_eq (fun t => t.xu.askQueue) State.clearAsk (fun _ _ => rfl) _ _

/-! ### Producing HALT -/

theorem produceHalt_of_isolated {s : State} (hi : s.jc.state = .isolated) : s.produceHalt = s := by
  simp [State.produceHalt, State.transmit, State.isolated, hi]

theorem produceHalt_of_space {s : State} (hi : s.jc.state ≠ .isolated) (hs : s.lp.hasSpace = true) :
    s.produceHalt = s.setLp (s.lp.enqueue .halt) := by
  simp [State.produceHalt, State.transmit, State.isolated, hi, hs]

theorem produceHalt_of_full {s : State} (hi : s.jc.state ≠ .isolated) (hs : s.lp.hasSpace = false) :
    s.produceHalt = s.setHc { s.hc with haltsWaiting := s.hc.haltsWaiting + 1 } := by
  simp [State.produceHalt, State.isolated, hi, hs]

/-- HALT touches the transmit queue and the count of waiting HALTs, nothing else. -/
theorem produceHalt_only_queue (s : State) :
    ∃ lp n, s.produceHalt = (s.setHc { s.hc with haltsWaiting := n }).setLp lp := by
  by_cases hi : s.jc.state = .isolated
  · exact ⟨s.lp, s.hc.haltsWaiting, produceHalt_of_isolated hi⟩
  · cases hs : s.lp.hasSpace with
    | true => exact ⟨_, s.hc.haltsWaiting, produceHalt_of_space hi hs⟩
    | false => exact ⟨s.lp, s.hc.haltsWaiting + 1, produceHalt_of_full hi hs⟩

/-! ### STOP_ASSERTED and STOP_RELEASED -/

/-- The state in which HC produces the HALT of a local stop: local stop asserted, bench STOPPED. -/
def localStopped (s : State) : State :=
  let t := s.setHc { s.hc with localStop := true }
  if t.hc.stopped then t else t.enterStopped

theorem localStopped_of_stopped {s : State} (h : s.hc.stopped = true) :
    localStopped s = s.setHc { s.hc with localStop := true } := if_pos h

theorem localStopped_of_running {s : State} (h : s.hc.stopped = false) :
    localStopped s = (s.setHc { s.hc with localStop := true }).enterStopped :=
  if_neg (Bool.eq_false_iff.1 h)

@[simp] theorem localStopped_hc (s : State) :
    (localStopped s).hc = { s.hc with stopped := true, localStop := true } := by
  cases h : s.hc.stopped with
  | true => simp [localStopped_of_stopped h, h]
  | false => simp [localStopped_of_running h]

@[simp] theorem localStopped_jc (s : State) : (localStopped s).jc = s.jc := by
  cases h : s.hc.stopped with
  | true => simp [localStopped_of_stopped h]
  | false => simp [localStopped_of_running h]

@[simp] theorem localStopped_lp (s : State) : (localStopped s).lp = s.lp := by
  cases h : s.hc.stopped with
  | true => simp [localStopped_of_stopped h]
  | false => simp [localStopped_of_running h]

theorem localStopped_askQueue {s : State} (h : s.hc.stopped = false) :
    (localStopped s).xu.askQueue = [] := by
  simp [localStopped_of_running h]

theorem exec_stopAsserted_of_released {s : State} (h : s.hc.localStop = false) :
    exec .stopAsserted s = .next (localStopped s).produceHalt.flush :=
  if_neg (Bool.eq_false_iff.1 h)

theorem exec_stopAsserted_of_asserted {s : State} (h : s.hc.localStop = true) :
    exec .stopAsserted s = .next s := if_pos h

theorem exec_stopReleased (s : State) :
    exec .stopReleased s = .next (s.setHc { s.hc with localStop := false }) := rfl

/-! ### The stop records after power-on reset -/

@[simp] theorem offerRoll_hc (s : State) (fresh : Bool) : (s.offerRoll fresh).hc = s.hc := by
  unfold State.offerRoll State.transmit
  split
  · split <;> rfl
  · rfl

theorem fillOne_only_pl (s : State) : ∃ v, s.fillOne = s.setPl v := by
  unfold State.fillOne
  split
  · exact ⟨_, rfl⟩
  · split
    · exact ⟨s.pl, rfl⟩
    · split
      · exact ⟨_, rfl⟩
      · exact ⟨s.pl, rfl⟩

@[simp] theorem fillOwed_hc (n : Nat) (s : State) : (State.fillOwed n s).hc = s.hc := by
  induction n generalizing s with
  | zero => rfl
  | succ n ih =>
    rw [State.fillOwed]
    split
    · obtain ⟨v, hv⟩ := fillOne_only_pl s
      rw [ih, hv, State.setPl_hc]
    · rfl

@[simp] theorem cleared_hc (s : State) (k : Station) (n b : BitVec 2) :
    (s.cleared k n b).hc = .reset := rfl

theorem exec_powerOnReset_hc (k : Station) (n b : BitVec 2) (s : State) :
    ∃ t, exec (.powerOnReset k n b) s = .next t ∧ t.hc = .reset := by
  show ∃ t, execPowerOnReset k n b s = .next t ∧ _
  unfold execPowerOnReset
  extract_lets cleared
  split
  · exact ⟨_, rfl, by simp [cleared]⟩
  · exact ⟨_, rfl, by simp [cleared]⟩

/-- Settles O21: HALT is produced in `localStopped s`, whose station state and transmit queue are those
of `s`, so the three cases of `produceHalt` are the three clauses on HALT. -/
theorem stopInput : Obligations.StopInput := by
  intro s
  refine ⟨fun released => ⟨_, exec_stopAsserted_of_released released, ?stopped, ?localStop, ?holds,
    fun running => ?asks, fun hi hs => ?queued, fun hi hs => ?waits, fun hi => ?discarded⟩,
    exec_stopAsserted_of_asserted, fun k n b => ?reset, exec_stopReleased s⟩
  case stopped | localStop | holds =>
    obtain ⟨lp, n, halt⟩ := produceHalt_only_queue (localStopped s)
    simp [halt]
  case asks =>
    obtain ⟨lp, n, halt⟩ := produceHalt_only_queue (localStopped s)
    simp [halt, localStopped_askQueue running]
  case queued => simp [produceHalt_of_space (s := localStopped s), hi, hs]
  case waits => simp [produceHalt_of_full (s := localStopped s), hi, hs]
  case discarded => simp [produceHalt_of_isolated (s := localStopped s), hi]
  case reset =>
    obtain ⟨t, ht, hc⟩ := exec_powerOnReset_hc k n b s
    exact ⟨t, ht, by rw [hc]; rfl, by rw [hc]; rfl⟩

end Sys2Proof.Proofs
end


section
/-! Every step keeps the capacities, and what the panel was last told or is owed stays true: a command
that ends in `finish` sends what is left to show, and one that does not changes nothing the panel shows. -/

namespace Sys2Proof.Proofs

open Sys2Proof.Machine

/-! ### States that show the same -/

/-- `t` holds what `s` holds of everything the panel shows, and the panel has been told the same. -/
structure ShowsAs (s t : State) : Prop where
  su : t.su = s.su
  stopped : t.hc.stopped = s.hc.stopped
  holds : t.hc.holds = s.hc.holds
  be : t.be = s.be
  pv : t.pv = s.pv
  fitted : t.jc.fitted = s.jc.fitted
  lamps : t.pl.lamps = s.pl.lamps
  positions : t.pl.positions = s.pl.positions

theorem panelTrue_of_showsAs {s t : State} (h : s.PanelTrue) (k : ShowsAs s t) : t.PanelTrue := by
  obtain ⟨sjc, shc, slp, scu, ssu, sbe, scc, swf, spv, svu, sxu, spl, spe⟩ := s
  obtain ⟨tjc, thc, tlp, tcu, tsu, tbe, tcc, twf, tpv, tvu, txu, tpl, tpe⟩ := t
  obtain ⟨_, _, _, _⟩ := shc
  obtain ⟨_, _, _, _⟩ := thc
  obtain ⟨_, _, _, _, _⟩ := spl
  obtain ⟨_, _, _, _, _⟩ := tpl
  obtain ⟨_, _, _, _, _, _, _, _, _⟩ := sjc
  obtain ⟨_, _, _, _, _, _, _, _, _⟩ := tjc
  obtain ⟨hsu, hstopped, hholds, hbe, hpv, hfitted, hlamps, hpositions⟩ := k
  dsimp only at hsu hstopped hholds hbe hpv hfitted hlamps hpositions
  subst hsu hstopped hholds hbe hpv hfitted hlamps hpositions
  exact ⟨h.returned, h.stoppedSlot, h.putting, h.shelved, h.reserved, h.empty, h.scanners, h.named,
    h.operation, h.bare, h.stoppedCell, h.stoppedPosition, h.position, h.record, h.recordIndex⟩

/-- Where each lamp and each POSITION record is what it was or what it is in a panel that is told the
truth, the panel is told the truth. -/
theorem panelTrue_of_either {s : State} {v w : Panel} (h : s.PanelTrue) (k : (s.setPl w).PanelTrue)
    (lamps : ∀ n, (s.setPl v).lampShown n = s.lampShown n
      ∨ (s.setPl v).lampShown n = (s.setPl w).lampShown n)
    (positions : ∀ p, s.isFitted p = true → (v.positions.get p).shown = (s.pl.positions.get p).shown
      ∨ (v.positions.get p).shown = (w.positions.get p).shown) : (s.setPl v).PanelTrue := by
  have lamp {n : Nat} {x : LampShow} (h1 : s.lampShown n = some x) (h2 : (s.setPl w).lampShown n = some x) :
      (s.setPl v).lampShown n = some x := (lamps n).elim (·.trans h1) (·.trans h2)
  constructor
  case returned => exact fun i u hi hu => lamp (h.returned i u hi hu) (k.returned i u hi hu)
  case stoppedSlot => exact fun i hi hs hu => lamp (h.stoppedSlot i hi hs hu) (k.stoppedSlot i hi hs hu)
  case putting => exact fun i u p l hi hs hu => lamp (h.putting i u p l hi hs hu) (k.putting i u p l hi hs hu)
  case shelved =>
    exact fun i u st hi hs hu hr hp => lamp (h.shelved i u st hi hs hu hr hp) (k.shelved i u st hi hs hu hr hp)
  case reserved => exact fun i p hi hs hu => lamp (h.reserved i p hi hs hu) (k.reserved i p hi hs hu)
  case empty => exact fun i g hi hs hu => lamp (h.empty i g hi hs hu) (k.empty i g hi hs hu)
  case scanners => exact ⟨lamp h.scanners.1 k.scanners.1, lamp h.scanners.2 k.scanners.2⟩
  case named => exact fun p c x hf hc hn hr => lamp (h.named p c x hf hc hn hr) (k.named p c x hf hc hn hr)
  case operation =>
    exact fun p c r hf hc hs hn hr hm => lamp (h.operation p c r hf hc hs hn hr hm)
      (k.operation p c r hf hc hs hn hr hm)
  case bare => exact fun p c hf hc hn hr => lamp (h.bare p c hf hc hn hr) (k.bare p c hf hc hn hr)
  case stoppedCell => exact fun p c hf hc hs hn => lamp (h.stoppedCell p c hf hc hs hn) (k.stoppedCell p c hf hc hs hn)
  case stoppedPosition => exact fun p hf hs => lamp (h.stoppedPosition p hf hs) (k.stoppedPosition p hf hs)
  case position =>
    intro p hf hs
    obtain ⟨h1, h2, h3, h4, h5, h6, h7, h8, h9⟩ := h.position p hf hs
    obtain ⟨k1, k2, k3, k4, k5, k6, k7, k8, k9⟩ := k.position p hf hs
    exact ⟨fun a => lamp (h1 a) (k1 a), fun a => lamp (h2 a) (k2 a), fun a => lamp (h3 a) (k3 a),
      fun a b => lamp (h4 a b) (k4 a b), fun a b => lamp (h5 a b) (k5 a b), fun a => lamp (h6 a) (k6 a),
      fun a b => lamp (h7 a b) (k7 a b), fun a b => lamp (h8 a b) (k8 a b), fun a => lamp (h9 a) (k9 a)⟩
  case record =>
    intro p hf
    obtain e | e := positions p hf
    · exact e.symm ▸ h.record p hf
    · exact e.symm ▸ k.record p hf
  case recordIndex =>
    intro p hf
    obtain e | e := positions p hf
    · exact e.symm ▸ h.recordIndex p hf
    · exact e.symm ▸ k.recordIndex p hf

/-! ### Owed items that are sent -/

/-- Every item of the panel link is as it was, or shows the state of this moment. -/
structure ShownOrTrue (s t : State) : Prop where
  only_pl : ∃ v, t = s.setPl v
  lamp : ∀ n, t.lampShown n = s.lampShown n ∨ t.lampShown n = s.lampValues[n]?
  position : ∀ p, (t.pl.positions.get p).shown = (s.pl.positions.get p).shown
    ∨ (t.pl.positions.get p).shown = s.posShow p

theorem lampShown_setPl (s : State) (v : Panel) (n : Nat) :
    (s.setPl v).lampShown n = (v.lamps[n]?).map (·.shown) := rfl

theorem fillOne_shownOrTrue (s : State) : ShownOrTrue s s.fillOne := by
  refine ⟨fillOne_only_pl s, ?lamp, ?position⟩
  case lamp =>
    intro n
    unfold State.fillOne
    split
    · exact .inl rfl
    · split
      · exact .inl rfl
      · split
        next i hi id v hid hv =>
          rw [lampShown_setPl, updateAt_getElem?]
          split
          next e =>
            subst e
            cases hc : s.pl.lamps[n]? with
            | none => left; simp [State.lampShown, hc]
            | some c => right; simp [hv]
          next => exact .inl rfl
        next => exact .inl rfl
  case position =>
    intro p
    unfold State.fillOne
    split
    next q hq =>
      by_cases e : p = q
      · subst e
        exact .inr (by simp [State.setPl])
      · exact .inl (by simp [State.setPl, PerPos_get_set_other _ _ e])
    next => split <;> [exact .inl rfl; (split <;> exact .inl rfl)]

theorem ShownOrTrue.trans {s t u : State} (h : ShownOrTrue s t) (k : ShownOrTrue t u) :
    ShownOrTrue s u := by
  obtain ⟨⟨v, rfl⟩, hl, hp⟩ := h
  obtain ⟨⟨w, rfl⟩, kl, kp⟩ := k
  refine ⟨⟨w, rfl⟩, fun n => ?_, fun p => ?_⟩
  · obtain e | e := kl n
    · exact (hl n).imp e.trans e.trans
    · exact .inr e
  · obtain e | e := kp p
    · exact (hp p).imp e.trans e.trans
    · exact .inr e

theorem fillOwed_shownOrTrue (n : Nat) (s : State) : ShownOrTrue s (State.fillOwed n s) := by
  induction n generalizing s with
  | zero => exact ⟨⟨s.pl, rfl⟩, fun _ => .inl rfl, fun _ => .inl rfl⟩
  | succ n ih =>
    rw [State.fillOwed]
    split
    · exact (fillOne_shownOrTrue s).trans (ih _)
    · exact ⟨⟨s.pl, rfl⟩, fun _ => .inl rfl, fun _ => .inl rfl⟩

theorem panelTrue_of_shownOrTrue {s t : State} (hb : s.Bounded) (h : s.PanelTrue) (k : ShownOrTrue s t)
    (hl : t.pl.lamps.length = 86) : t.PanelTrue := by
  obtain ⟨⟨v, rfl⟩, kl, kp⟩ := k
  obtain ⟨w, hw⟩ := s.flush_only_pl
  have shown := s.flush_shownTrue hb.slots hb.lamps
  have told := s.flush_panelTrue hb.slots hb.lamps
  rw [hw] at shown told
  refine panelTrue_of_either h told (fun n => ?_) (fun p hf => (kp p).imp id (·.trans (shown.record p hf).symm))
  obtain e | e := kl n
  · exact .inl e
  · by_cases hn : n < 86
    · exact .inr (e.trans (shown.lamp n hn).symm)
    · have h86 : s.lampShown n = none := by simp [State.lampShown, hb.lamps, Nat.le_of_not_lt hn]
      have hv : (s.setPl v).lampShown n = none := by
        rw [lampShown_setPl, List.getElem?_eq_none (by simp at hl; omega)]; rfl
      exact .inl (hv.trans h86.symm)

/-! ### The second -/

/-- The put record of a position after a second (R81). -/
def State.countedPut (s : State) (p : Pos) : Option PutRec :=
  (s.put p).map (fun r => if s.limitRuns p r = true then { r with limitLeft := r.limitLeft - 1 } else r)

theorem limitSecond_eq_setPut (s : State) (p : Pos) : s.limitSecond p = s.setPut p (State.countedPut s p) := by
  have same : s.setPut p (s.put p) = s := by simp [State.setPut, State.put]
  unfold State.limitSecond State.countedPut
  cases hr : s.put p with
  | none => exact (hr ▸ same).symm
  | some r =>
    dsimp only [Option.map_some]
    split
    · rfl
    · exact (hr ▸ same).symm

theorem countedPut_setPut_other (s : State) {p q : Pos} (v : Option PutRec) (h : q ≠ p) :
    State.countedPut (s.setPut p v) q = State.countedPut s q := by
  unfold State.countedPut
  rw [State.setPut_put_other _ _ h]
  rfl

theorem foldl_limitSecond (s : State) : Pos.all.foldl State.limitSecond s =
    { s with pv := ⟨State.countedPut s .a, State.countedPut s .b, State.countedPut s .c, State.countedPut s .d⟩ } := by
  simp only [Pos.all, List.foldl_cons, List.foldl_nil, limitSecond_eq_setPut,
    countedPut_setPut_other _ _ (show Pos.b ≠ .a by decide), countedPut_setPut_other _ _ (show Pos.c ≠ .a by decide),
    countedPut_setPut_other _ _ (show Pos.c ≠ .b by decide), countedPut_setPut_other _ _ (show Pos.d ≠ .a by decide),
    countedPut_setPut_other _ _ (show Pos.d ≠ .b by decide), countedPut_setPut_other _ _ (show Pos.d ≠ .c by decide)]
  rfl

@[simp] theorem tick_put (s : State) (p : Pos) : s.tick.put p = State.countedPut s p := by
  simp only [State.tick, State.counted, foldl_limitSecond]
  cases p <;> rfl

@[simp] theorem tick_build (s : State) (p : Pos) : s.tick.build p = (s.build p).second := by
  simp only [State.tick, State.counted, foldl_limitSecond]
  cases p <;> rfl

@[simp] theorem tick_hc (s : State) : s.tick.hc = s.hc := by
  simp only [State.tick, State.counted, foldl_limitSecond]

@[simp] theorem tick_hold (s : State) (p : Pos) : s.tick.hold p = s.hold p := by
  simp only [State.hold, tick_hc]

@[simp] theorem tick_pl (s : State) : s.tick.pl = s.pl := by
  simp only [State.tick, State.counted, foldl_limitSecond]

@[simp] theorem tick_su (s : State) : s.tick.su = { s.su with slots := s.su.slots.map Slot.second } := by
  simp only [State.tick, State.counted, foldl_limitSecond]

@[simp] theorem tick_jc (s : State) : s.tick.jc = s.jc.second := by
  simp only [State.tick, State.counted, foldl_limitSecond]

@[simp] theorem tick_xu (s : State) : s.tick.xu = s.xu.second := by
  simp only [State.tick, State.counted, foldl_limitSecond]

@[simp] theorem tick_isFitted (s : State) (p : Pos) : s.tick.isFitted p = s.isFitted p := by
  simp [State.isFitted, Join.second]

theorem tick_slot (s : State) (i : Nat) : s.tick.su.slot i = (s.su.slot i).second := by
  rw [tick_su]
  simp only [Stock.slot, List.getElem?_map]
  cases s.su.slots[i]? <;> rfl

@[simp] theorem second_state (b : Build) : b.second.state = b.state := by
  unfold Build.second; split <;> split <;> rfl

@[simp] theorem second_trayWanted (b : Build) : b.second.trayWanted = b.trayWanted := by
  unfold Build.second; split <;> split <;> rfl

@[simp] theorem second_plan (b : Build) : b.second.plan = b.plan := by
  unfold Build.second; split <;> split <;> rfl

/-- A placed unit after a second. -/
def Placed.second (x : Placed) : Placed := { x with unit := x.unit.second }

theorem second_content (b : Build) :
    b.second.content = if b.state = .sealed then b.content else b.content.map Placed.second := by
  unfold Build.second
  by_cases h : b.state = .sealed
  · simp [h]
  · simp only [if_neg h]
    split <;> rfl

theorem second_items (b : Build) : b.second.lines.map (·.item) = b.lines.map (·.item) := by
  unfold Build.second
  have h (l : LineRec) : l.second.item = l.item := by unfold LineRec.second; split <;> rfl
  split <;> split <;> simp [h, Function.comp_def]

/-- A build's placed units after a second have the numbers, placements and put indexes they had. -/
theorem second_placements (b : Build) :
    b.second.content.map (fun x => (x.unit.number, x.unit.label.size, x.start, x.index))
      = b.content.map (fun x => (x.unit.number, x.unit.label.size, x.start, x.index)) := by
  rw [second_content]
  split
  · rfl
  · simp [Placed.second, UnitRec.second, Function.comp_def]

/-- The shape of what a slot shows is not changed by a second. -/
theorem slot_of_second {x : Slot} {u : UnitRec} {st : ShelfState} (h : x.second = .occupied u st) :
    ∃ v st', x = .occupied v st' ∧ u = v.second
      ∧ (st = st' ∨ ∃ a, st' = .free a ∧ st = .free (a + 1)) := by
  cases x with
  | empty g => simp [Slot.second] at h
  | reserved p => simp [Slot.second] at h
  | occupied v st' => cases st' <;> simp_all [Slot.second]

theorem exists_placed_of_tick {s : State} {p : Pos} {x : Placed} (h : x ∈ (s.tick.build p).content) :
    ∃ y ∈ (s.build p).content, x.unit.number = y.unit.number ∧ x.unit.label = y.unit.label
      ∧ x.start = y.start := by
  rw [tick_build, second_content] at h
  split at h
  · exact ⟨x, h, rfl, rfl, rfl⟩
  · obtain ⟨y, hy, rfl⟩ := List.mem_map.1 h
    exact ⟨y, hy, rfl, rfl, rfl⟩

theorem exists_placed_tick {s : State} {p : Pos} {y : Placed} (h : y ∈ (s.build p).content) :
    ∃ x ∈ (s.tick.build p).content, x.unit.number = y.unit.number ∧ x.unit.label = y.unit.label
      ∧ x.start = y.start := by
  rw [tick_build, second_content]
  split
  · exact ⟨y, h, rfl, rfl, rfl⟩
  · exact ⟨_, List.mem_map.2 ⟨y, h, rfl⟩, rfl, rfl, rfl⟩

theorem namedOver_of_tick {s : State} {p : Pos} {c : Nat} {x : Placed} (h : s.tick.NamedOver p c x) :
    ∃ y, s.NamedOver p c y ∧ x.unit.number = y.unit.number := by
  obtain ⟨k, hk, hx, hn, hc⟩ := h
  obtain ⟨y, hy, number, label, start⟩ := exists_placed_of_tick hx
  exact ⟨y, ⟨k, by rwa [tick_hold] at hk, hy, number ▸ hn, label ▸ start ▸ hc⟩, number⟩

theorem namedOver_tick {s : State} {p : Pos} {c : Nat} {y : Placed} (h : s.NamedOver p c y) :
    ∃ x, s.tick.NamedOver p c x ∧ x.unit.number = y.unit.number := by
  obtain ⟨k, hk, hy, hn, hc⟩ := h
  obtain ⟨x, hx, number, label, start⟩ := exists_placed_tick hy
  exact ⟨x, ⟨k, by rwa [tick_hold], hx, number ▸ hn, by rw [label, start]; exact hc⟩, number⟩

/-- A put record counts its limit and nothing else in a second. -/
theorem put_of_tick {s : State} {p : Pos} {r : PutRec} (h : s.tick.put p = some r) :
    ∃ q n, s.put p = some q ∧ r = { q with limitLeft := n } := by
  rw [tick_put, State.countedPut, Option.map_eq_some_iff] at h
  obtain ⟨q, hq, rfl⟩ := h
  split
  · exact ⟨q, _, hq, rfl⟩
  · exact ⟨q, q.limitLeft, hq, rfl⟩

theorem put_tick {s : State} {p : Pos} {q : PutRec} (h : s.put p = some q) :
    ∃ n, s.tick.put p = some { q with limitLeft := n } := by
  rw [tick_put, State.countedPut, h, Option.map_some]
  split
  · exact ⟨_, rfl⟩
  · exact ⟨q.limitLeft, rfl⟩

theorem removalPending_tick_iff {s : State} {p : Pos} {x y : Placed} (h : x.unit.number = y.unit.number) :
    s.tick.RemovalPending p x ↔ s.RemovalPending p y := by
  constructor
  · rintro ⟨r, hr, hk, hu⟩
    obtain ⟨q, n, hq, rfl⟩ := put_of_tick hr
    exact ⟨q, hq, hk, hu.trans h⟩
  · rintro ⟨q, hq, hk, hu⟩
    obtain ⟨n, hn⟩ := put_tick hq
    exact ⟨_, hn, hk, hu.trans h.symm⟩

theorem panelTrue_tick {s : State} (h : s.PanelTrue) : s.tick.PanelTrue := by
  have lamp (n : Nat) : s.tick.lampShown n = s.lampShown n := by simp only [State.lampShown, tick_pl]
  have shelf {i : Nat} {u : UnitRec} {st : ShelfState} (e : s.tick.su.slot i = .occupied u st) :=
    slot_of_second ((tick_slot s i).symm.trans e)
  have others {p : Pos} {c : Nat} (hn : ∀ x, s.tick.NamedOver p c x → s.tick.RemovalPending p x) (y : Placed)
      (hy : s.NamedOver p c y) : s.RemovalPending p y := by
    obtain ⟨x, hx, number⟩ := namedOver_tick hy
    exact (removalPending_tick_iff number).1 (hn x hx)
  have total (p : Pos) : ((s.tick.build p).lines.map (fun l => l.item.quantity)).sum
      = ((s.build p).lines.map (fun l => l.item.quantity)).sum := by
    have e := congrArg (List.map (·.quantity)) (second_items (s.build p))
    simp only [List.map_map] at e
    rw [tick_build]
    exact congrArg List.sum e
  constructor
  case returned =>
    intro i u hi hu
    obtain ⟨v, st, hs, -, e | ⟨a, -, e⟩⟩ := shelf hu
    · exact (lamp i).trans (h.returned i v hi (e ▸ hs))
    · exact absurd e (by simp)
  case stoppedSlot =>
    intro i hi hstop hu
    refine (lamp i).trans (h.stoppedSlot i hi (tick_hc s ▸ hstop) (fun u hs => hu u.second ?_))
    rw [tick_slot, hs]; rfl
  case putting =>
    intro i u p l hi hstop hu
    obtain ⟨v, st, hs, -, e | ⟨a, -, e⟩⟩ := shelf hu
    · exact (lamp i).trans (h.putting i v p l hi (tick_hc s ▸ hstop) (e ▸ hs))
    · exact absurd e (by simp)
  case shelved =>
    intro i u st hi hstop hu hr hp
    obtain ⟨v, st', hs, -, rfl | ⟨a, rfl, rfl⟩⟩ := shelf hu
    · rw [tick_su]; exact (lamp i).trans (h.shelved i v st hi (tick_hc s ▸ hstop) hs hr hp)
    · rw [tick_su]; exact (lamp i).trans (h.shelved i v _ hi (tick_hc s ▸ hstop) hs (by simp) (by simp))
  case reserved =>
    intro i p hi hstop hu
    rw [tick_slot] at hu
    refine (lamp i).trans (h.reserved i p hi (tick_hc s ▸ hstop) ?_)
    revert hu
    rcases s.su.slot i with g | q | ⟨u, _ | _ | _ | _⟩ <;> simp [Slot.second]
  case empty =>
    intro i g hi hstop hu
    rw [tick_slot] at hu
    refine (lamp i).trans (h.empty i g hi (tick_hc s ▸ hstop) ?_)
    revert hu
    rcases s.su.slot i with g | q | ⟨u, _ | _ | _ | _⟩ <;> simp [Slot.second]
  case scanners =>
    rw [tick_hc, tick_su, lamp, lamp]
    exact h.scanners
  case named =>
    intro p c x hf hc hx hr
    obtain ⟨y, hy, number⟩ := namedOver_of_tick hx
    exact (lamp _).trans (h.named p c y (tick_isFitted s p ▸ hf) hc hy
      (fun k => hr ((removalPending_tick_iff number).2 k)))
  case operation =>
    intro p c r hf hc hstop hn hr hm
    obtain ⟨q, n, hq, rfl⟩ := put_of_tick hr
    have := h.operation p c q (tick_isFitted s p ▸ hf) hc (tick_hc s ▸ hstop) (others hn) hq hm
    simpa only [lamp, tick_build, second_state, PutRec.lamp] using this
  case bare =>
    intro p c hf hc hn hr
    refine (lamp _).trans (h.bare p c (tick_isFitted s p ▸ hf) hc (others hn) (fun q hq => ?_))
    obtain ⟨n, hn⟩ := put_tick hq
    exact (hr _ hn :)
  case stoppedCell =>
    intro p c hf hc hstop hn
    refine (lamp _).trans (h.stoppedCell p c (tick_isFitted s p ▸ hf) hc (tick_hc s ▸ hstop) (fun y hy => ?_))
    obtain ⟨x, hx, -⟩ := namedOver_tick hy
    exact hn x hx
  case stoppedPosition =>
    exact fun p hf hstop => (lamp _).trans (h.stoppedPosition p (tick_isFitted s p ▸ hf) (tick_hc s ▸ hstop))
  case position =>
    intro p hf hstop
    have := h.position p (tick_isFitted s p ▸ hf) (tick_hc s ▸ hstop)
    simpa only [lamp, tick_build, second_state, second_trayWanted, tick_su] using this
  case record =>
    intro p hf
    have := h.record p (tick_isFitted s p ▸ hf)
    rw [total]
    simpa only [tick_pl, tick_build, second_state, tick_hold] using this
  case recordIndex =>
    intro p hf
    obtain ⟨putting, planned, held, unloading, others⟩ := h.recordIndex p (tick_isFitted s p ▸ hf)
    simp only [tick_pl, tick_hold]
    rw [tick_build]
    simp only [second_state, second_plan]
    refine ⟨fun r hs hr => ?_, fun e es hs hr hp => planned e es hs ?_ hp, held, fun hs => ?_, others⟩
    · obtain ⟨q, n, hq, rfl⟩ := put_of_tick hr
      exact putting q hs hq
    · cases hq : s.put p with
      | none => rfl
      | some q =>
        obtain ⟨n, hn⟩ := put_tick hq
        rw [hn] at hr
        simp at hr
    · have e := congrArg (fun xs => xs.getLast?.map (·.2.2.2)) (second_placements (s.build p))
      simp only [List.getLast?_map, Option.map_map] at e
      rw [unloading hs]
      exact congrArg (·.getD 0) e.symm

/-! ### Commands -/

/-- A command that answers `o` from `s` keeps the capacities and what the panel was told. -/
def KeepsTrue (s : State) (o : Host.Outcome State Fault Refusal) : Prop :=
  ∀ t, o = .next t → t.Bounded ∧ (s.PanelTrue → t.PanelTrue)

theorem keepsTrue_finish {s x : State} (hx : x.Bounded) : KeepsTrue s (finish x) := by
  rintro t ⟨⟩
  exact ⟨hx.of (Steady.refl x).flush, fun _ => x.flush_panelTrue hx.slots hx.lamps⟩

theorem keepsTrue_finish_steady {s x : State} (hs : s.Bounded) (h : Steady s x) : KeepsTrue s (finish x) :=
  keepsTrue_finish (hs.of h)

theorem keepsTrue_finishServing {s x : State} (hx : x.Bounded) : KeepsTrue s (finishServing x) :=
  keepsTrue_finish (hx.of ((Steady.refl x).serveAsks _))

theorem keepsTrue_next_self {s : State} (hs : s.Bounded) : KeepsTrue s (.next s) := by
  rintro t ⟨⟩
  exact ⟨hs, id⟩

theorem keepsTrue_next_showsAs {s x : State} (hx : x.Bounded) (h : ShowsAs s x) : KeepsTrue s (.next x) := by
  rintro t ⟨⟩
  exact ⟨hx, fun k => panelTrue_of_showsAs k h⟩

theorem keepsTrue_of_showsAs {s u : State} {o : Host.Outcome State Fault Refusal} (h : ShowsAs s u)
    (k : KeepsTrue u o) : KeepsTrue s o :=
  fun t ht => ⟨(k t ht).1, fun hs => (k t ht).2 (panelTrue_of_showsAs hs h)⟩

/-- A frame command changes nothing, or ends in `finish` on the state its frame was handed over in. -/
theorem keepsTrue_frame {s : State} (hs : s.Bounded) {k : Kind} {o : Host.Outcome State Fault Refusal}
    {f : Handed → State → Host.Outcome State Fault Refusal} (hf : ∀ h u, u.Bounded → KeepsTrue s (f h u))
    (ho : o = match s.handOver k with
      | none => .next s
      | some (h, u) => f h u) : KeepsTrue s o := by
  subst ho
  cases hh : s.handOver k with
  | none => exact keepsTrue_next_self hs
  | some x => exact hf x.1 x.2 (hs.handOver hh)

section
variable {s : State} (hs : s.Bounded)
include hs

theorem keepsTrue_refuseKey (p : Pos) (n : Nat) : KeepsTrue s (s.refuseKey p n) :=
  keepsTrue_finish_steady hs ((Steady.refl s).benchReport _ _ _)

omit hs in
theorem keepsTrue_powerOnReset (k : BitVec 5) (n b : BitVec 2) : KeepsTrue s (execPowerOnReset k n b s) := by
  unfold execPowerOnReset
  extract_lets c
  have hc : c.Bounded := State.cleared_bounded s k n b
  split
  · exact keepsTrue_finish ((hc.fillOwed _).of ((Steady.refl _).benchReport _ _ _))
  · exact keepsTrue_finish ((hc.offerRoll true).fillOwed _)

theorem keepsTrue_benchReset : KeepsTrue s (execBenchReset s) := by
  unfold execBenchReset
  extract_lets c
  have hc : c.Bounded := hs.benchCleared.fillOwed _
  refine keepsTrue_finish (State.Bounded.of ?_ (Steady.refl _).lookAll)
  split
  · exact hc
  · exact hc.offerRoll true

theorem keepsTrue_intakeScan (raw : RawLabel) : KeepsTrue s (execIntakeScan raw s) := by
  unfold execIntakeScan
  split
  · exact keepsTrue_finish_steady hs ((Steady.refl s).refuseIntake _ _)
  · split
    · exact keepsTrue_finish_steady hs ((Steady.refl s).refuseIntake _ _)
    · exact keepsTrue_finish_steady hs ((Steady.refl s).enterUnit _ _)

theorem keepsTrue_chuteScan (raw : RawLabel) : KeepsTrue s (execChuteScan raw s) := by
  unfold execChuteScan
  split
  · exact keepsTrue_finish_steady hs ((Steady.refl s).refuseChute _ _)
  · split
    · exact keepsTrue_finish_steady hs ((Steady.refl s).refuseChute _ _)
    · exact keepsTrue_finish_steady hs ((Steady.refl s).chuteRemove _)

theorem keepsTrue_confirm (p : Pos) : KeepsTrue s (execConfirm p s) := by
  unfold execConfirm
  split
  · exact keepsTrue_refuseKey hs p 1
  · split
    · exact keepsTrue_finish_steady hs ((Steady.refl s).confirmKey p _)
    · exact keepsTrue_refuseKey hs p 1

theorem keepsTrue_reject (p : Pos) : KeepsTrue s (execReject p s) := by
  unfold execReject
  split
  · exact keepsTrue_refuseKey hs p 2
  · split
    · exact keepsTrue_finish_steady hs ((Steady.refl s).rejectKey p _)
    · split
      · split
        · exact keepsTrue_finish_steady hs ((Steady.refl s).rejectHeld p)
        · exact keepsTrue_refuseKey hs p 2
      · exact keepsTrue_refuseKey hs p 2

theorem keepsTrue_resume (p : Pos) : KeepsTrue s (execResume p s) := by
  unfold execResume
  split
  · exact keepsTrue_refuseKey hs p 3
  · split
    · split
      · exact keepsTrue_finish_steady hs ((Steady.refl s).resumeKey p _)
      · exact keepsTrue_refuseKey hs p 3
    · exact keepsTrue_refuseKey hs p 3

theorem keepsTrue_undo (p : Pos) : KeepsTrue s (execUndo p s) := by
  unfold execUndo
  split
  · exact keepsTrue_refuseKey hs p 4
  · split
    · split
      · exact keepsTrue_finish_steady hs ((Steady.refl s).undoKey p _)
      · exact keepsTrue_refuseKey hs p 4
    · exact keepsTrue_refuseKey hs p 4

theorem keepsTrue_abandon (p : Pos) : KeepsTrue s (execAbandon p s) := by
  unfold execAbandon
  split
  · exact keepsTrue_refuseKey hs p 5
  · split
    · split
      · exact keepsTrue_finish_steady hs ((Steady.refl s).abandonKey p _)
      · exact keepsTrue_refuseKey hs p 5
    · exact keepsTrue_refuseKey hs p 5

theorem keepsTrue_stopAsserted : KeepsTrue s (execStopAsserted s) := by
  unfold execStopAsserted
  split
  · exact keepsTrue_next_self hs
  · have ht : (localStopped s).Bounded := by
      unfold localStopped
      extract_lets t
      split
      · exact hs.setHc _
      · exact (hs.setHc _).enterStopped
    exact keepsTrue_finish (ht.of (Steady.refl _).produceHalt)

theorem keepsTrue_stopReleased : KeepsTrue s (execStopReleased s) :=
  keepsTrue_next_showsAs (hs.setHc _) ⟨rfl, rfl, rfl, rfl, rfl, rfl, rfl, rfl⟩

theorem keepsTrue_panelRecordTimeout : KeepsTrue s (execPanelRecordTimeout s) :=
  keepsTrue_next_showsAs (hs.setPl _ rfl hs.buffer) ⟨rfl, rfl, rfl, rfl, rfl, rfl, rfl, rfl⟩

theorem keepsTrue_sweep (readings : PerPos Quad) : KeepsTrue s (execSweep readings s) := by
  have fitted : (s.fittedPos.foldl (State.readPlatform readings) s).fittedPos = s.fittedPos :=
    foldl_read_eq State.fittedPos (State.readPlatform readings) (fun _ _ => rfl) _ _
  unfold execSweep
  extract_lets t
  rw [show t.fittedPos = s.fittedPos from fitted]
  exact keepsTrue_finish (hs.sweep readings _)

theorem keepsTrue_suppressionExpiry : KeepsTrue s (execSuppressionExpiry s) := by
  have ht : (s.setLp { s.lp with suppression := none }).Bounded :=
    hs.setLp _ hs.places hs.received hs.received13
  unfold execSuppressionExpiry
  split
  · exact keepsTrue_finish (ht.of (Steady.refl _).lookAll)
  · exact keepsTrue_next_self hs

theorem keepsTrue_chillExpiry (n : UnitNo) : KeepsTrue s (execChillExpiry n s) := by
  unfold execChillExpiry
  split
  · split
    · split
      · exact keepsTrue_finish_steady hs ((Steady.refl s).expireOnShelf _ _ _)
      · exact keepsTrue_next_self hs
    · exact keepsTrue_next_self hs
  · split
    · exact keepsTrue_finish_steady hs ((Steady.refl s).expirePlaced _ _)
    · exact keepsTrue_next_self hs

theorem keepsTrue_surplusReached (n : UnitNo) : KeepsTrue s (execSurplusReached n s) := by
  unfold execSurplusReached
  split
  · exact keepsTrue_next_self hs
  · split
    · split
      · exact keepsTrue_finish_steady hs (Steady.refl s).surplusLook
      · exact keepsTrue_next_self hs
    · exact keepsTrue_next_self hs

theorem keepsTrue_putTimeout (p : Pos) : KeepsTrue s (execPutTimeout p s) := by
  unfold execPutTimeout
  split
  · exact keepsTrue_next_self hs
  · split
    · exact keepsTrue_finish_steady hs ((Steady.refl s).faultOp p _ _ _)
    · exact keepsTrue_next_self hs

theorem keepsTrue_askWaitExpiry (p : Pos) (line : Nat) : KeepsTrue s (execAskWaitExpiry p line s) := by
  unfold execAskWaitExpiry
  split
  · split
    · exact keepsTrue_finish_steady hs ((Steady.refl s).clearAndHand _)
    · exact keepsTrue_next_self hs
  · exact keepsTrue_next_self hs

theorem keepsTrue_offerEntryAged (k : Station) (c : ItemCode) : KeepsTrue s (execOfferEntryAged k c s) := by
  refine keepsTrue_next_showsAs (hs.of ((Steady.refl s).setXu _ ?_)) ⟨rfl, rfl, rfl, rfl, rfl, rfl, rfl, rfl⟩
  exact ⟨id, le_trans (List.length_filter_le _ _), id, id, id⟩

theorem keepsTrue_transferLimit (k : Station) (n : Seq) : KeepsTrue s (execTransferLimit k n s) := by
  unfold execTransferLimit
  split
  · split
    · exact keepsTrue_finish_steady hs ((Steady.refl s).transferEnds _)
    · exact keepsTrue_next_self hs
  · exact keepsTrue_next_self hs

theorem keepsTrue_writeOff (n : Seq) : KeepsTrue s (execWriteOff n s) := by
  unfold execWriteOff
  split
  · split
    · exact keepsTrue_finish_steady hs (((Steady.refl s).endOutbound _).benchReport _ _ _)
    · exact keepsTrue_next_self hs
  · exact keepsTrue_next_self hs

theorem keepsTrue_ite_finish {c : Prop} [Decidable c] {x : State} (hx : x.Bounded) :
    KeepsTrue s (if c then finish x else .next s) := by
  split
  · exact keepsTrue_finish hx
  · exact keepsTrue_next_self hs

theorem keepsTrue_peerAbsent (k : Station) : KeepsTrue s (execPeerAbsent k s) := by
  unfold execPeerAbsent
  split
  · exact keepsTrue_next_showsAs ((hs.setJc _).of ((Steady.refl _).dropOffers k))
      ⟨rfl, rfl, rfl, rfl, rfl, rfl, rfl, rfl⟩
  · exact keepsTrue_next_self hs

theorem keepsTrue_frameReceive (bytes : List Byte) : KeepsTrue s (execFrameReceive bytes s) := by
  unfold execFrameReceive
  split
  · exact keepsTrue_finish (hs.receive _)
  · exact keepsTrue_next_self hs

omit hs in
theorem showsAs_setLp (v : LinePort) : ShowsAs s (s.setLp v) := ⟨rfl, rfl, rfl, rfl, rfl, rfl, rfl, rfl⟩

omit hs in
theorem showsAs_beginContention : ShowsAs s s.beginContention := by
  unfold State.beginContention
  split
  · split
    · exact ⟨rfl, rfl, rfl, rfl, rfl, rfl, rfl, rfl⟩
    · exact showsAs_setLp _
  · exact ⟨rfl, rfl, rfl, rfl, rfl, rfl, rfl, rfl⟩

theorem keepsTrue_contention (stage : ContentionStage) : KeepsTrue s (execContention stage s) := by
  unfold execContention
  split
  · exact keepsTrue_next_showsAs hs.beginContention showsAs_beginContention
  · split
    · exact keepsTrue_next_self hs
    · rename_i c hc
      split
      · exact keepsTrue_next_showsAs (hs.startFrame hc _) (showsAs_setLp _)
      · split
        · exact keepsTrue_finishServing (hs.withdrawContending.of (Steady.refl _).freedPlace)
        · exact keepsTrue_next_showsAs (hs.loseContention hc) (showsAs_setLp _)

theorem keepsTrue_contentionFault : KeepsTrue s (execContentionFault s) := by
  unfold execContentionFault
  split
  · exact keepsTrue_next_self hs
  · rename_i x hx
    extract_lets t
    have ht : t.Bounded := hs.abortFrame hx
    split
    · exact keepsTrue_finish (ht.enterIsolated.of ((Steady.refl _).benchReport _ _ _))
    · exact keepsTrue_finish ht

theorem keepsTrue_ownFrameComplete : KeepsTrue s (execOwnFrameComplete s) := by
  unfold execOwnFrameComplete
  split
  · exact keepsTrue_next_self hs
  · exact keepsTrue_finishServing ((hs.completeFrame _).of (Steady.refl _).freedPlace)

theorem keepsTrue_outboundRecordSent : KeepsTrue s (execOutboundRecordSent s) := by
  rintro t ⟨⟩
  have hx : (s.setPl { s.pl with buffer := s.pl.buffer.drop 1 }).Bounded := by
    refine hs.setPl _ rfl ?_
    have := hs.buffer
    simp only [List.length_drop]
    omega
  refine ⟨hs.recordSent, fun h => panelTrue_of_shownOrTrue hx ?_ (fillOwed_shownOrTrue _ _) hs.recordSent.lamps⟩
  exact panelTrue_of_showsAs h ⟨rfl, rfl, rfl, rfl, rfl, rfl, rfl, rfl⟩

/-! ### Frame commands -/

theorem keepsTrue_notice : KeepsTrue s (execNotice s) := by
  refine keepsTrue_frame hs (k := .notice) (fun h u hu => ?_) rfl
  split
  · split
    · exact keepsTrue_finish (hu.of ((Steady.refl u).takeNotice _ _))
    · exact keepsTrue_finish hu
  · exact keepsTrue_finish hu

theorem keepsTrue_claim : KeepsTrue s (execClaim s) := by
  refine keepsTrue_frame hs (k := .claim) (fun h u hu => ?_) rfl
  split
  · refine keepsTrue_finishServing ?_
    split
    · exact hu.of ((Steady.refl u).claimBack _)
    · exact hu.of ((Steady.refl u).claimByOther _ _)
  · exact keepsTrue_finish hu

theorem keepsTrue_prior : KeepsTrue s (execPrior s) := by
  refine keepsTrue_frame hs (k := .prior) (fun h u hu => ?_) rfl
  split
  · split
    · exact keepsTrue_finish hu
    · exact keepsTrue_finishServing (hu.of ((Steady.refl u).takePrior _ _))
  · exact keepsTrue_finish hu

theorem keepsTrue_release : KeepsTrue s (execRelease s) := by
  refine keepsTrue_frame hs (k := .release) (fun h u hu => ?_) rfl
  split
  · exact keepsTrue_finish (hu.of ((Steady.refl u).takeRelease _ _))
  · exact keepsTrue_finish hu

theorem keepsTrue_done : KeepsTrue s (execDone s) := by
  refine keepsTrue_frame hs (k := .done) (fun h u hu => ?_) rfl
  split
  · exact keepsTrue_finishServing (hu.of ((Steady.refl u).takeDone _ _ _))
  · exact keepsTrue_finish hu

theorem keepsTrue_offer : KeepsTrue s (execOffer s) := by
  refine keepsTrue_frame hs (k := .offer) (fun h u hu => ?_) rfl
  split
  · split
    · exact keepsTrue_finish (hu.of ((Steady.refl u).takeOffer _ _ _))
    · exact keepsTrue_finish hu
  · exact keepsTrue_finish hu

theorem keepsTrue_want : KeepsTrue s (execWant s) := by
  refine keepsTrue_frame hs (k := .want) (fun h u hu => ?_) rfl
  split
  · split
    · exact keepsTrue_finish (hu.of ((Steady.refl u).offerCode _))
    · exact keepsTrue_finish hu
  · exact keepsTrue_finish hu

theorem keepsTrue_ask : KeepsTrue s (execAsk s) := by
  refine keepsTrue_frame hs (k := .ask) (fun h u hu => ?_) rfl
  split
  · split
    · exact keepsTrue_finishServing (hu.of ((Steady.refl u).joinAsk _ _ _))
    · exact keepsTrue_finish hu
  · exact keepsTrue_finish hu

theorem keepsTrue_grant : KeepsTrue s (execGrant s) := by
  refine keepsTrue_frame hs (k := .grant) (fun h u hu => ?_) rfl
  split
  · split
    · exact keepsTrue_finish (hu.of ((Steady.refl u).takeGrant _ _ _ _))
    · exact keepsTrue_finish hu
  · exact keepsTrue_finish hu

theorem keepsTrue_taken : KeepsTrue s (execTaken s) := by
  refine keepsTrue_frame hs (k := .taken) (fun h u hu => ?_) rfl
  split
  · split
    · exact keepsTrue_finish (hu.of ((Steady.refl u).takeTaken _ _ _))
    · exact keepsTrue_finish hu
  · exact keepsTrue_finish hu

theorem keepsTrue_roll : KeepsTrue s (execRoll s) := by
  refine keepsTrue_frame hs (k := .roll) (fun h u hu => ?_) rfl
  split
  · split
    · exact keepsTrue_finish hu
    · exact keepsTrue_finish (hu.takeRoll _ _)
  · exact keepsTrue_finish hu

theorem keepsTrue_setup : KeepsTrue s (execSetup s) := by
  refine keepsTrue_frame hs (k := .setup) (fun h u hu => ?_) rfl
  split
  · split
    · exact keepsTrue_finish (hu.takeSetup _)
    · exact keepsTrue_finish hu
  · exact keepsTrue_finish hu

theorem keepsTrue_halt : KeepsTrue s (execHalt s) := by
  refine keepsTrue_frame hs (k := .halt) (fun h u hu => ?_) rfl
  split
  · split
    · exact keepsTrue_finish hu
    · exact keepsTrue_finish hu.enterStopped
  · exact keepsTrue_finish hu

theorem keepsTrue_go : KeepsTrue s (execGo s) := by
  refine keepsTrue_frame hs (k := .go) (fun h u hu => ?_) rfl
  split
  · split
    · exact keepsTrue_finish hu
    · exact keepsTrue_finishServing hu.clearStopped
  · exact keepsTrue_finish hu

/-! ### Inbound bytes -/

theorem keepsTrue_takeRecord (r : PanelIn) : KeepsTrue s (takeRecord r s) := by
  cases r with
  | scan intake label =>
    cases intake with
    | true => exact keepsTrue_intakeScan hs label
    | false => exact keepsTrue_chuteScan hs label
  | key p action =>
    show KeepsTrue s (takeKey p action s)
    unfold takeKey
    split
    · exact keepsTrue_confirm hs p
    · exact keepsTrue_reject hs p
    · exact keepsTrue_resume hs p
    · exact keepsTrue_undo hs p
    · exact keepsTrue_abandon hs p
    · exact keepsTrue_next_self hs
  | stop on =>
    cases on with
    | true => exact keepsTrue_stopAsserted hs
    | false => exact keepsTrue_stopReleased hs
  | reset => exact keepsTrue_benchReset hs

theorem keepsTrue_takeByte (b : Byte) : KeepsTrue s (takeByte b s) := by
  unfold takeByte
  extract_lets
  split
  rename_i inbound done _
  extract_lets u
  have hu : u.Bounded := hs.setPl _ rfl hs.buffer
  have hsu : ShowsAs s u := ⟨rfl, rfl, rfl, rfl, rfl, rfl, rfl, rfl⟩
  split
  · exact keepsTrue_next_showsAs hu hsu
  · exact keepsTrue_of_showsAs hsu (keepsTrue_takeRecord hu _)

end

theorem keepsTrue_takeBytes (bytes : List Byte) {s : State} (hs : s.Bounded) :
    KeepsTrue s (takeBytes bytes s) := by
  induction bytes generalizing s with
  | nil => exact keepsTrue_next_self hs
  | cons b bs ih =>
    intro t ht
    rw [takeBytes] at ht
    have first := keepsTrue_takeByte hs b
    cases ho : takeByte b s with
    | next u =>
      rw [ho] at ht
      obtain ⟨hu, told⟩ := first u ho
      exact ⟨(ih hu t ht).1, fun h => (ih hu t ht).2 (told h)⟩
    | fault r => rw [ho] at ht; cases ht
    | refused r => rw [ho] at ht; cases ht

theorem keepsTrue_exec (c : Instr) {s : State} (hs : s.Bounded) : KeepsTrue s (exec c s) := by
  have fold {α : Type} (f : State → α → State) (xs : List α) (hf : ∀ t x, Steady s t → Steady s (f t x)) :
      (xs.foldl f s).Bounded := hs.of ((Steady.refl s).foldl f hf xs)
  cases c with
  | powerOnReset k n b => exact keepsTrue_powerOnReset k n b
  | benchReset => exact keepsTrue_benchReset hs
  | intakeScan raw => exact keepsTrue_intakeScan hs raw
  | chuteScan raw => exact keepsTrue_chuteScan hs raw
  | confirm p => exact keepsTrue_confirm hs p
  | reject p => exact keepsTrue_reject hs p
  | resume p => exact keepsTrue_resume hs p
  | undo p => exact keepsTrue_undo hs p
  | abandon p => exact keepsTrue_abandon hs p
  | stopAsserted => exact keepsTrue_stopAsserted hs
  | stopReleased => exact keepsTrue_stopReleased hs
  | panelRecordTimeout => exact keepsTrue_panelRecordTimeout hs
  | sweep readings => exact keepsTrue_sweep hs readings
  | slotReserved => exact keepsTrue_finish_steady hs (Steady.refl s).giveSlots
  | putTimeout p => exact keepsTrue_putTimeout hs p
  | exactWaitExpiry p line => exact keepsTrue_ite_finish hs (hs.of ((Steady.refl s).expireExact _))
  | gatherLimitExpiry p => exact keepsTrue_ite_finish hs (hs.of ((Steady.refl s).gatherLate p))
  | chillExpiry n => exact keepsTrue_chillExpiry hs n
  | surplusReached n => exact keepsTrue_surplusReached hs n
  | offerSecondLook => exact keepsTrue_finish_steady hs (Steady.refl s).surplusLook
  | wantRetry => exact keepsTrue_finish (fold _ _ fun _ r h => h.retryLine r)
  | askWaitExpiry p line => exact keepsTrue_askWaitExpiry hs p line
  | offerEntryAged k c => exact keepsTrue_offerEntryAged hs k c
  | transferLimit k n => exact keepsTrue_transferLimit hs k n
  | writeOff n => exact keepsTrue_writeOff hs n
  | suppressionExpiry => exact keepsTrue_suppressionExpiry hs
  | joinLimitExpiry => exact keepsTrue_ite_finish hs hs.enterActive
  | rollPeriodExpiry => exact keepsTrue_ite_finish hs (hs.offerRoll false)
  | rollRetry => exact keepsTrue_ite_finish hs (hs.offerRoll false)
  | peerAbsent k => exact keepsTrue_peerAbsent hs k
  | frameReceive bytes => exact keepsTrue_frameReceive hs bytes
  | contention stage => exact keepsTrue_contention hs stage
  | contentionFault => exact keepsTrue_contentionFault hs
  | ownFrameComplete => exact keepsTrue_ownFrameComplete hs
  | txSpaceGrant => exact keepsTrue_finishServing (hs.of (Steady.refl s).freedPlace)
  | notice => exact keepsTrue_notice hs
  | claim => exact keepsTrue_claim hs
  | prior => exact keepsTrue_prior hs
  | release => exact keepsTrue_release hs
  | done => exact keepsTrue_done hs
  | offer => exact keepsTrue_offer hs
  | want => exact keepsTrue_want hs
  | ask => exact keepsTrue_ask hs
  | askServe => exact keepsTrue_finishServing hs
  | grant => exact keepsTrue_grant hs
  | taken => exact keepsTrue_taken hs
  | roll => exact keepsTrue_roll hs
  | setup => exact keepsTrue_setup hs
  | halt => exact keepsTrue_halt hs
  | go => exact keepsTrue_go hs
  | outboundRecordSent => exact keepsTrue_outboundRecordSent hs
  | panelRecordDiscarded bytes => exact keepsTrue_takeBytes bytes hs

theorem keepsTrue_step {s : State} (hs : s.Bounded) : KeepsTrue s (step s) := by
  unfold step
  split
  · rintro t ⟨⟩
    exact ⟨hs.tick, panelTrue_tick⟩
  · rename_i i rest _
    have hu : State.Bounded { s with pending := rest } := { hs with }
    have shows : ShowsAs s { s with pending := rest } := ⟨rfl, rfl, rfl, rfl, rfl, rfl, rfl, rfl⟩
    exact keepsTrue_of_showsAs shows (keepsTrue_exec i hu)

/-! ### A change of what is shown is sent or owed (R211) -/

/-- The lamp at a place is owed, or a LAMP record in the buffer tells what it shows. -/
def Panel.TellsLamp (pl : Panel) (n : Nat) (id : LampId) : Prop :=
  ∃ c, pl.lamps[n]? = some c ∧ (c.owed = true ∨ .lamp id c.shown ∈ pl.buffer)

/-- The POSITION record is owed, or one in the buffer tells what it shows. -/
def Panel.TellsPosition (pl : Panel) (p : Pos) : Prop :=
  (pl.positions.get p).owed = true ∨ ∃ lost, .position p (pl.positions.get p).shown lost ∈ pl.buffer

/-- What `y` shows otherwise than `x` it tells, and it tells what `x` tells. -/
structure Panel.TellsChanges (x y : Panel) : Prop where
  lamp : ∀ n id, LampId.all[n]? = some id →
    (y.lamps[n]?).map (·.shown) = (x.lamps[n]?).map (·.shown) ∨ Panel.TellsLamp y n id
  keepsLamp : ∀ n id, LampId.all[n]? = some id → Panel.TellsLamp x n id → Panel.TellsLamp y n id
  position : ∀ p, (y.positions.get p).shown = (x.positions.get p).shown ∨ Panel.TellsPosition y p
  keepsPosition : ∀ p, Panel.TellsPosition x p → Panel.TellsPosition y p

theorem Panel.TellsChanges.refl (x : Panel) : Panel.TellsChanges x x :=
  ⟨fun _ _ _ => .inl rfl, fun _ _ _ => id, fun _ => .inl rfl, fun _ => id⟩

theorem Panel.TellsChanges.trans {x y z : Panel} (h : Panel.TellsChanges x y) (k : Panel.TellsChanges y z) :
    Panel.TellsChanges x z where
  lamp n id hn := (k.lamp n id hn).elim
    (fun e => (h.lamp n id hn).imp e.trans (k.keepsLamp n id hn)) .inr
  keepsLamp n id hn := k.keepsLamp n id hn ∘ h.keepsLamp n id hn
  position p := (k.position p).elim (fun e => (h.position p).imp e.trans (k.keepsPosition p)) .inr
  keepsPosition p := k.keepsPosition p ∘ h.keepsPosition p

theorem lampIds_nodup : LampId.all.Nodup := by decide +kernel

theorem eq_of_lampId {m n : Nat} {id : LampId} (hm : LampId.all[m]? = some id) (hn : LampId.all[n]? = some id) :
    m = n :=
  (List.getElem?_inj (List.getElem?_eq_some_iff.1 hm).1 lampIds_nodup).1 (hm.trans hn.symm)

/-- The records of a buffer once the records of a lamp are written over. -/
theorem mem_map_replaceLamp {id : LampId} {v : LampShow} {r : PanelOut} {xs : List PanelOut} (h : r ∈ xs)
    (hr : r.isLamp id = false) : r ∈ xs.map (fun x => if x.isLamp id then .lamp id v else x) :=
  List.mem_map.2 ⟨r, h, by simp [hr]⟩

theorem Panel.sendLamp_told (pl : Panel) {i : Nat} {id : LampId} (v : LampShow)
    (hi : i < pl.lamps.length) : Panel.TellsLamp (pl.sendLamp i id v) i id := by
  obtain ⟨c, hc⟩ : ∃ c, pl.lamps[i]? = some c := ⟨_, List.getElem?_eq_getElem hi⟩
  unfold Panel.sendLamp
  extract_lets owed
  have howed : owed = c.owed := by simp [owed, hc]
  split
  next hb =>
    obtain ⟨r, hr, hl⟩ := List.any_eq_true.1 hb
    refine ⟨{ c with shown := v }, by simp [updateAt_getElem?, hc], .inr ?_⟩
    exact List.mem_map.2 ⟨r, hr, if_pos hl⟩
  next =>
    split
    next ho => exact ⟨{ c with shown := v }, by simp [updateAt_getElem?, hc], .inl (howed ▸ ho)⟩
    next =>
      split
      · exact ⟨{ c with shown := v }, by simp [updateAt_getElem?, hc], .inr (by simp)⟩
      · exact ⟨⟨v, true⟩, by simp [updateAt_getElem?, hc], .inl rfl⟩

/-- A LAMP record that is sent takes no other record out of the buffer. -/
theorem Panel.mem_sendLamp {pl : Panel} {i : Nat} {id : LampId} {v : LampShow} {r : PanelOut}
    (h : r ∈ pl.buffer) (hr : r.isLamp id = false) : r ∈ (pl.sendLamp i id v).buffer := by
  unfold Panel.sendLamp
  extract_lets owed
  split
  · exact mem_map_replaceLamp h hr
  · split
    · exact h
    · split
      · exact List.mem_append_left _ h
      · exact h

theorem Panel.sendLamp_lamp_other (pl : Panel) {i m : Nat} (id : LampId) (v : LampShow) (h : m ≠ i) :
    (pl.sendLamp i id v).lamps[m]? = pl.lamps[m]? := by
  unfold Panel.sendLamp
  extract_lets owed
  split
  · simp [updateAt_getElem?, h]
  · split
    · simp [updateAt_getElem?, h]
    · split <;> simp [updateAt_getElem?, h]

theorem Panel.sendLamp_tellsChanges (pl : Panel) {i : Nat} {id : LampId} (v : LampShow)
    (hid : LampId.all[i]? = some id) (hi : i < pl.lamps.length) :
    Panel.TellsChanges pl (pl.sendLamp i id v) := by
  have positions := (Panel.sendLamp_shown pl i id v).1
  have other {m : Nat} {id' : LampId} (hm : LampId.all[m]? = some id') (h : m ≠ i) : id' ≠ id :=
    fun e => h (eq_of_lampId hm (e ▸ hid))
  constructor
  case lamp =>
    intro n id' hn
    by_cases e : n = i
    · subst e
      obtain rfl : id' = id := by simpa [hn] using hid
      exact .inr (Panel.sendLamp_told pl v hi)
    · exact .inl (by rw [Panel.sendLamp_lamp_other pl id v e])
  case keepsLamp =>
    rintro n id' hn ⟨c, hc, told⟩
    by_cases e : n = i
    · subst e
      obtain rfl : id' = id := by simpa [hn] using hid
      exact Panel.sendLamp_told pl v hi
    · refine ⟨c, by rw [Panel.sendLamp_lamp_other pl id v e, hc], told.imp_right fun hm => ?_⟩
      exact Panel.mem_sendLamp hm (by simp [PanelOut.isLamp, other hn e])
  case position => exact fun p => .inl (by rw [positions])
  case keepsPosition =>
    rintro p (ho | ⟨lost, hm⟩)
    · exact .inl (by rwa [positions])
    · exact .inr ⟨lost, by rw [positions]; exact Panel.mem_sendLamp hm rfl⟩

theorem Panel.sendLamps_tellsChanges (n : Nat) (ids : List LampId) (vs : List LampShow) (cs : List LampCell)
    (pl : Panel) (hids : ∀ j id, ids[j]? = some id → LampId.all[n + j]? = some id)
    (hl : n + cs.length ≤ pl.lamps.length) :
    Panel.TellsChanges pl (Panel.sendLamps n ids vs cs pl) := by
  induction ids generalizing n vs cs pl with
  | nil => cases vs <;> cases cs <;> exact .refl _
  | cons id ids ih =>
    cases vs with
    | nil => exact .refl _
    | cons v vs =>
      cases cs with
      | nil => exact .refl _
      | cons c cs =>
        rw [Panel.sendLamps]
        rw [List.length_cons] at hl
        have rest (j : Nat) (id' : LampId) (h : ids[j]? = some id') : LampId.all[n + 1 + j]? = some id' := by
          have := hids (j + 1) id' (by simpa using h)
          rwa [show n + (j + 1) = n + 1 + j by omega] at this
        split
        · exact ih _ _ _ _ rest (by omega)
        · refine (Panel.sendLamp_tellsChanges pl v (by simpa using hids 0 id rfl) (by omega)).trans ?_
          exact ih _ _ _ _ rest (by rw [Panel.sendLamp_lamps]; omega)

theorem Panel.sendPosition_told (pl : Panel) (p : Pos) (v : PosShow) :
    Panel.TellsPosition (pl.sendPosition p v) p := by
  unfold Panel.sendPosition Panel.TellsPosition
  extract_lets cell
  split
  next hb =>
    obtain ⟨r, hr, hp⟩ := List.any_eq_true.1 hb
    obtain ⟨w, lost, rfl⟩ : ∃ w lost, r = .position p w lost := by
      cases r <;> simp_all [PanelOut.isPosition]
    refine .inr ⟨lost, List.mem_map.2 ⟨_, hr, ?_⟩⟩
    simp
  next =>
    split
    next ho => exact .inl (by simpa using ho)
    next =>
      split
      · exact .inr ⟨pl.reportsLost, by simp⟩
      · exact .inl (by simp)

/-- A POSITION record that is sent takes no record of another kind or position out of the buffer. -/
theorem Panel.mem_sendPosition {pl : Panel} {p : Pos} {v : PosShow} {r : PanelOut} (h : r ∈ pl.buffer)
    (hr : r.isPosition p = false) : r ∈ (pl.sendPosition p v).buffer := by
  unfold Panel.sendPosition
  extract_lets cell
  split
  · refine List.mem_map.2 ⟨r, h, ?_⟩
    cases r <;> simp_all [PanelOut.isPosition]
  · split
    · exact h
    · split
      · exact List.mem_append_left _ h
      · exact h

theorem Panel.sendPosition_cell_other (pl : Panel) {p q : Pos} (v : PosShow) (h : q ≠ p) :
    (pl.sendPosition p v).positions.get q = pl.positions.get q := by
  unfold Panel.sendPosition
  extract_lets cell
  split
  · exact PerPos_get_set_other _ _ h
  · split
    · exact PerPos_get_set_other _ _ h
    · split <;> exact PerPos_get_set_other _ _ h

theorem Panel.sendPosition_tellsChanges (pl : Panel) (p : Pos) (v : PosShow) :
    Panel.TellsChanges pl (pl.sendPosition p v) := by
  have lamps := Panel.sendPosition_lamps pl p v
  constructor
  case lamp => exact fun n id _ => .inl (by rw [lamps])
  case keepsLamp =>
    rintro n id hn ⟨c, hc, told⟩
    exact ⟨c, lamps ▸ hc, told.imp_right fun hm => Panel.mem_sendPosition hm rfl⟩
  case position =>
    intro q
    by_cases e : q = p
    · subst e; exact .inr (Panel.sendPosition_told pl q v)
    · exact .inl (by rw [Panel.sendPosition_cell_other pl v e])
  case keepsPosition =>
    intro q told
    by_cases e : q = p
    · subst e; exact Panel.sendPosition_told pl q v
    · rw [Panel.TellsPosition, Panel.sendPosition_cell_other pl v e]
      refine told.imp_right fun ⟨lost, hm⟩ => ⟨lost, Panel.mem_sendPosition hm ?_⟩
      simp [PanelOut.isPosition, e]

theorem flush_tellsChanges (s : State) : Panel.TellsChanges s.pl s.flush.pl := by
  have shown (ps : List Pos) (t : State) :
      Panel.TellsChanges t.pl (ps.foldl State.showPosition t).pl := by
    induction ps generalizing t with
    | nil => exact .refl _
    | cons p ps ih =>
      refine Panel.TellsChanges.trans ?_ (ih _)
      unfold State.showPosition
      split
      · exact Panel.sendPosition_tellsChanges ..
      · exact .refl _
  refine (shown Pos.all s).trans (Panel.sendLamps_tellsChanges 0 _ _ _ _ (fun j id h => ?_) ?_)
  · rwa [Nat.zero_add]
  · rw [Nat.zero_add]

/-! ### The look of every second shows what was not shown -/

/-- XU's look changes the transmit queue and the offer clocks alone. -/
theorem surplusLook_only_clocks (s : State) : ∃ lp xu, s.surplusLook = (s.setLp lp).setXu xu := by
  have offer (c : ItemCode) (t : State) (h : ∃ lp xu, t = (s.setLp lp).setXu xu) :
      ∃ lp xu, t.offerCode c = (s.setLp lp).setXu xu := by
    obtain ⟨lp, xu, rfl⟩ := h
    unfold State.offerCode State.transmit
    split
    · split <;> exact ⟨_, _, rfl⟩
    · exact ⟨_, _, rfl⟩
  have fold (cs : List ItemCode) (t : State) (h : ∃ lp xu, t = (s.setLp lp).setXu xu) :
      ∃ lp xu, cs.foldl (fun t c => if t.clockAllows c t.jc.setup.surplusHold then t.offerCode c else t) t
        = (s.setLp lp).setXu xu := by
    induction cs generalizing t with
    | nil => exact h
    | cons c cs ih =>
      refine ih _ ?_
      dsimp only
      split
      · exact offer c t h
      · exact h
  unfold State.surplusLook
  split
  · exact fold _ s ⟨s.lp, s.xu, rfl⟩
  · exact ⟨s.lp, s.xu, rfl⟩

/-- Settles O6: each command ends by sending what is left to show, or changes nothing that is shown. -/
theorem stepKeepsBounded : Obligations.StepKeepsBounded := by
  refine ⟨fun s t hs ht => (keepsTrue_step hs t ht).1, fun s t hs h ht => (keepsTrue_step hs t ht).2 h,
    fun s hs => ?_⟩
  obtain ⟨lp, xu, hlook⟩ := surplusLook_only_clocks s
  have hb : s.surplusLook.Bounded := hs.of (Steady.refl s).surplusLook
  refine ⟨s.surplusLook.flush, rfl, State.flush_panelTrue _ hb.slots hb.lamps, ?_, ?_, ?_, ?_, ?_⟩
  · rw [State.flush_su, hlook]; rfl
  · rw [State.flush_be, hlook]; rfl
  · rw [State.flush_pv, hlook]; rfl
  · rw [State.flush_hc, hlook]; rfl
  · have told := flush_tellsChanges s.surplusLook
    have pl : s.surplusLook.pl = s.pl := by rw [hlook]; rfl
    rw [pl] at told
    exact ⟨fun n id hn changed => (told.lamp n id hn).resolve_left changed,
      fun p changed => (told.position p).resolve_left changed⟩

end Sys2Proof.Proofs
end


section
/-! The step: the front command, the second of an empty queue, that every command goes on, and the
state power-on reset leaves. -/

namespace Sys2Proof.Proofs

open Sys2Proof.Machine

/-- Settles O1. -/
theorem stepRunsFrontCommand : Obligations.StepRunsFrontCommand := by
  intro s i rest h
  unfold step
  rw [h]

/-! ### The second of an empty queue -/

theorem step_of_idle {s : State} (h : s.pending = []) : step s = .next s.tick := by
  unfold step
  rw [h]

@[simp] theorem tick_lp (s : State) :
    s.tick.lp = { s.lp with suppression := s.lp.suppression.map (· - 1) } := by
  simp only [State.tick, State.counted, foldl_limitSecond]

@[simp] theorem tick_cu (s : State) : s.tick.cu = s.cu := by
  simp only [State.tick, State.counted, foldl_limitSecond]

@[simp] theorem tick_wf (s : State) : s.tick.wf = s.wf := by
  simp only [State.tick, State.counted, foldl_limitSecond]

@[simp] theorem tick_vu (s : State) : s.tick.vu = s.vu := by
  simp only [State.tick, State.counted, foldl_limitSecond]

theorem second_gathering {b : Build} (h : b.state = .gathering) :
    b.second.gatherLeft = b.gatherLeft.map (· - 1) ∧ b.second.lines = b.lines.map LineRec.second := by
  simp [Build.second, h]

theorem second_not_gathering {b : Build} (h : b.state ≠ .gathering) :
    b.second.gatherLeft = b.gatherLeft ∧ b.second.lines = b.lines := by
  simp only [Build.second, if_neg h]
  split <;> exact ⟨rfl, rfl⟩

/-- The put limit counts for a put that is neither suspended, FAULTED nor SETTLED (R81, R88, R89). -/
theorem limitRuns_iff (s : State) (p : Pos) (r : PutRec) : s.limitRuns p r = true ↔
    r.kind = .put ∧ s.hc.stopped = false ∧ (s.build p).state ≠ .held ∧ r.phase ≠ .faulted
      ∧ r.phase ≠ .settled := by
  by_cases hk : r.kind = .put
  · simp [State.limitRuns, State.judged, State.heldSuspends, hk, and_assoc]
  · simp [State.limitRuns, hk]

/-- Settles O2. -/
theorem idleSecondCounts : Obligations.IdleSecondCounts := by
  intro s idle
  refine ⟨s.tick, step_of_idle idle, by rw [tick_xu]; rfl, by rw [tick_xu]; rfl, by rw [tick_xu]; rfl,
    by rw [tick_xu]; rfl, by rw [tick_xu]; rfl, by rw [tick_jc]; rfl, tick_lp s, by rw [tick_jc]; rfl,
    by rw [tick_jc]; rfl, fun p => ⟨fun h => ?gathering, fun h => ?others⟩, fun p => ?limit, tick_hc s,
    tick_cu s, tick_wf s, tick_vu s, tick_pl s, ?look⟩
  case gathering => rw [tick_build]; exact second_gathering h
  case others => rw [tick_build]; exact second_not_gathering h
  case limit => simp only [tick_put, State.countedPut, limitRuns_iff]
  case look => simp [State.tick, State.dueOffers]

theorem second_exposures {b : Build} (h : b.state ≠ .sealed) : b.second.content.map (fun x => x.unit.exposure)
    = b.content.map (fun x => x.unit.exposure.map (fun e => min 65535 (e + 1))) := by
  rw [second_content, if_neg h, List.map_map]
  rfl

/-- Settles O3. -/
theorem exposureCounts : Obligations.ExposureCounts := by
  intro s idle
  refine ⟨s.tick, step_of_idle idle, fun i u age h => ?free, fun i u st h hst => ?others, fun p h => ?placed,
    fun p h => ?sealed, ?granted⟩
  case free => rw [tick_slot, h]; rfl
  case others =>
    rw [tick_slot, h]
    cases st with
    | free age => exact absurd rfl (hst age)
    | earmarked p l => rfl
    | putting p l => rfl
    | returned => rfl
  case placed => rw [tick_build]; exact second_exposures h
  case sealed => rw [tick_build, second_content, if_pos h]
  case granted => simp [Exchange.second, Function.comp_def]

/-! ### Every command goes on -/

/-- The command answers a next state. -/
def GoesOn (o : Host.Outcome State Fault Refusal) : Prop := ∃ t, o = .next t

theorem goesOn_finish (x : State) : GoesOn (finish x) := ⟨_, rfl⟩

theorem goesOn_next (x : State) : GoesOn (.next x) := ⟨_, rfl⟩

theorem goesOn_ite {c : Prop} [Decidable c] {x y : Host.Outcome State Fault Refusal} (hx : GoesOn x)
    (hy : GoesOn y) : GoesOn (if c then x else y) := by
  split
  · exact hx
  · exact hy

/-- A frame command goes on where what it does with the frame handed over does. -/
theorem goesOn_frame {s : State} {k : Kind} {o : Host.Outcome State Fault Refusal}
    {f : Handed → State → Host.Outcome State Fault Refusal} (hf : ∀ h u, GoesOn (f h u))
    (ho : o = match s.handOver k with
      | none => .next s
      | some (h, u) => f h u) : GoesOn o := by
  subst ho
  cases s.handOver k with
  | none => exact goesOn_next s
  | some x => exact hf x.1 x.2

section
variable (s : State)

theorem goesOn_powerOnReset (k : BitVec 5) (n b : BitVec 2) : GoesOn (execPowerOnReset k n b s) :=
  goesOn_ite (goesOn_finish _) (goesOn_finish _)

theorem goesOn_intakeScan (raw : RawLabel) : GoesOn (execIntakeScan raw s) := by
  unfold execIntakeScan
  split
  · exact goesOn_finish _
  · split <;> exact goesOn_finish _

theorem goesOn_chuteScan (raw : RawLabel) : GoesOn (execChuteScan raw s) := by
  unfold execChuteScan
  split
  · exact goesOn_finish _
  · split <;> exact goesOn_finish _

theorem goesOn_confirm (p : Pos) : GoesOn (execConfirm p s) := by
  unfold execConfirm
  refine goesOn_ite (goesOn_finish _) ?_
  split <;> exact goesOn_finish _

theorem goesOn_reject (p : Pos) : GoesOn (execReject p s) := by
  unfold execReject
  refine goesOn_ite (goesOn_finish _) ?_
  split
  · exact goesOn_finish _
  · split
    · exact goesOn_ite (goesOn_finish _) (goesOn_finish _)
    · exact goesOn_finish _

theorem goesOn_resume (p : Pos) : GoesOn (execResume p s) := by
  unfold execResume
  refine goesOn_ite (goesOn_finish _) ?_
  split
  · exact goesOn_ite (goesOn_finish _) (goesOn_finish _)
  · exact goesOn_finish _

theorem goesOn_undo (p : Pos) : GoesOn (execUndo p s) := by
  unfold execUndo
  refine goesOn_ite (goesOn_finish _) ?_
  split
  · exact goesOn_ite (goesOn_finish _) (goesOn_finish _)
  · exact goesOn_finish _

theorem goesOn_abandon (p : Pos) : GoesOn (execAbandon p s) := by
  unfold execAbandon
  refine goesOn_ite (goesOn_finish _) ?_
  split
  · exact goesOn_ite (goesOn_finish _) (goesOn_finish _)
  · exact goesOn_finish _

theorem goesOn_chillExpiry (n : UnitNo) : GoesOn (execChillExpiry n s) := by
  unfold execChillExpiry
  split
  · split
    · exact goesOn_ite (goesOn_finish _) (goesOn_next _)
    · exact goesOn_next _
  · split
    · exact goesOn_finish _
    · exact goesOn_next _

theorem goesOn_surplusReached (n : UnitNo) : GoesOn (execSurplusReached n s) := by
  unfold execSurplusReached
  split
  · exact goesOn_next _
  · split
    · exact goesOn_ite (goesOn_finish _) (goesOn_next _)
    · exact goesOn_next _

theorem goesOn_putTimeout (p : Pos) : GoesOn (execPutTimeout p s) := by
  unfold execPutTimeout
  split
  · exact goesOn_next _
  · exact goesOn_ite (goesOn_finish _) (goesOn_next _)

theorem goesOn_askWaitExpiry (p : Pos) (line : Nat) : GoesOn (execAskWaitExpiry p line s) := by
  unfold execAskWaitExpiry
  split
  · exact goesOn_ite (goesOn_finish _) (goesOn_next _)
  · exact goesOn_next _

theorem goesOn_transferLimit (k : Station) (n : Seq) : GoesOn (execTransferLimit k n s) := by
  unfold execTransferLimit
  split
  · exact goesOn_ite (goesOn_finish _) (goesOn_next _)
  · exact goesOn_next _

theorem goesOn_writeOff (n : Seq) : GoesOn (execWriteOff n s) := by
  unfold execWriteOff
  split
  · exact goesOn_ite (goesOn_finish _) (goesOn_next _)
  · exact goesOn_next _

theorem goesOn_frameReceive (bytes : List Byte) : GoesOn (execFrameReceive bytes s) := by
  unfold execFrameReceive
  split
  · exact goesOn_finish _
  · exact goesOn_next _

theorem goesOn_contention (stage : ContentionStage) : GoesOn (execContention stage s) := by
  unfold execContention
  split
  · exact goesOn_next _
  · split
    · exact goesOn_next _
    · exact goesOn_ite (goesOn_next _) (goesOn_ite (goesOn_finish _) (goesOn_next _))

theorem goesOn_contentionFault : GoesOn (execContentionFault s) := by
  unfold execContentionFault
  split
  · exact goesOn_next _
  · exact goesOn_ite (goesOn_finish _) (goesOn_finish _)

theorem goesOn_ownFrameComplete : GoesOn (execOwnFrameComplete s) := by
  unfold execOwnFrameComplete
  split
  · exact goesOn_next _
  · exact goesOn_finish _

theorem goesOn_notice : GoesOn (execNotice s) := by
  refine goesOn_frame (s := s) (k := .notice) (fun h u => ?_) rfl
  split
  · split <;> exact goesOn_finish _
  · exact goesOn_finish _

theorem goesOn_claim : GoesOn (execClaim s) := by
  refine goesOn_frame (s := s) (k := .claim) (fun h u => ?_) rfl
  split <;> exact goesOn_finish _

theorem goesOn_prior : GoesOn (execPrior s) := by
  refine goesOn_frame (s := s) (k := .prior) (fun h u => ?_) rfl
  split
  · exact goesOn_ite (goesOn_finish _) (goesOn_finish _)
  · exact goesOn_finish _

theorem goesOn_release : GoesOn (execRelease s) := by
  refine goesOn_frame (s := s) (k := .release) (fun h u => ?_) rfl
  split <;> exact goesOn_finish _

theorem goesOn_done : GoesOn (execDone s) := by
  refine goesOn_frame (s := s) (k := .done) (fun h u => ?_) rfl
  split <;> exact goesOn_finish _

theorem goesOn_offer : GoesOn (execOffer s) := by
  refine goesOn_frame (s := s) (k := .offer) (fun h u => ?_) rfl
  split
  · exact goesOn_ite (goesOn_finish _) (goesOn_finish _)
  · exact goesOn_finish _

theorem goesOn_want : GoesOn (execWant s) := by
  refine goesOn_frame (s := s) (k := .want) (fun h u => ?_) rfl
  split
  · exact goesOn_ite (goesOn_finish _) (goesOn_finish _)
  · exact goesOn_finish _

theorem goesOn_ask : GoesOn (execAsk s) := by
  refine goesOn_frame (s := s) (k := .ask) (fun h u => ?_) rfl
  split
  · exact goesOn_ite (goesOn_finish _) (goesOn_finish _)
  · exact goesOn_finish _

theorem goesOn_grant : GoesOn (execGrant s) := by
  refine goesOn_frame (s := s) (k := .grant) (fun h u => ?_) rfl
  split
  · exact goesOn_ite (goesOn_finish _) (goesOn_finish _)
  · exact goesOn_finish _

theorem goesOn_taken : GoesOn (execTaken s) := by
  refine goesOn_frame (s := s) (k := .taken) (fun h u => ?_) rfl
  split
  · exact goesOn_ite (goesOn_finish _) (goesOn_finish _)
  · exact goesOn_finish _

theorem goesOn_roll : GoesOn (execRoll s) := by
  refine goesOn_frame (s := s) (k := .roll) (fun h u => ?_) rfl
  split
  · exact goesOn_ite (goesOn_finish _) (goesOn_finish _)
  · exact goesOn_finish _

theorem goesOn_setup : GoesOn (execSetup s) := by
  refine goesOn_frame (s := s) (k := .setup) (fun h u => ?_) rfl
  split
  · exact goesOn_ite (goesOn_finish _) (goesOn_finish _)
  · exact goesOn_finish _

theorem goesOn_halt : GoesOn (execHalt s) := by
  refine goesOn_frame (s := s) (k := .halt) (fun h u => ?_) rfl
  split
  · exact goesOn_ite (goesOn_finish _) (goesOn_finish _)
  · exact goesOn_finish _

theorem goesOn_go : GoesOn (execGo s) := by
  refine goesOn_frame (s := s) (k := .go) (fun h u => ?_) rfl
  split
  · exact goesOn_ite (goesOn_finish _) (goesOn_finish _)
  · exact goesOn_finish _

theorem goesOn_takeKey (p : Pos) (action : Nat) : GoesOn (takeKey p action s) := by
  unfold takeKey
  split
  · exact goesOn_confirm s p
  · exact goesOn_reject s p
  · exact goesOn_resume s p
  · exact goesOn_undo s p
  · exact goesOn_abandon s p
  · exact goesOn_next _

theorem goesOn_takeRecord (r : PanelIn) : GoesOn (takeRecord r s) := by
  unfold takeRecord
  split
  · exact goesOn_intakeScan _ _
  · exact goesOn_chuteScan _ _
  · exact goesOn_takeKey _ _ _
  · exact goesOn_ite (goesOn_next _) (goesOn_finish _)
  · exact goesOn_next _
  · exact goesOn_finish _

theorem goesOn_takeByte (b : Byte) : GoesOn (takeByte b s) := by
  unfold takeByte
  extract_lets
  split
  extract_lets
  split
  · exact goesOn_next _
  · exact goesOn_takeRecord _ _

end

theorem goesOn_takeBytes (bytes : List Byte) (s : State) : GoesOn (takeBytes bytes s) := by
  induction bytes generalizing s with
  | nil => exact goesOn_next s
  | cons b bs ih =>
    obtain ⟨u, hu⟩ := goesOn_takeByte s b
    rw [takeBytes, hu]
    exact ih u

/-- Settles O4. -/
theorem everyCommandGoesOn : Obligations.EveryCommandGoesOn := by
  intro c s
  show GoesOn (exec c s)
  cases c with
  | powerOnReset k n b => exact goesOn_powerOnReset s k n b
  | benchReset => exact goesOn_finish _
  | intakeScan raw => exact goesOn_intakeScan s raw
  | chuteScan raw => exact goesOn_chuteScan s raw
  | confirm p => exact goesOn_confirm s p
  | reject p => exact goesOn_reject s p
  | resume p => exact goesOn_resume s p
  | undo p => exact goesOn_undo s p
  | abandon p => exact goesOn_abandon s p
  | stopAsserted => exact goesOn_ite (goesOn_next _) (goesOn_finish _)
  | stopReleased => exact goesOn_next _
  | panelRecordTimeout => exact goesOn_next _
  | sweep readings => exact goesOn_finish _
  | slotReserved => exact goesOn_finish _
  | putTimeout p => exact goesOn_putTimeout s p
  | exactWaitExpiry p line => exact goesOn_ite (goesOn_finish _) (goesOn_next _)
  | gatherLimitExpiry p => exact goesOn_ite (goesOn_finish _) (goesOn_next _)
  | chillExpiry n => exact goesOn_chillExpiry s n
  | surplusReached n => exact goesOn_surplusReached s n
  | offerSecondLook => exact goesOn_finish _
  | wantRetry => exact goesOn_finish _
  | askWaitExpiry p line => exact goesOn_askWaitExpiry s p line
  | offerEntryAged k c => exact goesOn_next _
  | transferLimit k n => exact goesOn_transferLimit s k n
  | writeOff n => exact goesOn_writeOff s n
  | suppressionExpiry => exact goesOn_ite (goesOn_finish _) (goesOn_next _)
  | joinLimitExpiry => exact goesOn_ite (goesOn_finish _) (goesOn_next _)
  | rollPeriodExpiry => exact goesOn_ite (goesOn_finish _) (goesOn_next _)
  | rollRetry => exact goesOn_ite (goesOn_finish _) (goesOn_next _)
  | peerAbsent k => exact goesOn_ite (goesOn_next _) (goesOn_next _)
  | frameReceive bytes => exact goesOn_frameReceive s bytes
  | contention stage => exact goesOn_contention s stage
  | contentionFault => exact goesOn_contentionFault s
  | ownFrameComplete => exact goesOn_ownFrameComplete s
  | txSpaceGrant => exact goesOn_finish _
  | notice => exact goesOn_notice s
  | claim => exact goesOn_claim s
  | prior => exact goesOn_prior s
  | release => exact goesOn_release s
  | done => exact goesOn_done s
  | offer => exact goesOn_offer s
  | want => exact goesOn_want s
  | ask => exact goesOn_ask s
  | askServe => exact goesOn_finish _
  | grant => exact goesOn_grant s
  | taken => exact goesOn_taken s
  | roll => exact goesOn_roll s
  | setup => exact goesOn_setup s
  | halt => exact goesOn_halt s
  | go => exact goesOn_go s
  | outboundRecordSent => exact goesOn_next _
  | panelRecordDiscarded bytes => exact goesOn_takeBytes bytes s

/-! ### Power-on reset -/

theorem reset_bounded : State.reset.Bounded := by
  constructor <;> decide +kernel

theorem reset_shownTrue : State.reset.ShownTrue where
  lamp := by decide +kernel
  record p _ := by cases p <;> decide +kernel

/-- Settles O5. -/
theorem resetIsBounded : Obligations.ResetIsBounded :=
  ⟨reset_bounded, reset_shownTrue.panelTrue reset_bounded.slots⟩

/-- The same state with another queue of commands. -/
def State.queued (s : State) (q : List Instr) : State := { s with pending := q }

theorem fillOne_queued (s : State) (q : List Instr) :
    (State.queued s q).fillOne = State.queued s.fillOne q := by
  have positions : (State.queued s q).pl = s.pl := rfl
  have lamps : (State.queued s q).lampValues = s.lampValues := rfl
  unfold State.fillOne
  rw [positions, lamps]
  split
  · rfl
  · split
    · rfl
    · split <;> rfl

theorem fillOwed_queued (n : Nat) (s : State) (q : List Instr) :
    State.fillOwed n (State.queued s q) = State.queued (State.fillOwed n s) q := by
  induction n generalizing s with
  | zero => rfl
  | succ n ih =>
    rw [State.fillOwed, State.fillOwed, fillOne_queued, ih]
    show (if s.pl.buffer.length < Config.maxPanel then _ else _) = _
    split <;> rfl

theorem showPosition_queued (s : State) (q : List Instr) (p : Pos) :
    (State.queued s q).showPosition p = State.queued (s.showPosition p) q := by
  unfold State.showPosition
  show (if (s.isFitted p && decide (s.posShow p ≠ (s.pl.positions.get p).shown)) = true then _ else _) = _
  split <;> rfl

theorem flush_queued (s : State) (q : List Instr) : (State.queued s q).flush = State.queued s.flush q := by
  unfold State.flush
  simp only [Pos.all, List.foldl_cons, List.foldl_nil, showPosition_queued]
  rfl

/-- Settles O7: what waits in the queue is kept and changes nothing else. -/
theorem resetIsPowerOnReset : Obligations.ResetIsPowerOnReset := by
  intro s
  have cleared : s.cleared 1#5 3#2 0#2 = State.queued (State.reset.cleared 1#5 3#2 0#2) s.pending := rfl
  have roll : (s.cleared 1#5 3#2 0#2).offerRoll true
      = State.queued ((State.reset.cleared 1#5 3#2 0#2).offerRoll true) s.pending := by
    rw [cleared]; rfl
  have value : (State.fillOwed Config.maxPanel ((State.reset.cleared 1#5 3#2 0#2).offerRoll true)).flush
      = State.reset := by decide +kernel
  show finish (State.fillOwed Config.maxPanel ((s.cleared 1#5 3#2 0#2).offerRoll true)) = _
  rw [roll, finish, fillOwed_queued, flush_queued, value]
  rfl

/-! ### Owed items fill the buffer after a reset (R212) -/

/-- The SHELF lamps from a place on are all owed. -/
def OwesFrom (s : State) (k : Nat) : Prop :=
  ∀ i, k ≤ i → i < 50 → ∃ c, s.pl.lamps[i]? = some c ∧ c.owed = true

theorem fillOne_grows {s : State} (hs : s.su.slots.length = 48) {k : Nat} (hk : k < 50) (h : OwesFrom s k) :
    s.fillOne.pl.buffer.length = s.pl.buffer.length + 1 ∧ OwesFrom s.fillOne (k + 1) := by
  unfold State.fillOne
  split
  next p _ => exact ⟨by simp, fun i hi => h i (by omega)⟩
  next =>
    obtain ⟨c, hc, ho⟩ := h k le_rfl hk
    split
    next hnone => exact absurd ho (by simpa using List.findIdx?_eq_none_iff.1 hnone c (List.mem_of_getElem? hc))
    next i hi =>
      obtain ⟨hlt, _, before⟩ := List.findIdx?_eq_some_iff_getElem.1 hi
      have hik : i ≤ k := by
        by_contra hcon
        have := before k (by omega)
        obtain ⟨hk', rfl⟩ := List.getElem?_eq_some_iff.1 hc
        exact this ho
      have hid : i < LampId.all.length := lt_of_lt_of_le (show i < 50 by omega) (by decide)
      have hv : i < s.lampValues.length := by rw [s.lampValues_length hs]; omega
      rw [List.getElem?_eq_getElem hid, List.getElem?_eq_getElem hv]
      refine ⟨by simp, fun j hj hj50 => ?_⟩
      obtain ⟨c', hc', ho'⟩ := h j (by omega) hj50
      exact ⟨c', by simp [updateAt_getElem?, show j ≠ i by omega, hc'], ho'⟩

theorem fillOwed_fills {n k : Nat} {s : State} (hs : s.su.slots.length = 48) (hk : k + n ≤ 50)
    (h : OwesFrom s k) (hb : s.pl.buffer.length + n = 16) :
    (State.fillOwed n s).pl.buffer.length = 16 := by
  induction n generalizing k s with
  | zero => exact hb
  | succ n ih =>
    obtain ⟨grows, owes⟩ := fillOne_grows hs (by omega) h
    have slots : s.fillOne.su.slots.length = 48 := by
      obtain ⟨v, hv⟩ := fillOne_only_pl s
      rw [hv]; exact hs
    rw [State.fillOwed, if_pos (show s.pl.buffer.length < Config.maxPanel by simp only [Config.maxPanel]; omega)]
    exact ih slots (by omega) owes (by omega)

/-- In a full buffer the reports-lost mark stays. -/
theorem showPosition_full {s : State} (h : 16 ≤ s.pl.buffer.length) (p : Pos) :
    (s.showPosition p).pl.reportsLost = s.pl.reportsLost ∧ 16 ≤ (s.showPosition p).pl.buffer.length := by
  unfold State.showPosition
  split
  · simp only [State.setPl_pl]
    unfold Panel.sendPosition
    extract_lets cell
    split
    · exact ⟨rfl, by simpa using h⟩
    · split
      · exact ⟨rfl, h⟩
      · rw [if_neg (by simp only [Config.maxPanel]; omega)]
        exact ⟨rfl, h⟩
  · exact ⟨rfl, h⟩

theorem sendLamp_reportsLost (pl : Panel) (i : Nat) (id : LampId) (v : LampShow) :
    (pl.sendLamp i id v).reportsLost = pl.reportsLost := by
  unfold Panel.sendLamp
  extract_lets owed
  split
  · rfl
  · split
    · rfl
    · split <;> rfl

theorem sendLamps_reportsLost (n : Nat) (ids : List LampId) (vs : List LampShow) (cs : List LampCell)
    (pl : Panel) : (Panel.sendLamps n ids vs cs pl).reportsLost = pl.reportsLost := by
  induction ids generalizing n vs cs pl with
  | nil => cases vs <;> cases cs <;> rfl
  | cons id ids ih =>
    cases vs with
    | nil => rfl
    | cons v vs =>
      cases cs with
      | nil => rfl
      | cons c cs =>
        rw [Panel.sendLamps, ih]
        split
        · rfl
        · exact sendLamp_reportsLost ..

theorem flush_reportsLost_full {s : State} (h : 16 ≤ s.pl.buffer.length) :
    s.flush.pl.reportsLost = s.pl.reportsLost := by
  have shown (ps : List Pos) (t : State) (ht : 16 ≤ t.pl.buffer.length) :
      (ps.foldl State.showPosition t).pl.reportsLost = t.pl.reportsLost := by
    induction ps generalizing t with
    | nil => rfl
    | cons p ps ih =>
      obtain ⟨lost, full⟩ := showPosition_full ht p
      exact (ih _ full).trans lost
  exact (sendLamps_reportsLost ..).trans (shown Pos.all s h)

theorem sendReport_full {pl : Panel} (h : 16 ≤ pl.buffer.length) (r : PanelOut) :
    (pl.sendReport r).reportsLost = true ∧ 16 ≤ (pl.sendReport r).buffer.length := by
  rw [Panel.sendReport, if_pos (.inl h)]
  exact ⟨rfl, h⟩

theorem owesFrom_cleared (s : State) (k : BitVec 5) (n b : BitVec 2) : OwesFrom (s.cleared k n b) 0 := by
  intro i _ hi
  refine ⟨⟨.dark, true⟩, ?_, rfl⟩
  simp only [State.cleared, Panel.allOwed]
  rw [List.append_assoc, List.getElem?_append_left (by simpa using hi), List.getElem?_replicate, if_pos hi]

theorem fillOwed_cleared_full (s : State) (k : BitVec 5) (n b : BitVec 2) :
    (State.fillOwed Config.maxPanel (s.cleared k n b)).pl.buffer.length = 16 :=
  fillOwed_fills (State.cleared_bounded s k n b).slots (by decide) (owesFrom_cleared s k n b) rfl

/-- Owed items that fill the buffer change the panel link alone. -/
theorem fillOwed_only_pl (n : Nat) (s : State) : ∃ v, State.fillOwed n s = s.setPl v :=
  (fillOwed_shownOrTrue n s).only_pl

/-- Settles O8: with a bench number JC offers its ROLL to an empty queue; without one the sixteen owed
items leave no room for NUMBER_CLASH. -/
theorem powerOnSamplesStraps : Obligations.PowerOnSamplesStraps := by
  intro k n b s
  refine ⟨fun h1 h28 => ?joining, fun h => ?isolated⟩
  case joining =>
    have bench : (decide (1 ≤ k.toNat) && decide (k.toNat ≤ 28)) = true := by simp [h1, h28]
    have offered : (s.cleared k n b).offerRoll true = (s.cleared k n b).setLp
        { LinePort.reset with queue := [.roll true (BitVec.ofNat 8 (n.toNat + 1))] } := by
      simp [State.offerRoll, State.accepts3, State.isolated, State.cleared, Join.powerOn, h1, h28,
        LinePort.reset, LinePort.hasSpace, LinePort.places, LinePort.unstarted, LinePort.class3, State.anyWaiting,
        HoldCtl.reset, Exchange.reset, Config.maxQueue, Config.maxClass3, State.transmit, LinePort.enqueue,
        insertBy, State.setLp, State.setJc]
    obtain ⟨v, hv⟩ := fillOwed_only_pl Config.maxPanel ((s.cleared k n b).offerRoll true)
    refine ⟨_, if_neg (by simp [State.isolated, State.cleared, Join.powerOn, bench]), ?_⟩
    rw [hv, offered]
    simp [State.cleared, Join.powerOn, h1, h28, Config.joinLimit]
  case isolated =>
    have bench : (decide (1 ≤ k.toNat) && decide (k.toNat ≤ 28)) = false := by
      rw [Bool.and_eq_false_iff, decide_eq_false_iff_not, decide_eq_false_iff_not]
      omega
    obtain ⟨v, hv⟩ := fillOwed_only_pl Config.maxPanel (s.cleared k n b)
    obtain ⟨lost, full⟩ := sendReport_full (fillOwed_cleared_full s k n b).ge
      (.report BenchReport.numberClash.code none none 3)
    refine ⟨_, if_pos (by simp [State.isolated, State.cleared, Join.powerOn, bench]), ?_, ?_, ?_, ?_, ?_, ?_, ?_, ?_⟩
    case refine_8 => exact (flush_reportsLost_full full).trans lost
    all_goals rw [hv]; simp [State.cleared, Join.powerOn, bench]

end Sys2Proof.Proofs
end


section
/-! Commands of a few branches: what is handed over, refused scans and keys, receiving and contention,
ROLL, and the exchange's frames that touch one list. -/

namespace Sys2Proof.Proofs

open Sys2Proof.Machine

/-! ### What is handed over -/

/-- A frame handed over leaves the hand-over sequence and may refresh its sender; nothing else changes. -/
theorem handOver_eq {s u : State} {k : Kind} {h : Handed} (hh : s.handOver k = some (h, u)) :
    h.kind = k ∧ ∃ rest peers,
      u = (s.setLp { s.lp with handover := rest }).setJc { s.jc with peers := peers } := by
  unfold State.handOver at hh
  split at hh
  next x rest _ =>
    split at hh
    next hk =>
      obtain ⟨rfl, rfl⟩ := by simpa using hh
      refine ⟨hk, rest, ?_⟩
      split
      · exact ⟨s.jc.peers, rfl⟩
      · exact ⟨_, rfl⟩
    next => simp at hh
  next => simp at hh

/-- The state a command that ends in `finish` leaves, but for the panel link. -/
theorem flush_setPl_eq (x : State) (w : Panel) : x.flush.setPl w = x.setPl w := by simp

/-- A command that only finishes the state a frame was handed over in. -/
theorem finish_handed {s u : State} {k : Kind} {h : Handed} (hh : s.handOver k = some (h, u)) :
    ∃ t, finish u = .next t ∧ t.setPl s.pl = u := by
  obtain ⟨-, rest, peers, rfl⟩ := handOver_eq hh
  exact ⟨_, rfl, flush_setPl_eq _ _⟩

/-! ### Refused scans (R2, R8, R12) -/

theorem refuseIntake_setPl (s : State) (r : BenchReport) (v : Nat) :
    (s.refuseIntake r v).setPl s.pl = s.setSu { s.su with intakeLamp := .red, amberSlot := none } := by
  obtain ⟨w, hw⟩ := s.benchReport_only_pl r none v
  unfold State.refuseIntake
  rw [hw]
  rfl

theorem refuseChute_setPl (s : State) (r : BenchReport) (v : Nat) :
    (s.refuseChute r v).setPl s.pl = s.setSu { s.su with chuteLamp := .red } := by
  obtain ⟨w, hw⟩ := s.benchReport_only_pl r none v
  unfold State.refuseChute
  rw [hw]
  rfl

theorem execIntakeScan_badLabel {raw : RawLabel} {field : Nat} (h : checkLabel raw = .error field) (s : State) :
    exec (.intakeScan raw) s = finish (s.refuseIntake .badLabel field) := by
  show execIntakeScan raw s = _
  rw [execIntakeScan, h]

theorem execIntakeScan_tableFull {raw : RawLabel} {l : Label} (h : checkLabel raw = .ok l) {s : State}
    (hs : s.su.lowestEmpty = none) :
    exec (.intakeScan raw) s = finish (s.refuseIntake .tableFull l.code.word) := by
  show execIntakeScan raw s = _
  simp only [execIntakeScan, h, hs]

theorem execIntakeScan_enters {raw : RawLabel} {l : Label} (h : checkLabel raw = .ok l) {s : State} {i : Nat}
    (hs : s.su.lowestEmpty = some i) : exec (.intakeScan raw) s = finish (s.enterUnit i l) := by
  show execIntakeScan raw s = _
  simp only [execIntakeScan, h, hs]

theorem execChuteScan_badLabel {raw : RawLabel} {field : Nat} (h : checkLabel raw = .error field) (s : State) :
    exec (.chuteScan raw) s = finish (s.refuseChute .badLabel field) := by
  show execChuteScan raw s = _
  rw [execChuteScan, h]

theorem execChuteScan_refused {raw : RawLabel} {l : Label} (h : checkLabel raw = .ok l) {s : State}
    (hs : s.chuteChoice l.code = none) :
    exec (.chuteScan raw) s = finish (s.refuseChute .refused l.code.word) := by
  show execChuteScan raw s = _
  simp only [execChuteScan, h, hs]

theorem execChuteScan_removes {raw : RawLabel} {l : Label} (h : checkLabel raw = .ok l) {s : State} {i : Nat}
    (hs : s.chuteChoice l.code = some i) : exec (.chuteScan raw) s = finish (s.chuteRemove i) := by
  show execChuteScan raw s = _
  simp only [execChuteScan, h, hs]

/-- Settles O10. -/
theorem refusedScansTurnLampRed : Obligations.RefusedScansTurnLampRed := by
  refine fun raw s => ⟨fun h => ?intake, fun h => ?chute⟩
  case intake =>
    cases hl : checkLabel raw with
    | error field =>
      exact ⟨_, execIntakeScan_badLabel hl s, (flush_setPl_eq _ _).trans (refuseIntake_setPl ..)⟩
    | ok l =>
      have full : s.su.lowestEmpty = none := h.resolve_left (by simp [hl])
      exact ⟨_, execIntakeScan_tableFull hl full, (flush_setPl_eq _ _).trans (refuseIntake_setPl ..)⟩
  case chute =>
    cases hl : checkLabel raw with
    | error field =>
      exact ⟨_, execChuteScan_badLabel hl s, (flush_setPl_eq _ _).trans (refuseChute_setPl ..)⟩
    | ok l =>
      obtain ⟨field, hf⟩ | ⟨l', hl', none⟩ := h
      · simp [hl] at hf
      · exact ⟨_, execChuteScan_refused hl' none, (flush_setPl_eq _ _).trans (refuseChute_setPl ..)⟩

/-! ### Refused keys (R172, R173) -/

theorem refuseKey_only_pl (s : State) (p : Pos) (n : Nat) :
    ∃ t, s.refuseKey p n = .next t ∧ t.setPl s.pl = s := by
  obtain ⟨v, hv⟩ := s.benchReport_only_pl .refused (some p) n
  refine ⟨_, rfl, (flush_setPl_eq _ _).trans ?_⟩
  rw [hv]
  rfl

theorem keysShut_iff (s : State) (p : Pos) :
    s.keysShut p = true ↔ s.hc.stopped = true ∨ s.isFitted p = false := by
  simp [State.keysShut]

theorem keyHold_of_not_held {s : State} {p : Pos} (h : (s.build p).state ≠ .held) : s.keyHold p = none :=
  if_neg h

theorem keyHold_of_held {s : State} {p : Pos} (h : (s.build p).state = .held) : s.keyHold p = s.hold p :=
  if_pos h

theorem keyHoldOpen_of_keyHold_none {s : State} {p : Pos} (h : s.keyHold p = none) : s.keyHoldOpen p = none := by
  rw [State.keyHoldOpen, h]

theorem keyHoldOpen_eq {s : State} {p : Pos} {h : Hold} (hk : s.keyHold p = some h) :
    s.keyHoldOpen p = if h.resolving = .none then some h else none := by
  rw [State.keyHoldOpen, hk]

theorem keyPut_of_held {s : State} {p : Pos} (h : (s.build p).state = .held) : s.keyPut p = none :=
  if_neg (by rw [h]; decide)

theorem keyHoldOpen_eq_some_iff {s : State} {p : Pos} {h : Hold} :
    s.keyHoldOpen p = some h ↔ (s.build p).state = .held ∧ s.hold p = some h ∧ h.resolving = .none := by
  unfold State.keyHoldOpen State.keyHold
  by_cases hh : (s.build p).state = .held
  · rw [if_pos hh]
    cases s.hold p with
    | none => simp
    | some x =>
      simp only [Option.some.injEq]
      by_cases hr : x.resolving = .none
      · simp only [if_pos hr, Option.some.injEq, hh, true_and]
        exact ⟨fun e => ⟨e, e ▸ hr⟩, fun e => e.1⟩
      · simp only [if_neg hr, hh, true_and]
        exact ⟨fun e => absurd e (by simp), fun e => absurd (e.1 ▸ e.2) hr⟩
  · simp [hh]

/-- In a state that refuses a key by its hold or its build, what the key looks for is not there. -/
theorem keyHoldOpen_refuses {s : State} {p : Pos} {n : Nat} (h3 : 3 ≤ n) (h : s.RefusesKey p n)
    (hs : s.keysShut p = false) {x : Hold} (hx : s.keyHoldOpen p = some x) : s.HoldRefuses p x n := by
  obtain ⟨held, hold, -⟩ := keyHoldOpen_eq_some_iff.1 hx
  rw [← Bool.not_eq_true, keysShut_iff, not_or] at hs
  obtain stopped | fitted | ⟨-, rfl | ⟨y, hy, refuses⟩⟩ | ⟨not_held, -⟩ := h
  · exact absurd stopped hs.1
  · exact absurd fitted hs.2
  · omega
  · rw [hold] at hy
    obtain rfl := Option.some.inj hy
    exact refuses
  · exact absurd held not_held

theorem confirm_refused {s : State} {p : Pos} (h : s.RefusesKey p 1) :
    exec (.confirm p) s = s.refuseKey p 1 := by
  show execConfirm p s = _
  unfold execConfirm
  by_cases hs : s.keysShut p = true
  · rw [if_pos hs]
  · rw [if_neg hs]
    have none : s.keyPut p = none := by
      rw [keysShut_iff, not_or] at hs
      obtain stopped | fitted | ⟨held, -⟩ | ⟨-, h3 | none⟩ := h
      · exact absurd stopped hs.1
      · exact absurd fitted hs.2
      · exact keyPut_of_held held
      · omega
      · exact none
    rw [none]

theorem rejectAccepted_iff (c : Cause) (next : SavedState) : rejectAccepted c next = true ↔
    next ≠ .unloading ∧ c ∈ [Cause.scaleOverrange, .putRemoved, .putMismatch, .putTimeout] := by
  cases c <;> simp [rejectAccepted]

theorem resumeAccepted_iff (c : Cause) (next : SavedState) : resumeAccepted c next = true ↔
    c ∉ [Cause.chillExpired, .orderGone, .planFull, .overweight]
      ∧ (next = .unloading → c ∈ [Cause.scaleOverrange, .putMismatch]) := by
  cases c <;> simp [resumeAccepted]

theorem undoAccepted_iff (c : Cause) (next : SavedState) : undoAccepted c next = true ↔
    next ≠ .unloading
      ∧ c ∈ [Cause.overweight, .invalid, .clamped, .bandLow, .bandHigh, .inexact, .gatherLate] := by
  cases c <;> simp [undoAccepted]

theorem abandonAccepted_iff (c : Cause) (next : SavedState) : abandonAccepted c next = true ↔
    next ≠ .unloading ∨ c = .orderGone := by
  simp [abandonAccepted]

theorem reject_refused {s : State} {p : Pos} (h : s.RefusesKey p 2) :
    exec (.reject p) s = s.refuseKey p 2 := by
  show execReject p s = _
  unfold execReject
  by_cases hs : s.keysShut p = true
  · rw [if_pos hs]
  · rw [if_neg hs]
    rw [keysShut_iff, not_or] at hs
    obtain stopped | fitted | ⟨held, h1 | ⟨x, hx, refuses⟩⟩ | ⟨not_held, h3 | none⟩ := h
    · exact absurd stopped hs.1
    · exact absurd fitted hs.2
    · omega
    · rw [keyPut_of_held held, keyHoldOpen_eq ((keyHold_of_held held).trans hx)]
      by_cases hr : x.resolving = .none
      · rw [if_pos hr]
        have : rejectAccepted x.primary.cause x.next = false := by
          rw [← Bool.not_eq_true, rejectAccepted_iff]
          rintro ⟨hn, hc⟩
          obtain ⟨-, open_⟩ | ⟨-, unloading | cause⟩ | ⟨h, -⟩ | ⟨h, -⟩ | ⟨h, -⟩ := refuses
          · exact open_ hr
          · exact hn unloading
          · exact cause hc
          all_goals omega
        simp [this]
      · rw [if_neg hr]
    · omega
    · rw [none, keyHoldOpen_of_keyHold_none (keyHold_of_not_held not_held)]

theorem resume_refused {s : State} {p : Pos} (h : s.RefusesKey p 3) :
    exec (.resume p) s = s.refuseKey p 3 := by
  show execResume p s = _
  unfold execResume
  by_cases hs : s.keysShut p = true
  · rw [if_pos hs]
  · rw [if_neg hs]
    cases hx : s.keyHoldOpen p with
    | none => rfl
    | some x =>
      have : resumeAccepted x.primary.cause x.next = false := by
        rw [← Bool.not_eq_true, resumeAccepted_iff]
        rintro ⟨hc, hn⟩
        obtain ⟨-, resolving⟩ | ⟨h, -⟩ | ⟨-, cause | ⟨unloading, cause⟩⟩ | ⟨h, -⟩ | ⟨h, -⟩ :=
          keyHoldOpen_refuses le_rfl h (by simpa using hs) hx
        · exact resolving (keyHoldOpen_eq_some_iff.1 hx).2.2
        · omega
        · exact hc cause
        · exact cause (hn unloading)
        all_goals omega
      simp [this]

theorem undo_refused {s : State} {p : Pos} (h : s.RefusesKey p 4) :
    exec (.undo p) s = s.refuseKey p 4 := by
  show execUndo p s = _
  unfold execUndo
  by_cases hs : s.keysShut p = true
  · rw [if_pos hs]
  · rw [if_neg hs]
    cases hx : s.keyHoldOpen p with
    | none => rfl
    | some x =>
      have : ¬ (undoAccepted x.primary.cause x.next && !(s.build p).content.isEmpty
          && (s.put p).isNone) = true := by
        rw [Bool.and_eq_true, Bool.and_eq_true, undoAccepted_iff]
        rintro ⟨⟨⟨hn, hc⟩, filled⟩, idle⟩
        obtain ⟨-, resolving⟩ | ⟨h, -⟩ | ⟨h, -⟩ | ⟨-, unloading | empty | pending | cause⟩ | ⟨h, -⟩ :=
          keyHoldOpen_refuses (by omega) h (by simpa using hs) hx
        · exact resolving (keyHoldOpen_eq_some_iff.1 hx).2.2
        · omega
        · omega
        · exact hn unloading
        · simp [empty] at filled
        · rw [Option.isNone_iff_eq_none] at idle
          simp [idle] at pending
        · exact cause hc
        · omega
      simp only [if_neg this]

theorem abandon_refused {s : State} {p : Pos} (h : s.RefusesKey p 5) :
    exec (.abandon p) s = s.refuseKey p 5 := by
  show execAbandon p s = _
  unfold execAbandon
  by_cases hs : s.keysShut p = true
  · rw [if_pos hs]
  · rw [if_neg hs]
    rw [keysShut_iff, not_or] at hs
    obtain stopped | fitted | ⟨held, h1 | ⟨x, hx, refuses⟩⟩ | ⟨not_held, -⟩ := h
    · exact absurd stopped hs.1
    · exact absurd fitted hs.2
    · omega
    · rw [keyHold_of_held held, hx]
      have : abandonAccepted x.primary.cause x.next = false := by
        rw [← Bool.not_eq_true, abandonAccepted_iff]
        obtain ⟨h, -⟩ | ⟨h, -⟩ | ⟨h, -⟩ | ⟨h, -⟩ | ⟨-, unloading, cause⟩ := refuses
        case inr.inr.inr.inr => exact not_or.2 ⟨not_not.2 unloading, cause⟩
        all_goals omega
      simp [this]
    · rw [keyHold_of_not_held not_held]

/-- Settles O15. -/
theorem keysRefused : Obligations.KeysRefused := by
  intro p s
  have all {n : Nat} {c : Instr} (hc : exec c s = s.refuseKey p n) : ∃ t, exec c s = .next t ∧ t.setPl s.pl = s := by
    rw [hc]
    exact refuseKey_only_pl s p n
  have not_held (n : Nat) (h : (s.build p).state ≠ .held) (hn : 3 ≤ n) : s.RefusesKey p n :=
    .inr (.inr (.inr ⟨h, .inl hn⟩))
  have held (n : Nat) (x : Hold) (h : (s.build p).state = .held) (hx : s.hold p = some x)
      (hr : s.HoldRefuses p x n) : s.RefusesKey p n := .inr (.inr (.inl ⟨h, .inr ⟨x, hx, hr⟩⟩))
  refine ⟨fun shut c hc => ?shut, fun none => ?confirm, fun hb => ⟨fun none => ?reject, fun c hc => ?others⟩,
    fun x hb hx => ⟨fun h => ?resume, fun h => ?rejectHeld, fun h => ?undo, fun h => ?abandon⟩⟩
  case shut =>
    have refuses (n : Nat) : s.RefusesKey p n := shut.imp_right .inl
    simp only [List.mem_cons, List.not_mem_nil, or_false] at hc
    obtain rfl | rfl | rfl | rfl | rfl := hc
    · exact all (confirm_refused (refuses 1))
    · exact all (reject_refused (refuses 2))
    · exact all (resume_refused (refuses 3))
    · exact all (undo_refused (refuses 4))
    · exact all (abandon_refused (refuses 5))
  case confirm =>
    refine all (confirm_refused ?_)
    by_cases hb : (s.build p).state = .held
    · exact .inr (.inr (.inl ⟨hb, .inl rfl⟩))
    · exact .inr (.inr (.inr ⟨hb, .inr none⟩))
  case reject => exact all (reject_refused (.inr (.inr (.inr ⟨hb, .inr none⟩))))
  case others =>
    simp only [List.mem_cons, List.not_mem_nil, or_false] at hc
    obtain rfl | rfl | rfl := hc
    · exact all (resume_refused (not_held 3 hb (by omega)))
    · exact all (undo_refused (not_held 4 hb (by omega)))
    · exact all (abandon_refused (not_held 5 hb (by omega)))
  case resume =>
    refine all (resume_refused (held 3 x hb hx ?_))
    exact h.imp (⟨by omega, ·⟩) fun k => .inr (.inl ⟨rfl, k⟩)
  case rejectHeld =>
    refine all (reject_refused (held 2 x hb hx ?_))
    exact h.imp (⟨by omega, ·⟩) fun k => .inl ⟨rfl, k⟩
  case undo =>
    refine all (undo_refused (held 4 x hb hx ?_))
    refine h.imp (⟨by omega, ·⟩) fun k => .inr (.inr (.inl ⟨rfl, ?_⟩))
    obtain unloading | cause | empty | pending := k
    · exact .inl unloading
    · exact .inr (.inr (.inr cause))
    · exact .inr (.inl empty)
    · exact .inr (.inr (.inl pending))
  case abandon => exact all (abandon_refused (held 5 x hb hx (.inr (.inr (.inr (.inr ⟨rfl, h⟩))))))

/-! ### Receiving (R193, R195, R196) -/

theorem execFrameReceive_reads {bytes : List Byte} {h : Handed} (hr : readFrame bytes = some h) (s : State) :
    exec (.frameReceive bytes) s = finish (s.receive h) := by
  show execFrameReceive bytes s = _
  rw [execFrameReceive, hr]

theorem receive_class0 {h : Handed} (hk : h.kind.cls = 0) (s : State) : s.receive h = s.receive0 h := if_pos hk

theorem receive_room {h : Handed} (hk : h.kind.cls ≠ 0) {s : State} (h13 : s.lp.received13 < 11)
    (h12 : s.lp.received < 12) : s.receive h = s.setLp { s.lp with handover := s.lp.handover ++ [h] } := by
  rw [State.receive, if_neg hk, if_pos ⟨h13, h12⟩]

theorem receive_dropped {h : Handed} (hk : h.kind.cls ≠ 0) {s : State}
    (hf : 11 ≤ s.lp.received13 ∨ 12 ≤ s.lp.received) : s.receive h = s.dropFrame h := by
  rw [State.receive, if_neg hk, if_neg (by simp only [Config.maxReceive]; omega)]

/-- Settles O51. -/
theorem frameReceiveBuffers : Obligations.FrameReceiveBuffers := by
  intro bytes s
  refine ⟨fun hr => ?unread, fun h hr => ⟨fun hk => ⟨_, execFrameReceive_reads hr s, ?class0⟩,
    fun hk h13 h12 => ⟨_, execFrameReceive_reads hr s, ?room⟩, fun hk hf => ⟨_, execFrameReceive_reads hr s, ?full⟩⟩⟩
  case unread =>
    show execFrameReceive bytes s = _
    rw [execFrameReceive, hr]
  case class0 => rw [receive_class0 hk, flush_setPl_eq]; rfl
  case room => rw [receive_room hk h13 h12, flush_setPl_eq]; rfl
  case full =>
    obtain ⟨v, hv⟩ := s.benchReport_only_pl .frameDropped none h.kind.code.toNat
    rw [receive_dropped hk hf, flush_setPl_eq, State.dropFrame, hv]
    rfl

/-! ### Contention (R191) -/

theorem frame_cls_lt (f : Frame) : f.cls < 4 := by
  unfold Frame.cls
  cases f.kind <;> decide

theorem winsOver_iff (s : State) (f : Frame) (rivals : List Contention) : s.winsOver f rivals = true ↔
    ∀ r ∈ rivals, f.cls < r.cls.toNat ∨ (f.cls = r.cls.toNat ∧ s.jc.station.toNat ≤ r.station.toNat) := by
  have hs := s.jc.station.isLt
  have hf := frame_cls_lt f
  have number (r : Contention) : contentionNumber (s.fieldOf f) ≤ contentionNumber r ↔
      f.cls < r.cls.toNat ∨ (f.cls = r.cls.toNat ∧ s.jc.station.toNat ≤ r.station.toNat) := by
    have hr := r.station.isLt
    simp only [contentionNumber, State.fieldOf, BitVec.toNat_ofNat]
    omega
  simp only [State.winsOver, List.all_eq_true, decide_eq_true_eq, number]

theorem grantPlaces_of_none {s : State} (h : s.anyWaiting = false) (n : Nat) : State.grantPlaces n s = s := by
  cases n with
  | zero => rfl
  | succ n => simp [State.grantPlaces, h]

theorem freedPlace_of_none {s : State} (h : s.anyWaiting = false) : s.freedPlace = s := by
  simp [State.freedPlace, State.grantTx, grantPlaces_of_none h]

theorem serveAsks_of_empty {s : State} (h : s.xu.askQueue = []) (n : Nat) : State.serveAsks n s = s := by
  cases n with
  | zero => rfl
  | succ n => simp [State.serveAsks, h]

theorem serveAsks_of_cannot {s : State} (h : s.canServe = false) (n : Nat) : State.serveAsks n s = s := by
  cases n with
  | zero => rfl
  | succ n => simp [State.serveAsks, h]

/-- Settles O52. -/
theorem contentionByClassThenStation : Obligations.ContentionByClassThenStation := by
  intro rivals s
  refine ⟨fun f fs hs hc hq hi => ?begins, fun c hc => ⟨fun wins => ?wins, fun loses => ?loses⟩⟩
  case begins =>
    show Host.Outcome.next s.beginContention = _
    simp [State.beginContention, hs, hc, hq, State.isolated, hi]
  case wins =>
    show execContention (.decided rivals) s = _
    simp only [execContention, hc, (winsOver_iff s c.frame rivals).2 wins, if_true]
    rfl
  case loses =>
    have lost : s.winsOver c.frame rivals = false := by
      rw [← Bool.not_eq_true, winsOver_iff]
      intro wins
      obtain ⟨r, hr, lower⟩ := loses
      have := wins r hr
      omega
    refine ⟨fun kept => ?_, fun withdrawn idle noAsk =>
      ⟨(s.setLp { s.lp with contending := none }).flush, ?_, ?_⟩⟩
    · show execContention (.decided rivals) s = _
      simp [execContention, hc, lost, kept]
    · show execContention (.decided rivals) s = _
      have none : (s.setLp { s.lp with contending := none }).freedPlace = s.setLp { s.lp with contending := none } :=
        freedPlace_of_none idle
      simp only [execContention, hc, lost, withdrawn, none, if_true]
      simp [finishServing, finish, serveAsks_of_empty, noAsk]
    · rw [flush_setPl_eq]; rfl

/-! ### ROLL going out (R207) -/

theorem offerRoll_accepted {s : State} (hs : s.jc.state = .active) (ha : s.accepts3 = true) (fresh : Bool) :
    s.offerRoll fresh = (s.setLp (s.lp.enqueue (.roll fresh (BitVec.ofNat 8 s.jc.fitted)))).setJc
      { s.jc with rollLeft := some 10, rollOwed := false } := by
  simp [State.offerRoll, ha, State.transmit, State.isolated, hs, Config.rollPeriod]

theorem offerRoll_refused {s : State} (ha : s.accepts3 = false) (fresh : Bool) :
    s.offerRoll fresh = s.setJc { s.jc with rollLeft := none, rollOwed := true } := by
  simp [State.offerRoll, ha]

/-- Settles O57. -/
theorem rollOffered : Obligations.RollOffered := by
  intro s active c hc
  have run : exec c s = finish (s.offerRoll false) := by
    obtain ⟨rfl, due⟩ | ⟨rfl, owed⟩ := hc
    · exact if_pos ⟨active, due⟩
    · exact if_pos ⟨active, owed⟩
  refine ⟨fun accepted => ⟨_, run, ?_⟩, fun refused => ⟨_, run, ?_⟩⟩
  · rw [flush_setPl_eq, offerRoll_accepted active accepted]; rfl
  · rw [flush_setPl_eq, offerRoll_refused refused]; rfl

/-! ### Entries that have aged (R150, R208) -/

/-- Settles O35. -/
theorem agedEntriesLeave : Obligations.AgedEntriesLeave := by
  intro k c s
  refine ⟨⟨_, rfl, fun e => ?offer, rfl⟩, fun ⟨x, hx, hk, ha⟩ => ?peer⟩
  case offer =>
    show e ∈ s.xu.offers.filter _ ↔ _
    rw [List.mem_filter, Bool.not_eq_true', ← Bool.not_eq_true]
    rw [Bool.and_eq_true, Bool.and_eq_true, decide_eq_true_eq, decide_eq_true_eq, decide_eq_true_eq, and_assoc]
    rfl
  case peer =>
    have due : s.jc.peers.any (fun x => decide (x.station = k) && decide (Config.peerAbsent ≤ x.age)) = true :=
      List.any_eq_true.2 ⟨x, hx, by simp [hk, Config.peerAbsent, ha]⟩
    refine ⟨_, if_pos due, fun y => ?_, fun e => ?_, rfl, rfl⟩ <;> simp [State.dropOffers]

/-! ### OFFER, WANT, ASK and TAKEN -/

theorem execOffer_handed {s u : State} {h : Handed} {c : ItemCode} {q : BitVec 16}
    (hh : s.handOver .offer = some (h, u)) (hb : Frame.ofBody h.kind h.body = some (.offer c q)) :
    exec .offer s = if u.exchangeTakes h && !u.isolated && decide (q ≠ 0#16)
      then finish (u.takeOffer h.sender c q.toNat) else finish u := by
  show execOffer s = _
  rw [execOffer, hh]
  simp only [hb]

theorem execWant_handed {s u : State} {h : Handed} {c : ItemCode} {q : Byte}
    (hh : s.handOver .want = some (h, u)) (hb : Frame.ofBody h.kind h.body = some (.want c q)) :
    exec .want s = if u.exchangeTakes h && decide (q ≠ 0#8) && u.gateOpen && decide (0 < u.su.freeCount c)
      && u.clockAllows c Config.offerSpacing then finish (u.offerCode c) else finish u := by
  show execWant s = _
  rw [execWant, hh]
  simp only [hb]

theorem execAsk_handed {s u : State} {h : Handed} {k : Station} {c : ItemCode} {q : Byte}
    (hh : s.handOver .ask = some (h, u)) (hb : Frame.ofBody h.kind h.body = some (.ask k c q)) :
    exec .ask s = if u.exchangeTakes h && decide (k = u.jc.station) && decide (1 ≤ q.toNat) && decide (q.toNat ≤ 4)
      && u.gateOpen then finishServing (u.joinAsk h.sender c q.toNat) else finish u := by
  show execAsk s = _
  rw [execAsk, hh]
  simp only [hb]

theorem execGrant_handed {s u : State} {h : Handed} {k : Station} {n : Seq} {c : ItemCode} {es : List (BitVec 16)}
    (hh : s.handOver .grant = some (h, u)) (hb : Frame.ofBody h.kind h.body = some (.grant k n c es)) :
    exec .grant s = if u.exchangeTakes h && decide (k = u.jc.station) && decide (es.length ≤ 4)
      then finish (u.takeGrant h.sender n c (es.map BitVec.toNat)) else finish u := by
  show execGrant s = _
  rw [execGrant, hh]
  simp only [hb]

theorem execTaken_handed {s u : State} {h : Handed} {k : Station} {n : Seq} {q : Byte}
    (hh : s.handOver .taken = some (h, u)) (hb : Frame.ofBody h.kind h.body = some (.taken k n q)) :
    exec .taken s = if u.exchangeTakes h && decide (k = u.jc.station)
      then finish (u.takeTaken h.sender n q.toNat) else finish u := by
  show execTaken s = _
  rw [execTaken, hh]
  simp only [hb]

theorem offerCode_accepted {s : State} (hi : s.jc.state ≠ .isolated) (ha : s.accepts3 = true) (c : ItemCode) :
    s.offerCode c = (s.setLp (s.lp.enqueue (.offer c (BitVec.ofNat 16 (s.su.freeCount c))))).setXu
      { s.xu with clocks := s.xu.clocks.filter (fun k => decide (k.code ≠ c)) ++ [⟨c, 0⟩] } := by
  simp [State.offerCode, ha, State.transmit, State.isolated, hi]

theorem gateOpen_iff (s : State) : s.gateOpen = true ↔ s.jc.state = .active ∧ s.hc.stopped = false := by
  simp [State.gateOpen]

theorem execSurplusReached_of_due {s : State} {n : UnitNo} {i : Nat} {u : UnitRec} {age : Nat}
    (hi : s.su.slotOf n = some i) (hu : s.su.slot i = .occupied u (.free age))
    (ha : s.jc.setup.surplusHold ≤ age) : exec (.surplusReached n) s = exec .offerSecondLook s := by
  show execSurplusReached n s = finish s.surplusLook
  simp only [execSurplusReached, hi, hu, if_pos ha]

/-- Settles O32. -/
theorem surplusLooks : Obligations.SurplusLooks := by
  intro s
  refine ⟨fun n i u age => execSurplusReached_of_due, fun shut => ⟨_, rfl, ?_⟩,
    fun c open_ one due accepted => ⟨_, rfl, ?_⟩⟩
  · rw [flush_setPl_eq, State.surplusLook, if_neg (by simp [shut])]
    rfl
  · have active := ((gateOpen_iff s).1 open_).1
    have look : s.surplusLook = s.offerCode c := by
      rw [State.surplusLook, if_pos open_, one]
      simp [due]
    rw [flush_setPl_eq, look, offerCode_accepted (by rw [active]; decide) accepted]
    rfl

/-- The blocks of the state a frame was handed over in; JC and LP change in the peer table and the hand-over alone. -/
theorem handed_blocks {s u : State} {k : Kind} {h : Handed} (hh : s.handOver k = some (h, u)) :
    u.hc = s.hc ∧ u.cu = s.cu ∧ u.su = s.su ∧ u.be = s.be ∧ u.wf = s.wf ∧ u.pv = s.pv ∧ u.vu = s.vu
      ∧ u.xu = s.xu ∧ u.pl = s.pl ∧ u.claimCounter = s.claimCounter ∧ u.pending = s.pending
      ∧ u.jc.state = s.jc.state ∧ u.jc.station = s.jc.station ∧ u.jc.setup = s.jc.setup ∧ u.jc.fitted = s.jc.fitted := by
  obtain ⟨-, rest, peers, rfl⟩ := handOver_eq hh
  exact ⟨rfl, rfl, rfl, rfl, rfl, rfl, rfl, rfl, rfl, rfl, rfl, rfl, rfl, rfl, rfl⟩

/-- Settles O38. -/
theorem wantAnswered : Obligations.WantAnswered := by
  intro h c q u s hh hb other
  obtain ⟨-, rest, peers, rfl⟩ := handOver_eq hh
  have run := execWant_handed hh hb
  refine ⟨fun hq open_ free due accepted => ?answered, fun shut => ?closed⟩
  case answered =>
    have active := ((gateOpen_iff s).1 open_).1
    rw [run, if_pos (by
      simp only [Bool.and_eq_true, decide_eq_true_eq]
      exact ⟨⟨⟨⟨by simp [State.exchangeTakes, other, active], hq⟩, open_⟩, free⟩, due⟩)]
    refine ⟨_, rfl, ?_⟩
    rw [flush_setPl_eq, offerCode_accepted (by simp [active]) accepted]
    rfl
  case closed =>
    rw [run, if_neg (by
      simp only [Bool.and_eq_true, not_and, decide_eq_true_eq]
      intro h
      have this : s.gateOpen = true := h.1.2
      simp [shut] at this)]
    exact ⟨_, rfl, flush_setPl_eq _ _⟩

/-- Settles O39. -/
theorem askJoinsQueue : Obligations.AskJoinsQueue := by
  intro h k c q u s hh hb other
  obtain ⟨-, rest, peers, rfl⟩ := handOver_eq hh
  have run := execAsk_handed hh hb
  refine ⟨fun mine h1 h4 open_ cannot => ?mine, fun notMine => ?notMine⟩
  case mine =>
    have active := ((gateOpen_iff s).1 open_).1
    rw [run, if_pos (by
      simp only [Bool.and_eq_true, decide_eq_true_eq]
      exact ⟨⟨⟨⟨by simp [State.exchangeTakes, other, active], mine⟩, h1⟩, h4⟩, open_⟩)]
    refine ⟨fun room => ⟨_, rfl, ?_⟩, fun full => ⟨_, rfl, ?_⟩⟩
    · rw [State.joinAsk, if_pos (by exact room), flush_setPl_eq, serveAsks_of_cannot (by exact cannot)]
      rfl
    · rw [State.joinAsk, if_neg (by exact Nat.not_lt.2 full), flush_setPl_eq, serveAsks_of_cannot cannot]
      rfl
  case notMine =>
    rw [run, if_neg (by
      simp only [Bool.and_eq_true, not_and, decide_eq_true_eq]
      exact fun h => absurd h.1.1.2 notMine)]
    exact ⟨_, rfl, flush_setPl_eq _ _⟩

theorem endOutbound_eq (s : State) (n : Seq) : ∃ v, s.endOutbound n = ((s.setXu
      { s.xu with outbound := s.xu.outbound.filter (fun o => decide (o.seq ≠ n)) }).setSu
        { s.su with slots := s.su.slots.map (Slot.forget n) }).setPl v :=
  State.showShelf_only_pl _

/-- Settles O42. -/
theorem takenEndsOutbound : Obligations.TakenEndsOutbound := by
  intro h k n q u s hh hb other mine joined
  have handed := hh
  obtain ⟨-, rest, peers, rfl⟩ := handOver_eq hh
  have run := execTaken_handed hh hb
  rw [if_pos (by
    rw [Bool.and_eq_true, decide_eq_true_eq]
    exact ⟨by simp [State.exchangeTakes, other, joined], mine⟩)] at run
  rw [run]
  refine ⟨fun ⟨o, ho, hn, hd⟩ => ⟨_, rfl, ?_⟩, fun none => ?_⟩
  · set w := (s.setLp { s.lp with handover := rest }).setJc { s.jc with peers := peers } with hw
    have found : ∃ o, w.xu.outbound.find? (fun o => decide (o.seq = n) && decide (o.dest = h.sender)) = some o := by
      rw [← Option.isSome_iff_exists, List.find?_isSome]
      exact ⟨o, ho, by simp [hn, hd]⟩
    obtain ⟨o', ho'⟩ := found
    obtain ⟨v, hv⟩ := endOutbound_eq w n
    have ends : ∃ v, w.takeTaken h.sender n q.toNat = (w.endOutbound n).setPl v := by
      simp only [State.takeTaken, ho']
      split
      · exact State.benchReport_only_pl ..
      · exact ⟨_, rfl⟩
    obtain ⟨v', hv'⟩ := ends
    rw [hv', hv]
    simp [hw]
  · have nothing : State.takeTaken ((s.setLp { s.lp with handover := rest }).setJc { s.jc with peers := peers })
        h.sender n q.toNat = (s.setLp { s.lp with handover := rest }).setJc { s.jc with peers := peers } := by
      rw [State.takeTaken]
      have : ((s.setLp { s.lp with handover := rest }).setJc { s.jc with peers := peers }).xu.outbound.find?
          (fun o => decide (o.seq = n) && decide (o.dest = h.sender)) = Option.none :=
        List.find?_eq_none.2 fun o ho => by simpa using none o ho
      rw [this]
    rw [nothing]
    exact finish_handed handed

end Sys2Proof.Proofs
end


section
/-! What an operation leaves alone: the parts of the state it may change are named, and every other part stands.
One lemma for each operation of the model, in the form that composes. -/

namespace Sys2Proof.Proofs

open Sys2Proof.Machine

/-! ### The parts of a state -/

/-- A part of a build record: a field of it, or something that holds of its lines. -/
inductive BuildPart where
  | state | link | claimOrder | lines | items | counts | earmarks | covered | plan | trayWanted | content
  | exclusion | tare | gatherLeft | unloadReason | regatherDue

/-- The counts of a line that no earmark, no put that starts and no ask changes. -/
def lineCounts (l : LineRec) : Nat × Nat × ExactWait := (l.placed, l.incoming, l.exactWait)

/-- The earmarked and putting counts of a line. -/
def lineEarmarks (l : LineRec) : Nat × Nat := (l.earmarked, l.putting)

/-- Two build records agree in a part; for `covered`, the second is covered where the first is. -/
def BuildPart.Same (b c : Build) : BuildPart → Prop
  | .state => c.state = b.state
  | .link => c.link = b.link
  | .claimOrder => c.claimOrder = b.claimOrder
  | .lines => c.lines = b.lines
  | .items => c.lines.map (·.item) = b.lines.map (·.item)
  | .counts => c.lines.map lineCounts = b.lines.map lineCounts
  | .earmarks => c.lines.map lineEarmarks = b.lines.map lineEarmarks
  | .covered => b.covered = true → c.covered = true
  | .plan => c.plan = b.plan
  | .trayWanted => c.trayWanted = b.trayWanted
  | .content => c.content = b.content
  | .exclusion => c.exclusion = b.exclusion
  | .tare => c.tare = b.tare
  | .gatherLeft => c.gatherLeft = b.gatherLeft
  | .unloadReason => c.unloadReason = b.unloadReason
  | .regatherDue => c.regatherDue = b.regatherDue

/-- How earmarks and slot requests change a slot: a FREE unit is taken for a position of `Q`, an EARMARKED unit
of one is put, and a slot without a unit stays without one. -/
def SlotStep (Q : Pos → Prop) (x y : Slot) : Prop :=
  y = x
  ∨ (∃ u age q l, x = .occupied u (.free age) ∧ Q q
      ∧ (y = .occupied u (.earmarked q l) ∨ y = .occupied u (.putting q l)))
  ∨ (∃ u q l, x = .occupied u (.earmarked q l) ∧ Q q ∧ y = .occupied u (.putting q l))
  ∨ (x.unit? = none ∧ y.unit? = none)

/-- A part of the state: a field of a block, a record of a position, or something an operation may keep while
it changes the field. -/
inductive Part where
  /-- JC, WF, the waiting commands, STOPPED and the local stop. -/
  | fixed
  | counter | pl | halts
  | build (k : BuildPart) (q : Pos)
  | put (q : Pos)
  /-- A pending operation stays pending, as it is. -/
  | busy (q : Pos)
  /-- Whether a put is pending. -/
  | putPending (q : Pos)
  | hold (q : Pos)
  /-- The hold record but for its `resolving`. -/
  | causes (q : Pos)
  | val (q : Pos)
  /-- What the sticky flags held they go on to hold. -/
  | sticky (q : Pos)
  | notices | cuWaiting
  /-- What waits with CU, but for a PRIOR, waits on. -/
  | waits
  | queue
  /-- What is in the transmit queue stays there. -/
  | queued
  /-- A frame that was not there comes neither into the transmit queue nor among what waits with CU. -/
  | absent (f : Frame)
  /-- The PRIORs of the transmit queue. -/
  | priors
  /-- While ISOLATED LP stands, and nothing comes to wait with CU. -/
  | shut
  | contending | port
  | slots
  /-- The unit of every slot. -/
  | units
  /-- Every slot goes by `SlotStep`. -/
  | shelf (Q : Pos → Prop)
  | earmarkOrder | lastNumber | requests | amber | intakeLamp | chuteLamp
  | offers | askQueue | outbound | expected | asks | clocks | xuWaiting | seq

/-- Two states agree in a part. -/
def Part.Same (s t : State) : Part → Prop
  | .fixed => t.jc = s.jc ∧ t.wf = s.wf ∧ t.pending = s.pending ∧ t.hc.stopped = s.hc.stopped
      ∧ t.hc.localStop = s.hc.localStop
  | .counter => t.claimCounter = s.claimCounter
  | .pl => t.pl = s.pl
  | .halts => t.hc.haltsWaiting = s.hc.haltsWaiting
  | .build k q => k.Same (s.build q) (t.build q)
  | .put q => t.put q = s.put q
  | .busy q => s.put q ≠ none → t.put q = s.put q
  | .putPending q => t.putPending q = s.putPending q
  | .hold q => t.hold q = s.hold q
  | .causes q => (t.hold q).map (fun h => { h with resolving := .none })
      = (s.hold q).map (fun h => { h with resolving := .none })
  | .val q => t.vu.get q = s.vu.get q
  | .sticky q => ∀ x : CauseSet, x.union (s.vu.get q).sticky = (s.vu.get q).sticky →
      x.union (t.vu.get q).sticky = (t.vu.get q).sticky
  | .notices => t.cu.notices = s.cu.notices
  | .cuWaiting => t.cu.waiting = s.cu.waiting
  | .waits => ∀ f ∈ s.cu.waiting, f.kind ≠ .prior → f ∈ t.cu.waiting
  | .queue => t.lp.queue = s.lp.queue
  | .queued => ∀ f ∈ s.lp.queue, f ∈ t.lp.queue
  | .absent f => (f ∈ t.lp.queue → f ∈ s.lp.queue) ∧ (f ∈ t.cu.waiting → f ∈ s.cu.waiting)
  | .priors => t.lp.queue.filter (fun f => decide (f.kind = .prior))
      = s.lp.queue.filter (fun f => decide (f.kind = .prior))
  | .shut => s.jc.state = .isolated → t.jc.state = .isolated ∧ t.lp = s.lp ∧ ∀ f ∈ t.cu.waiting, f ∈ s.cu.waiting
  | .contending => t.lp.contending = s.lp.contending
  | .port => t.lp.started = s.lp.started ∧ t.lp.handover = s.lp.handover ∧ t.lp.faults = s.lp.faults
      ∧ t.lp.suppression = s.lp.suppression
  | .slots => t.su.slots = s.su.slots
  | .units => ∀ i, (t.su.slot i).unit? = (s.su.slot i).unit?
  | .shelf Q => ∀ i, SlotStep Q (s.su.slot i) (t.su.slot i)
  | .earmarkOrder => t.su.earmarkOrder = s.su.earmarkOrder
  | .lastNumber => t.su.lastNumber = s.su.lastNumber
  | .requests => t.su.requests = s.su.requests
  | .amber => t.su.amberSlot = s.su.amberSlot
  | .intakeLamp => t.su.intakeLamp = s.su.intakeLamp
  | .chuteLamp => t.su.chuteLamp = s.su.chuteLamp
  | .offers => t.xu.offers = s.xu.offers
  | .askQueue => t.xu.askQueue = s.xu.askQueue
  | .outbound => t.xu.outbound = s.xu.outbound
  | .expected => t.xu.expected = s.xu.expected
  | .asks => t.xu.asks = s.xu.asks
  | .clocks => t.xu.clocks = s.xu.clocks
  | .xuWaiting => t.xu.waiting = s.xu.waiting
  | .seq => t.xu.seq = s.xu.seq

theorem BuildPart.Same.refl (b : Build) (k : BuildPart) : k.Same b b := by
  cases k <;> first | rfl | exact id

theorem BuildPart.Same.trans {b c d : Build} {k : BuildPart} (h : k.Same b c) (h' : k.Same c d) : k.Same b d := by
  cases k
  case covered => exact h' ∘ h
  all_goals exact Eq.trans h' h

theorem SlotStep.refl (Q : Pos → Prop) (x : Slot) : SlotStep Q x x := .inl rfl

theorem SlotStep.trans {Q : Pos → Prop} {x y z : Slot} (h : SlotStep Q x y) (h' : SlotStep Q y z) :
    SlotStep Q x z := by
  obtain rfl | ⟨u, age, q, l, rfl, hq, hy⟩ | ⟨u, q, l, rfl, hq, rfl⟩ | ⟨hx, hy⟩ := h
  · exact h'
  · obtain rfl | ⟨u', age', q', l', e, -, -⟩ | ⟨u', q', l', e, hq', hz⟩ | ⟨hy', -⟩ := h'
    · exact .inr (.inl ⟨u, age, q, l, rfl, hq, hy⟩)
    · obtain rfl | rfl := hy <;> simp at e
    · obtain rfl | rfl := hy
      · obtain ⟨rfl, rfl, rfl⟩ : u = u' ∧ q = q' ∧ l = l' := by simpa [and_assoc] using e
        exact .inr (.inl ⟨u, age, q, l, rfl, hq, .inr hz⟩)
      · simp at e
    · obtain rfl | rfl := hy <;> simp [Slot.unit?] at hy'
  · obtain rfl | ⟨u', age', q', l', e, -, -⟩ | ⟨u', q', l', e, -, -⟩ | ⟨hy', -⟩ := h'
    · exact .inr (.inr (.inl ⟨u, q, l, rfl, hq, rfl⟩))
    · simp at e
    · simp at e
    · simp [Slot.unit?] at hy'
  · obtain rfl | ⟨u', age', q', l', rfl, -, -⟩ | ⟨u', q', l', rfl, -, -⟩ | ⟨-, hz⟩ := h'
    · exact .inr (.inr (.inr ⟨hx, hy⟩))
    · simp [Slot.unit?] at hy
    · simp [Slot.unit?] at hy
    · exact .inr (.inr (.inr ⟨hx, hz⟩))

theorem SlotStep.mono {Q R : Pos → Prop} {x y : Slot} (h : SlotStep Q x y) (hQ : ∀ q, Q q → R q) : SlotStep R x y := by
  obtain h | ⟨u, age, q, l, hx, hq, hy⟩ | ⟨u, q, l, hx, hq, hy⟩ | h := h
  · exact .inl h
  · exact .inr (.inl ⟨u, age, q, l, hx, hQ q hq, hy⟩)
  · exact .inr (.inr (.inl ⟨u, q, l, hx, hQ q hq, hy⟩))
  · exact .inr (.inr (.inr h))

theorem SlotStep.unit {Q : Pos → Prop} {x y : Slot} (h : SlotStep Q x y) : y.unit? = x.unit? := by
  obtain rfl | ⟨u, age, q, l, rfl, -, rfl | rfl⟩ | ⟨u, q, l, rfl, -, rfl⟩ | ⟨hx, hy⟩ := h
  · rfl
  · rfl
  · rfl
  · rfl
  · rw [hx, hy]

theorem Part.Same.refl (s : State) (x : Part) : x.Same s s := by
  cases x
  case fixed => exact ⟨rfl, rfl, rfl, rfl, rfl⟩
  case build k q => exact BuildPart.Same.refl _ k
  case busy => exact fun _ => rfl
  case sticky => exact fun _ h => h
  case waits => exact fun _ h _ => h
  case queued => exact fun _ h => h
  case absent => exact ⟨id, id⟩
  case shut => exact fun h => ⟨h, rfl, fun _ hf => hf⟩
  case port => exact ⟨rfl, rfl, rfl, rfl⟩
  case units => exact fun _ => rfl
  case shelf Q => exact fun _ => .refl Q _
  all_goals rfl

theorem Part.Same.trans {s t u : State} {x : Part} (h : x.Same s t) (h' : x.Same t u) : x.Same s u := by
  cases x
  case fixed =>
    obtain ⟨j, w, p, st, l⟩ := h
    obtain ⟨j', w', p', st', l'⟩ := h'
    exact ⟨j'.trans j, w'.trans w, p'.trans p, st'.trans st, l'.trans l⟩
  case build k q => exact BuildPart.Same.trans h h'
  case busy q =>
    intro hs
    have e : t.put q = s.put q := h hs
    exact (h' (e ▸ hs)).trans e
  case sticky => exact fun x hx => h' x (h x hx)
  case waits => exact fun f hf hk => h' f (h f hf hk) hk
  case queued => exact fun f hf => h' f (h f hf)
  case absent => exact ⟨h.1 ∘ h'.1, h.2 ∘ h'.2⟩
  case shut =>
    intro hs
    obtain ⟨ht, e, w⟩ := h hs
    obtain ⟨hu, e', w'⟩ := h' ht
    exact ⟨hu, e'.trans e, fun f hf => w f (w' f hf)⟩
  case port =>
    obtain ⟨st, ha, f, su⟩ := h
    obtain ⟨st', ha', f', su'⟩ := h'
    exact ⟨st'.trans st, ha'.trans ha, f'.trans f, su'.trans su⟩
  case units => exact fun i => (h' i).trans (h i)
  case shelf => exact fun i => (h i).trans (h' i)
  all_goals exact Eq.trans h' h

/-! ### States that differ in some parts alone -/

/-- `t` differs from `s` in parts of `T` alone. -/
def Only (T : Part → Prop) (s t : State) : Prop := ∀ x, ¬ T x → x.Same s t

theorem Only.refl (T : Part → Prop) (s : State) : Only T s s := fun x _ => .refl s x

theorem Only.trans {T : Part → Prop} {s t u : State} (h : Only T s t) (h' : Only T t u) : Only T s u :=
  fun x hx => (h x hx).trans (h' x hx)

theorem Only.mono {T U : Part → Prop} {s t : State} (h : Only T s t) (hT : T ≤ U) : Only U s t :=
  fun x hx => h x fun hTx => hx (hT x hTx)

theorem Only.foldl {T : Part → Prop} {α : Type} {a s : State} (h : Only T a s) (f : State → α → State)
    (hf : ∀ t x, Only T a t → Only T a (f t x)) (xs : List α) : Only T a (xs.foldl f s) := by
  induction xs generalizing s with
  | nil => exact h
  | cons x xs ih => exact ih (hf s x h)

/-- A fold over members that each keep the parts. -/
theorem Only.foldl_mem {T : Part → Prop} {α : Type} {a s : State} (h : Only T a s) (f : State → α → State)
    (xs : List α) (hf : ∀ t, ∀ x ∈ xs, Only T a t → Only T a (f t x)) : Only T a (xs.foldl f s) := by
  induction xs generalizing s with
  | nil => exact h
  | cons x xs ih =>
    exact ih (hf s x List.mem_cons_self h) fun t y hy => hf t y (List.mem_cons_of_mem x hy)

/-! ### What the untouched parts say together -/

theorem build_eq_of_same {b c : Build} (f : ∀ k : BuildPart, k.Same b c) : c = b := by
  have hs := f .state
  have hl := f .link
  have ho := f .claimOrder
  have hli := f .lines
  have hp := f .plan
  have ht := f .trayWanted
  have hc := f .content
  have he := f .exclusion
  have hta := f .tare
  have hg := f .gatherLeft
  have hu := f .unloadReason
  have hr := f .regatherDue
  cases b
  cases c
  simp_all only [BuildPart.Same]

theorem perPos_eq {α : Type} {x y : PerPos α} (h : ∀ p, y.get p = x.get p) : y = x := by
  have a := h .a
  have b := h .b
  have c := h .c
  have d := h .d
  cases x
  cases y
  simp_all only [PerPos.get]

section
variable {T : Part → Prop} {s t : State} (h : Only T s t)
include h

theorem Only.jc_eq (hT : ¬ T .fixed) : t.jc = s.jc := (h _ hT).1
theorem Only.wf_eq (hT : ¬ T .fixed) : t.wf = s.wf := (h _ hT).2.1
theorem Only.pending_eq (hT : ¬ T .fixed) : t.pending = s.pending := (h _ hT).2.2.1
theorem Only.stopped_eq (hT : ¬ T .fixed) : t.hc.stopped = s.hc.stopped := (h _ hT).2.2.2.1

theorem Only.build_eq {q : Pos} (hT : ∀ k, ¬ T (.build k q)) : t.build q = s.build q :=
  build_eq_of_same fun k => h _ (hT k)

theorem Only.be_eq (hT : ∀ k q, ¬ T (.build k q)) : t.be = s.be :=
  perPos_eq fun q => h.build_eq fun k => hT k q

theorem Only.pv_eq (hT : ∀ q, ¬ T (.put q)) : t.pv = s.pv := perPos_eq fun q => h _ (hT q)

theorem Only.hc_eq (hf : ¬ T .fixed) (hw : ¬ T .halts) (hT : ∀ q, ¬ T (.hold q)) : t.hc = s.hc := by
  have holds : t.hc.holds = s.hc.holds := perPos_eq fun q => h _ (hT q)
  obtain ⟨-, -, -, stopped, localStop⟩ := h _ hf
  have halts : t.hc.haltsWaiting = s.hc.haltsWaiting := h _ hw
  exact HoldCtl.mk.injEq .. ▸ ⟨stopped, localStop, halts, holds⟩

theorem Only.cu_eq (hn : ¬ T .notices) (hw : ¬ T .cuWaiting) : t.cu = s.cu :=
  ClaimUnit.mk.injEq .. ▸ ⟨h _ hn, h _ hw⟩

theorem Only.lp_eq (hq : ¬ T .queue) (hc : ¬ T .contending) (hp : ¬ T .port) : t.lp = s.lp := by
  obtain ⟨started, handover, faults, suppression⟩ := h _ hp
  exact LinePort.mk.injEq .. ▸ ⟨h _ hq, h _ hc, started, handover, faults, suppression⟩

theorem Only.su_eq (hT : ∀ x ∈ [Part.slots, .earmarkOrder, .lastNumber, .requests, .amber, .intakeLamp, .chuteLamp],
    ¬ T x) : t.su = s.su :=
  Stock.mk.injEq .. ▸ ⟨h _ (hT .slots (by simp)), h _ (hT .earmarkOrder (by simp)), h _ (hT .lastNumber (by simp)),
    h _ (hT .requests (by simp)), h _ (hT .amber (by simp)), h _ (hT .intakeLamp (by simp)),
    h _ (hT .chuteLamp (by simp))⟩

theorem Only.xu_eq (hT : ∀ x ∈ [Part.offers, .askQueue, .outbound, .expected, .asks, .clocks, .xuWaiting, .seq],
    ¬ T x) : t.xu = s.xu :=
  Exchange.mk.injEq .. ▸ ⟨h _ (hT .offers (by simp)), h _ (hT .askQueue (by simp)), h _ (hT .outbound (by simp)),
    h _ (hT .expected (by simp)), h _ (hT .asks (by simp)), h _ (hT .clocks (by simp)),
    h _ (hT .xuWaiting (by simp)), h _ (hT .seq (by simp))⟩

end

end Sys2Proof.Proofs
end


section
/-! What an operation leaves alone: updates of one block, the panel, the bench line, slots and removals. -/

namespace Sys2Proof.Proofs

open Sys2Proof.Machine

/-! ### Sets of parts -/

/-- Sending to the panel. -/
def panelT : Part → Prop
  | .pl => True
  | _ => False

/-- A removal of a position of `Q` starts. -/
def removalT (Q : Pos → Prop) : Part → Prop
  | .pl => True
  | .put q | .hold q => Q q
  | _ => False

/-- Slots are given to the waiting requests of `Q`. -/
def giveT (Q : Pos → Prop) : Part → Prop
  | .pl | .slots | .requests => True
  | .put q | .hold q => Q q
  | _ => False

/-- A slot is emptied, and given to a waiting request of `Q`. -/
def emptyT (Q : Pos → Prop) : Part → Prop
  | .pl | .slots | .requests | .amber | .units | .shelf _ => True
  | .put q | .hold q => Q q
  | _ => False

/-- XU asks or wants for a line of a position of `Q`. -/
def handT (Q : Pos → Prop) : Part → Prop
  | .queue | .offers | .asks | .xuWaiting => True
  | .absent f => f.kind = .ask ∨ f.kind = .want ∨ f.kind = .taken
  | .build .lines q => Q q
  | _ => False

/-- Units are earmarked for the lines of a position of `Q`. -/
def fillT (Q : Pos → Prop) : Part → Prop
  | .slots | .earmarkOrder | .clocks => True
  | .shelf R => ¬ ∀ q, Q q → R q
  | .build .lines q | .build .earmarks q => Q q
  | _ => False

/-- A cause reaches HC for a position of `Q`. -/
def raiseT (Q : Pos → Prop) : Part → Prop
  | .pl => True
  | .put q | .hold q | .causes q | .build .state q => Q q
  | _ => False

/-- A PUTTING build of a position of `Q` goes on: its tare, its next put, its check. -/
def worksT (Q : Pos → Prop) : Part → Prop
  | .pl | .queue | .cuWaiting | .slots => True
  | .absent f => f.kind = .done
  | .shelf R => ¬ ∀ q, Q q → R q
  | .put q | .putPending q | .hold q | .causes q | .val q => Q q
  | .build .state q | .build .plan q | .build .trayWanted q | .build .tare q | .build .regatherDue q
  | .build .lines q | .build .earmarks q => Q q
  | _ => False

/-- A build of a position of `Q` takes up units on the shelf, and goes on once it is covered. -/
def matchT (Q : Pos → Prop) : Part → Prop
  | .earmarkOrder | .clocks => True
  | x => worksT Q x

/-- A build of a position of `Q` regathers. -/
def gatherT (Q : Pos → Prop) : Part → Prop
  | .offers | .asks | .xuWaiting => True
  | .absent f => f.kind = .done ∨ f.kind = .ask ∨ f.kind = .want ∨ f.kind = .taken
  | .build .gatherLeft q | .build .counts q => Q q
  | x => matchT Q x

/-- A position of `Q` looks for an order. -/
def lookT (Q : Pos → Prop) : Part → Prop
  | .pl | .notices | .queue | .cuWaiting => True
  | .absent f => f.kind = .claim
  | .build .state q | .build .link q => Q q
  | _ => False

theorem panelT_le_removalT (Q : Pos → Prop) : panelT ≤ removalT Q := by
  intro x h
  cases x <;> first | exact h | exact h.elim

theorem removalT_le_giveT (Q : Pos → Prop) : removalT Q ≤ giveT Q := by
  intro x h
  cases x <;> first | exact h | exact h.elim

theorem giveT_le_emptyT (Q : Pos → Prop) : giveT Q ≤ emptyT Q := by
  intro x h
  cases x <;> first | exact h | exact h.elim

theorem removalT_le_raiseT (Q : Pos → Prop) : removalT Q ≤ raiseT Q := by
  intro x h
  cases x <;> first | exact h | exact h.elim

theorem raiseT_le_worksT (Q : Pos → Prop) : raiseT Q ≤ worksT Q := by
  intro x h
  cases x
  case build k q => cases k <;> first | exact h | exact h.elim
  all_goals first | exact h | exact h.elim

theorem worksT_le_matchT (Q : Pos → Prop) : worksT Q ≤ matchT Q := by
  intro x h
  cases x <;> first | exact h | exact h.elim

theorem fillT_le_matchT (Q : Pos → Prop) : fillT Q ≤ matchT Q := by
  intro x h
  cases x
  case build k q => cases k <;> first | exact h | exact h.elim
  all_goals first | exact h | exact trivial | exact h.elim

theorem matchT_le_gatherT (Q : Pos → Prop) : matchT Q ≤ gatherT Q := by
  intro x h
  cases x
  case build k q => cases k <;> first | exact h | exact h.elim
  case absent => exact .inl h
  all_goals first | exact h | exact h.elim

theorem handT_le_gatherT (Q : Pos → Prop) : handT Q ≤ gatherT Q := by
  intro x h
  cases x
  case build k q => cases k <;> first | exact h | exact h.elim
  case absent => exact .inr h
  all_goals first | exact h | exact h.elim

theorem panelT_le_giveT (Q : Pos → Prop) : panelT ≤ giveT Q := (panelT_le_removalT Q).trans (removalT_le_giveT Q)

theorem panelT_le_raiseT (Q : Pos → Prop) : panelT ≤ raiseT Q :=
  (panelT_le_removalT Q).trans (removalT_le_raiseT Q)

theorem panelT_le_worksT (Q : Pos → Prop) : panelT ≤ worksT Q := (panelT_le_raiseT Q).trans (raiseT_le_worksT Q)

theorem panelT_le_lookT (Q : Pos → Prop) : panelT ≤ lookT Q := by
  intro x h
  cases x <;> first | exact h | exact h.elim

/-! ### Lists -/

theorem insertBy_perm {α : Type} (b : α → α → Bool) (x : α) (xs : List α) : (insertBy b x xs).Perm (x :: xs) := by
  induction xs with
  | nil => exact .refl _
  | cons y ys ih =>
    rw [insertBy]
    split
    · exact .refl _
    · exact (ih.cons y).trans (.swap x y ys)

theorem mem_insertBy {α : Type} {b : α → α → Bool} {x y : α} {xs : List α} :
    y ∈ insertBy b x xs ↔ y = x ∨ y ∈ xs := by
  rw [(insertBy_perm b x xs).mem_iff, List.mem_cons]

theorem map_updateAt {α β : Type} (g : α → β) (f : α → α) (hf : ∀ x, g (f x) = g x) (i : Nat) (xs : List α) :
    (updateAt f i xs).map g = xs.map g := by
  induction xs generalizing i with
  | nil => cases i <;> rfl
  | cons x xs ih => cases i <;> simp [updateAt, hf, ih]

theorem all_updateAt {α : Type} (test : α → Bool) (f : α → α) (hf : ∀ x, test x = true → test (f x) = true)
    (i : Nat) (xs : List α) (h : xs.all test = true) : (updateAt f i xs).all test = true := by
  induction xs generalizing i with
  | nil => cases i <;> rfl
  | cons x xs ih =>
    simp only [List.all_cons, Bool.and_eq_true] at h
    cases i <;> simp [updateAt, hf, ih, h]

theorem slot_set (su : Stock) (i j : Nat) (x : Slot) :
    Stock.slot { su with slots := su.slots.set i x } j
      = if j = i ∧ i < su.slots.length then x else su.slot j := by
  unfold Stock.slot
  rw [List.getElem?_set]
  by_cases h : i = j
  · subst h
    by_cases hl : i < su.slots.length <;> simp [hl]
  · have : ¬ j = i := fun e => h e.symm
    simp [h, this]

theorem filter_insertBy_neg {α : Type} {b : α → α → Bool} {test : α → Bool} {x : α} (h : test x = false)
    (xs : List α) : (insertBy b x xs).filter test = xs.filter test := by
  induction xs with
  | nil => simp [insertBy, h]
  | cons y ys ih =>
    rw [insertBy]
    split
    · simp [h]
    · rw [List.filter_cons, List.filter_cons, ih]

theorem mem_of_mem_dropFirst {α : Type} {test : α → Bool} {x : α} {xs : List α} (h : x ∈ dropFirst test xs) :
    x ∈ xs := by
  induction xs with
  | nil => simp [dropFirst] at h
  | cons y ys ih =>
    rw [dropFirst] at h
    split at h
    · exact List.mem_cons_of_mem y h
    · exact List.mem_cons.2 ((List.mem_cons.1 h).imp_right ih)

theorem mem_dropFirst {α : Type} {test : α → Bool} {x : α} {xs : List α} (h : x ∈ xs) (hx : test x = false) :
    x ∈ dropFirst test xs := by
  induction xs with
  | nil => simp at h
  | cons y ys ih =>
    rw [dropFirst]
    split
    case isTrue hy =>
      refine (List.mem_cons.1 h).resolve_left fun e => ?_
      rw [e, hy] at hx
      cases hx
    case isFalse => exact List.mem_cons.2 ((List.mem_cons.1 h).imp_right ih)

/-! ### Slots and removals -/

theorem putPending_removal (s : State) (p : Pos) (pu : Purpose) (x : Placed) (b : Option Nat)
    (hn : s.put p = none) : (s.setPut p (some (removalRecord pu x b))).putPending p = s.putPending p := by
  simp [State.putPending, hn, removalRecord]

theorem slotStep_empties {Q : Pos → Prop} {x y : Slot} (hx : x.unit? = none) (hy : y.unit? = none) : SlotStep Q x y :=
  .inr (.inr (.inr ⟨hx, hy⟩))

theorem slot_of_findIdx {su : Stock} {test : Slot → Bool} {i : Nat} (h : su.slots.findIdx? test = some i) :
    i < su.slots.length ∧ test (su.slot i) = true := by
  obtain ⟨hi, ht, -⟩ := List.findIdx?_eq_some_iff_getElem.1 h
  exact ⟨hi, by simpa [Stock.slot, hi] using ht⟩

theorem unit_of_lowestEmpty {su : Stock} {i : Nat} (h : su.lowestEmpty = some i) : (su.slot i).unit? = none := by
  obtain ⟨-, ht⟩ := slot_of_findIdx h
  cases hs : su.slot i <;> simp_all [Slot.isEmpty, Slot.unit?]

theorem slot_of_reservedSlot {su : Stock} {p : Pos} {i : Nat} (h : su.reservedSlot p = some i) :
    su.slot i = .reserved p := by
  obtain ⟨-, ht⟩ := slot_of_findIdx h
  cases hs : su.slot i <;> simp_all [Slot.isReservedFor]

/-! ### Updates of one block -/

section
variable {T : Part → Prop} {a s : State} (h : Only T a s)
include h

theorem Only.setPl (hT : panelT ≤ T) (v : Panel) : Only T a (s.setPl v) := h.trans fun x hx => by
  have same := Part.Same.refl s x
  cases x
  case pl => exact absurd (hT .pl trivial) hx
  all_goals exact same

theorem Only.setBuild (p : Pos) (v : Build) (hv : ∀ k, ¬ T (.build k p) → k.Same (s.build p) v) :
    Only T a (s.setBuild p v) := h.trans fun x hx => by
  have same := Part.Same.refl s x
  cases x
  case build k q =>
    by_cases e : q = p
    · subst e
      show k.Same (s.build q) ((s.setBuild q v).build q)
      rw [State.setBuild_build_same]
      exact hv k hx
    · show k.Same (s.build q) ((s.setBuild p v).build q)
      rw [State.setBuild_build_other _ _ e]
      exact .refl _ k
  all_goals exact same

theorem Only.setVal (p : Pos) (v : Valuation) (hT : T (.val p))
    (hs : ¬ T (.sticky p) → ∀ x : CauseSet, x.union (s.vu.get p).sticky = (s.vu.get p).sticky →
      x.union v.sticky = v.sticky) : Only T a (s.setVal p v) := h.trans fun x hx => by
  have same := Part.Same.refl s x
  cases x
  case val q =>
    have e : q ≠ p := fun e => hx (e ▸ hT)
    exact PerPos_get_set_other _ _ e
  case sticky q =>
    intro y hy
    show y.union ((s.vu.set p v).get q).sticky = ((s.vu.set p v).get q).sticky
    by_cases e : q = p
    · subst e
      rw [PerPos_get_set_same]
      exact hs hx y hy
    · rw [PerPos_get_set_other _ _ e]
      exact hy
  all_goals exact same

theorem Only.setPut (p : Pos) (v : Option PutRec) (hT : T (.put p)) (hb : ¬ T (.busy p) → s.put p = none)
    (hp : ¬ T (.putPending p) → (s.setPut p v).putPending p = s.putPending p) : Only T a (s.setPut p v) :=
  h.trans fun x hx => by
    have same := Part.Same.refl s x
    cases x
    case put q => exact State.setPut_put_other s v fun e => hx (e ▸ hT)
    case busy q =>
      intro hq
      by_cases e : q = p
      · subst e
        exact absurd (hb hx) hq
      · exact State.setPut_put_other s v e
    case putPending q =>
      by_cases e : q = p
      · subst e
        exact hp hx
      · show (s.setPut p v).putPending q = s.putPending q
        rw [State.putPending, State.setPut_put_other s v e, State.putPending]
    all_goals exact same

theorem Only.setHold (p : Pos) (v : Option Hold) (hT : T (.hold p))
    (hc : ¬ T (.causes p) → v.map (fun h => { h with resolving := .none })
      = (s.hold p).map (fun h => { h with resolving := .none })) : Only T a (s.setHold p v) :=
  h.trans fun x hx => by
    have same := Part.Same.refl s x
    cases x
    case hold q => exact State.setHold_hold_other s v fun e => hx (e ▸ hT)
    case causes q =>
      show Option.map _ ((s.setHold p v).hold q) = _
      by_cases e : q = p
      · subst e
        rw [State.setHold_hold_same]
        exact hc hx
      · rw [State.setHold_hold_other s v e]
    all_goals exact same

theorem Only.modLine (p : Pos) (i : Nat) (f : LineRec → LineRec) (hT : T (.build .lines p))
    (hi : ¬ T (.build .items p) → ∀ l, (f l).item = l.item)
    (hc : ¬ T (.build .counts p) → ∀ l, lineCounts (f l) = lineCounts l)
    (he : ¬ T (.build .earmarks p) → ∀ l, lineEarmarks (f l) = lineEarmarks l)
    (hd : ¬ T (.build .covered p) → ∀ l, l.uncovered = 0 → (f l).uncovered = 0) : Only T a (s.modLine p i f) := by
  refine h.setBuild p _ fun k hk => ?_
  cases k
  case lines => exact absurd hT hk
  case items => exact map_updateAt _ f (hi hk) i _
  case counts => exact map_updateAt _ f (hc hk) i _
  case earmarks => exact map_updateAt _ f (he hk) i _
  case covered => exact all_updateAt _ f (fun l hl => by simpa using hd hk l (by simpa using hl)) i _
  all_goals rfl

theorem Only.setSlot (i : Nat) (x : Slot) (hT : T .slots)
    (hu : ¬ T .units → x.unit? = (s.su.slot i).unit?)
    (hs : ∀ Q, ¬ T (.shelf Q) → SlotStep Q (s.su.slot i) x) : Only T a (s.setSlot i x) := h.trans fun y hy => by
  have same := Part.Same.refl s y
  cases y
  case slots => exact absurd hT hy
  case units =>
    intro j
    show (Stock.slot { s.su with slots := s.su.slots.set i x } j).unit? = _
    rw [slot_set]
    split
    case isTrue e => exact e.1 ▸ hu hy
    case isFalse => rfl
  case shelf Q =>
    intro j
    show SlotStep Q _ (Stock.slot { s.su with slots := s.su.slots.set i x } j)
    rw [slot_set]
    split
    case isTrue e => exact e.1 ▸ hs Q hy
    case isFalse => exact .refl Q _
  all_goals exact same

theorem Only.dropEarmark (hT : T .earmarkOrder) (u : UnitNo) : Only T a (s.dropEarmark u) := h.trans fun x hx => by
  have same := Part.Same.refl s x
  cases x
  case earmarkOrder => exact absurd hT hx
  all_goals exact same

theorem Only.pruneClocks (hT : T .clocks) : Only T a s.pruneClocks := h.trans fun x hx => by
  have same := Part.Same.refl s x
  cases x
  case clocks => exact absurd hT hx
  all_goals exact same

theorem Only.modNotice (hT : T .notices) (o : OrderId) (f : Notice → Notice) : Only T a (s.modNotice o f) :=
  h.trans fun x hx => by
    have same := Part.Same.refl s x
    cases x
    case notices => exact absurd hT hx
    all_goals exact same

theorem Only.removeNotice (hT : T .notices) (o : OrderId) : Only T a (s.removeNotice o) := h.trans fun x hx => by
  have same := Part.Same.refl s x
  cases x
  case notices => exact absurd hT hx
  all_goals exact same

/-! ### The panel -/

theorem Only.of_only_pl (hT : panelT ≤ T) {t : State} (ht : ∃ v, t = s.setPl v) : Only T a t := by
  obtain ⟨v, rfl⟩ := ht
  exact h.setPl hT v

theorem Only.showPosition (hT : panelT ≤ T) (p : Pos) : Only T a (s.showPosition p) :=
  h.of_only_pl hT (s.showPosition_only_pl p)

theorem Only.showShelf (hT : panelT ≤ T) : Only T a s.showShelf := h.of_only_pl hT s.showShelf_only_pl

theorem Only.showTray (hT : panelT ≤ T) (p : Pos) : Only T a (s.showTray p) :=
  h.of_only_pl hT (s.showTray_only_pl p)

theorem Only.showPositionLamp (hT : panelT ≤ T) (p : Pos) : Only T a (s.showPositionLamp p) :=
  h.of_only_pl hT (s.showPositionLamp_only_pl p)

theorem Only.showBuild (hT : panelT ≤ T) (p : Pos) : Only T a (s.showBuild p) :=
  h.of_only_pl hT (s.showBuild_only_pl p)

theorem Only.flush (hT : panelT ≤ T) : Only T a s.flush := h.of_only_pl hT s.flush_only_pl

theorem Only.report (hT : panelT ≤ T) (code : Nat) (p : Option Pos) (u : Option UnitNo) (v : Nat) :
    Only T a (s.report code p u v) := h.of_only_pl hT (s.report_only_pl code p u v)

theorem Only.benchReport (hT : panelT ≤ T) (r : BenchReport) (p : Option Pos) (v : Nat) :
    Only T a (s.benchReport r p v) := h.of_only_pl hT (s.benchReport_only_pl r p v)

/-! ### The transmit queue -/

theorem Only.transmit (hT : T .queue) (f : Frame) (hf : T (.absent f)) (hp : ¬ T .priors → f.kind ≠ .prior) :
    Only T a (s.transmit f) := by
  unfold State.transmit
  split
  case isTrue => exact h
  case isFalse shown =>
    refine h.trans fun x hx => ?_
    have same := Part.Same.refl s x
    cases x
    case queue => exact absurd hT hx
    case queued => exact fun g hg => mem_insertBy.2 (.inr hg)
    case absent g =>
      exact ⟨fun hg => (mem_insertBy.1 hg).resolve_left fun e => hx (e ▸ hf), id⟩
    case priors => exact filter_insertBy_neg (by simpa using hp hx) _
    case shut => exact fun shut => absurd (decide_eq_true shut) shown
    all_goals exact same

theorem Only.joinWaiting (hT : T .cuWaiting) (f : Frame) (hf : T (.absent f)) (hj : s.jc.state ≠ .isolated) :
    Only T a (s.setCu { s.cu with waiting := joinClaimWaiting s.cu.waiting f }) := by
  refine h.trans fun x hx => ?_
  have same := Part.Same.refl s x
  cases x
  case cuWaiting => exact absurd hT hx
  case waits =>
    intro g hg hk
    show g ∈ joinClaimWaiting s.cu.waiting f
    unfold joinClaimWaiting
    split
    · exact List.mem_append_left _ hg
    · split
      · exact hg
      · split
        · exact List.mem_append_left _ (mem_dropFirst hg (by simpa using hk))
        · exact hg
  case absent g =>
    refine ⟨id, fun hg => ?_⟩
    have hg : g ∈ joinClaimWaiting s.cu.waiting f := hg
    have other : g ≠ f := fun e => hx (e ▸ hf)
    unfold joinClaimWaiting at hg
    split at hg
    · simpa [other] using hg
    · split at hg
      · exact hg
      · split at hg
        · exact mem_of_mem_dropFirst (by simpa [other] using hg)
        · exact hg
  case shut => exact fun shut => absurd shut hj
  all_goals exact same

theorem Only.produceCu (hq : T .queue) (hw : T .cuWaiting) (f : Frame) (hf : T (.absent f))
    (hp : ¬ T .priors → f.kind ≠ .prior) : Only T a (s.produceCu f) := by
  unfold State.produceCu
  split
  · exact h.transmit hq f hf hp
  case isFalse full => exact h.joinWaiting hw f hf fun e => full (by simp [State.isolated, e])

/-! ### Looking -/

theorem Only.mark {Q : Pos → Prop} (hT : lookT Q ≤ T) {p : Pos} (hp : Q p) (n : Notice) : Only T a (s.mark p n) := by
  have marked : Only T a (s.modNotice n.order (fun m => { m with state := .marked p })) :=
    h.modNotice (hT .notices trivial) _ _
  refine ((marked.setBuild p _ fun k hk => ?_).produceCu (hT .queue trivial) (hT .cuWaiting trivial)
    (.claim n.order) (hT (.absent _) rfl) fun _ => nofun).showBuild ((panelT_le_lookT Q).trans hT) p
  have same := BuildPart.Same.refl ((s.modNotice n.order (fun m => { m with state := .marked p })).build p) k
  cases k
  case state => exact absurd (hT (.build .state p) hp) hk
  case link => exact absurd (hT (.build .link p) hp) hk
  all_goals exact same

theorem Only.look {Q : Pos → Prop} (hT : lookT Q ≤ T) {p : Pos} (hp : Q p) : Only T a (s.look p) := by
  unfold State.look
  split
  · split
    · exact h.mark hT hp _
    · exact h
  · exact h

theorem Only.lookAll {Q : Pos → Prop} (hT : lookT Q ≤ T) (hQ : ∀ p, Q p) : Only T a s.lookAll :=
  h.foldl _ (fun _ p k => k.look hT (hQ p)) _

/-! ### Slots and removals -/

theorem Only.tryRemoval {Q : Pos → Prop} (hT : removalT Q ≤ T) {p : Pos} (hp : Q p) : Only T a (s.tryRemoval p) := by
  unfold State.tryRemoval
  split
  case isTrue => exact h
  case isFalse free =>
    have idle : s.put p = none := by
      cases hp : s.put p with
      | none => rfl
      | some r => simp [hp] at free
    have starts {u : State} (k : Only T a u) (hu : u.put p = none) (pu : Purpose) (x : Placed) :
        Only T a (u.startRemoval p pu x) :=
      (k.setPut p _ (hT (.put p) hp) (fun _ => hu) fun _ => putPending_removal u p pu x _ hu).showTray
        ((panelT_le_removalT Q).trans hT) p
    split
    case h_1 => exact h
    case h_2 pu x _ =>
      split
      case h_1 hd _ =>
        refine starts (h.setHold p _ (hT (.hold p) hp) fun _ => ?_) idle _ _
        rw [hd]
        rfl
      case h_2 => exact starts h idle _ _

end

section
variable {T : Part → Prop} {Q : Pos → Prop} {a : State}

theorem Only.setRequests {s : State} (h : Only T a s) (hT : T .requests) (ps : List Pos) :
    Only T a (s.setSu { s.su with requests := ps }) := h.trans fun x hx => by
  have same := Part.Same.refl s x
  cases x
  case requests => exact absurd hT hx
  all_goals exact same

theorem Only.giveTo (hT : giveT Q ≤ T) (ps : List Pos) (hps : ∀ p ∈ ps, Q p) {s : State} (h : Only T a s) :
    Only T a (State.giveTo ps s) := by
  induction ps generalizing s with
  | nil => exact h
  | cons p ps ih =>
    rw [State.giveTo]
    split
    case h_1 => exact h
    case h_2 i hi =>
      have hpl := (panelT_le_giveT Q).trans hT
      refine ih (fun q hq => hps q (List.mem_cons_of_mem p hq)) ?_
      refine Only.tryRemoval ?_ ((removalT_le_giveT Q).trans hT) (hps p List.mem_cons_self)
      refine (((h.setSlot i _ (hT .slots trivial) (fun _ => ?_) fun R _ => ?_).setRequests
        (hT .requests trivial) _).showShelf hpl).showPositionLamp hpl p
      · exact (unit_of_lowestEmpty hi).symm
      · exact slotStep_empties (unit_of_lowestEmpty hi) rfl

theorem Only.giveSlots {s : State} (h : Only T a s) (hT : giveT Q ≤ T) (hQ : ∀ p ∈ s.su.requests, Q p) :
    Only T a s.giveSlots := Only.giveTo hT _ hQ h

theorem Only.setAmber {s : State} (h : Only T a s) (hT : T .amber) (v : Option Nat) :
    Only T a (s.setSu { s.su with amberSlot := v }) := h.trans fun x hx => by
  have same := Part.Same.refl s x
  cases x
  case amber => exact absurd hT hx
  all_goals exact same

theorem Only.emptySlot {s : State} (h : Only T a s) (hT : giveT Q ≤ T) (ha : T .amber)
    (hQ : ∀ p ∈ s.su.requests, Q p) (i : Nat) (g : Option Seq)
    (hu : T .units ∧ (∀ R, T (.shelf R)) ∨ (s.su.slot i).unit? = none) : Only T a (s.emptySlot i g) := by
  refine Only.giveSlots (Q := Q) ?_ hT (by exact hQ)
  refine ((h.setSlot i _ (hT .slots trivial) (fun nu => ?_) fun R nr => ?_).setAmber ha _).showShelf
    ((panelT_le_giveT Q).trans hT)
  · exact (hu.resolve_left fun k => nu k.1).symm
  · exact slotStep_empties (hu.resolve_left fun k => nr (k.2 R)) rfl

theorem Only.requestSlot {s : State} (h : Only T a s) (hT : giveT Q ≤ T) (p : Pos) : Only T a (s.requestSlot p) := by
  have hpl := (panelT_le_giveT Q).trans hT
  unfold State.requestSlot
  split
  case isTrue => exact h
  case isFalse =>
    split
    case h_1 i hi =>
      exact (h.setSlot i (.reserved p) (hT .slots trivial) (fun _ => (unit_of_lowestEmpty hi).symm)
        fun R _ => slotStep_empties (unit_of_lowestEmpty hi) rfl).showShelf hpl
    case h_2 => exact (h.setRequests (hT .requests trivial) _).showPositionLamp hpl p

theorem Only.releaseSlot {s : State} (h : Only T a s) (hT : giveT Q ≤ T) (ha : T .amber) (p : Pos)
    (hQ : ∀ q ∈ s.su.requests, q ≠ p → Q q) : Only T a (s.releaseSlot p) := by
  have dropped := h.setRequests (hT .requests trivial) (s.su.requests.filter (fun q => decide (q ≠ p)))
  unfold State.releaseSlot
  extract_lets t
  split
  case h_1 i hi =>
    refine dropped.emptySlot hT ha (fun q hq => ?_) i none (.inr ?_)
    · obtain ⟨hq, hn⟩ := List.mem_filter.1 hq
      exact hQ q hq (of_decide_eq_true hn)
    · rw [slot_of_reservedSlot hi]
      rfl
  case h_2 => exact dropped

end

end Sys2Proof.Proofs
end


section
/-! What an operation leaves alone: the exchange's lines, earmarks, causes, builds that go on, and matching. -/

namespace Sys2Proof.Proofs

open Sys2Proof.Machine

section
variable {T : Part → Prop} {Q : Pos → Prop} {a s : State}

/-! ### XU's lines -/

theorem Only.setXu (h : Only T a s) (v : Exchange) (ho : ¬ T .offers → v.offers = s.xu.offers)
    (hq : ¬ T .askQueue → v.askQueue = s.xu.askQueue) (hb : ¬ T .outbound → v.outbound = s.xu.outbound)
    (he : ¬ T .expected → v.expected = s.xu.expected) (ha : ¬ T .asks → v.asks = s.xu.asks)
    (hc : ¬ T .clocks → v.clocks = s.xu.clocks) (hw : ¬ T .xuWaiting → v.waiting = s.xu.waiting)
    (hs : ¬ T .seq → v.seq = s.xu.seq) : Only T a (s.setXu v) := h.trans fun x hx => by
  have same := Part.Same.refl s x
  cases x
  case offers => exact ho hx
  case askQueue => exact hq hx
  case outbound => exact hb hx
  case expected => exact he hx
  case asks => exact ha hx
  case clocks => exact hc hx
  case xuWaiting => exact hw hx
  case seq => exact hs hx
  all_goals exact same

/-- A change of what XU notes of a line: its pending ask and its WANT. -/
theorem Only.noteLine (h : Only T a s) (p : Pos) (i : Nat) (f : LineRec → LineRec) (hT : T (.build .lines p))
    (hf : ∀ l, ∃ n w v, f l = { l with pendingAsk := n, wantSent := w, wantRefused := v }) :
    Only T a (s.modLine p i f) := by
  refine h.modLine p i f hT (fun _ l => ?_) (fun _ l => ?_) (fun _ l => ?_) (fun _ l hl => ?_) <;>
    obtain ⟨n, w, v, e⟩ := hf l <;> rw [e]
  · rfl
  · rfl
  · exact hl

theorem Only.askAt (h : Only T a s) (hT : handT Q ≤ T) {r : LineRef} (hr : Q r.p) (l : LineRec) (e : OfferEntry) :
    Only T a (s.askAt r l e) := by
  have notes {u : State} (k : Only T a u) (n : Nat) :
      Only T a (u.modLine r.p r.line (fun x => { x with pendingAsk := n })) :=
    k.noteLine _ _ _ (hT (.build .lines r.p) hr) fun l => ⟨n, l.wantSent, l.wantRefused, rfl⟩
  have lowers (os : List OfferEntry) (as : List AskRec) :
      Only T a (s.setXu { s.xu with offers := os, asks := as }) := by
    refine h.setXu _ (fun k => absurd (hT .offers trivial) k) ?_ ?_ ?_ (fun k => absurd (hT .asks trivial) k) ?_ ?_ ?_
    all_goals exact fun _ => rfl
  unfold State.askAt
  dsimp only
  split
  · exact (notes (lowers _ _) _).transmit (hT .queue trivial)
      (.ask e.station e.code (BitVec.ofNat 8 (min l.uncommitted (min e.quantity 4)))) (hT (.absent _) (.inl rfl))
      fun _ => nofun
  · refine (notes (lowers _ _) _).setXu _ ?_ ?_ ?_ ?_ ?_ ?_ (fun k => absurd (hT .xuWaiting trivial) k) ?_
    all_goals exact fun _ => rfl

theorem Only.wantFor (h : Only T a s) (hT : handT Q ≤ T) {r : LineRef} (hr : Q r.p) (l : LineRec) :
    Only T a (s.wantFor r l) := by
  unfold State.wantFor
  split
  · exact (h.transmit (hT .queue trivial) (.want l.item.code (BitVec.ofNat 8 l.uncommitted))
      (hT (.absent _) (.inr (.inl rfl))) fun _ => nofun).noteLine _ _ _ (hT (.build .lines r.p) hr) fun l => ⟨l.pendingAsk, true, false, rfl⟩
  · exact h.noteLine _ _ _ (hT (.build .lines r.p) hr) fun l => ⟨l.pendingAsk, l.wantSent, true, rfl⟩

theorem Only.takeLine (h : Only T a s) (hT : handT Q ≤ T) {r : LineRef} (hr : Q r.p) : Only T a (s.takeLine r) := by
  unfold State.takeLine
  split
  · exact h
  · split
    · split
      · split
        · exact h.askAt hT hr _ _
        · exact h
      · split
        · exact h
        · exact h.wantFor hT hr _
    · exact h

theorem Only.handLine (h : Only T a s) (hT : handT Q ≤ T) {r : LineRef} (hr : Q r.p) : Only T a (s.handLine r) := by
  unfold State.handLine
  split
  · exact h.takeLine hT hr
  · exact h

theorem Only.clearAsk (h : Only T a s) (ha : T .asks) (hw : T .xuWaiting) {r : LineRef} (hl : T (.build .lines r.p)) :
    Only T a (s.clearAsk r) := by
  refine Only.noteLine ?_ _ _ _ hl fun l => ⟨0, l.wantSent, l.wantRefused, rfl⟩
  refine h.setXu _ ?_ ?_ ?_ ?_ (fun k => absurd ha k) ?_ (fun k => absurd hw k) ?_
  all_goals exact fun _ => rfl

theorem Only.clearAndHand (h : Only T a s) (hT : handT Q ≤ T) {r : LineRef} (hr : Q r.p) :
    Only T a (s.clearAndHand r) :=
  (h.clearAsk (hT .asks trivial) (hT .xuWaiting trivial) (hT (.build .lines r.p) hr)).handLine hT hr

theorem Only.produceTaken (h : Only T a s) (hT : handT Q ≤ T) (hQ : ∀ q, Q q) (dest : Station) (n : Seq)
    (received : Nat) : Only T a (s.produceTaken dest n received) := by
  have waits {u : State} (k : Only T a u) (ws : List Waiting) : Only T a (u.setXu { u.xu with waiting := ws }) := by
    refine k.setXu _ ?_ ?_ ?_ ?_ ?_ ?_ (fun k => absurd (hT .xuWaiting trivial) k) ?_
    all_goals exact fun _ => rfl
  unfold State.produceTaken
  extract_lets f
  split
  · exact h.transmit (hT .queue trivial) f (hT (.absent f) (.inr (.inr rfl))) fun _ => nofun
  · split
    · exact waits h _
    · split
      · exact h
      · exact (waits h _).clearAndHand hT (hQ _)

theorem Only.unlinkBuild (h : Only T a s) (ha : T .asks) (hw : T .xuWaiting) (he : T .expected) {p : Pos}
    (hl : T (.build .lines p)) : Only T a (s.unlinkBuild p) := by
  unfold State.unlinkBuild
  extract_lets refs t
  have ht : Only T a t := by
    refine h.foldl_mem _ _ fun u r hr k => k.clearAsk ha hw ?_
    obtain ⟨x, hx, rfl⟩ := List.mem_map.1 hr
    exact of_decide_eq_true (List.mem_filter.1 hx).2 ▸ hl
  refine ht.setXu _ ?_ ?_ ?_ (fun k => absurd he k) ?_ ?_ ?_ ?_
  all_goals exact fun _ => rfl

/-! ### Earmarks -/

theorem Only.earmark (h : Only T a s) (hT : fillT Q ≤ T) (i : Nat) {r : LineRef} (hr : Q r.p) :
    Only T a (s.earmark i r) := by
  unfold State.earmark
  split
  case h_1 u age hs =>
    have taken : Only T a (s.setSlot i (.occupied u (.earmarked r.p r.line))) := by
      refine h.setSlot i _ (hT .slots trivial) (fun _ => ?_) fun R nR => ?_
      · rw [hs]
        rfl
      · have hQR : ∀ q, Q q → R q := not_not.1 fun k => nR (hT (.shelf R) k)
        exact .inr (.inl ⟨u, age, r.p, r.line, hs, hQR _ hr, .inl rfl⟩)
    have joins {t : State} (k : Only T a t) (ns : List UnitNo) :
        Only T a (t.setSu { t.su with earmarkOrder := ns }) := k.trans fun x hx => by
      have same := Part.Same.refl t x
      cases x
      case earmarkOrder => exact absurd (hT .earmarkOrder trivial) hx
      all_goals exact same
    refine ((joins taken _).pruneClocks (hT .clocks trivial)).modLine r.p r.line _ (hT (.build .lines r.p) hr) ?_ ?_
      (fun k => absurd (hT (.build .earmarks r.p) hr) k) ?_
    · exact fun _ _ => rfl
    · exact fun _ _ => rfl
    · intro _ l hl
      simp only [LineRec.uncovered, LineRec.heldUnits] at hl ⊢
      omega
  case h_2 => exact h

theorem Only.fillLine (h : Only T a s) (hT : fillT Q ≤ T) (test : State → UnitRec → Bool) {r : LineRef} (hr : Q r.p) :
    Only T a (s.fillLine test r) := by
  refine h.foldl _ (fun t i k => ?_) _
  unfold State.fillSlot
  split
  · split
    · exact k.earmark hT i hr
    · exact k
  · exact k

theorem mem_linesOf {s : State} {p : Pos} {r : LineRef} (h : r ∈ s.linesOf p) : r.p = p := by
  obtain ⟨i, -, rfl⟩ := List.mem_map.1 h
  rfl

theorem Only.exactFill (h : Only T a s) (hT : fillT Q ≤ T) {p : Pos} (hp : Q p) : Only T a (s.exactFill p) :=
  h.foldl_mem _ _ fun _ _ hr k => k.fillLine hT _ (mem_linesOf hr ▸ hp)

theorem Only.handLines (h : Only T a s) (hT : handT Q ≤ T) {p : Pos} (hp : Q p) : Only T a (s.handLines p) :=
  h.foldl_mem _ _ fun _ _ hr k => k.handLine hT (mem_linesOf hr ▸ hp)

/-! ### Causes -/

theorem Only.setState (h : Only T a s) {p : Pos} (hp : T (.build .state p)) (st : BuildState) :
    Only T a (s.setBuild p { s.build p with state := st }) := by
  refine h.setBuild p _ fun k hk => ?_
  have same := BuildPart.Same.refl (s.build p) k
  cases k
  case state => exact absurd hp hk
  all_goals exact same

theorem Only.raiseAt (h : Only T a s) (hT : raiseT Q ≤ T) {p : Pos} (hp : Q p) (saved : SavedState) (idx : Nat)
    (cs : List Raised) : Only T a (s.raiseAt p saved idx cs) := by
  have hpl := (panelT_le_raiseT Q).trans hT
  have sets {u : State} (k : Only T a u) (v : Option Hold) : Only T a (u.setHold p v) :=
    k.setHold p v (hT (.hold p) hp) fun n => absurd (hT (.causes p) hp) n
  have told (xs : List Raised) : Only T a (xs.foldl (State.reportCause p) s) :=
    h.foldl _ (fun _ _ k => k.report hpl _ _ _ _) _
  unfold State.raiseAt
  dsimp only
  split
  · exact h
  · split
    · exact sets (told _) _
    · exact ((((sets (told _) _).setState (hT (.build .state p) hp) _).showBuild hpl p).tryRemoval
        ((removalT_le_raiseT Q).trans hT) hp)

theorem Only.raise (h : Only T a s) (hT : raiseT Q ≤ T) {p : Pos} (hp : Q p) (c : Raised) : Only T a (s.raise p c) :=
  (h.raiseAt hT hp _ _ _).showTray ((panelT_le_raiseT Q).trans hT) p

theorem Only.raiseChill (h : Only T a s) (hT : raiseT Q ≤ T) {p : Pos} (hp : Q p) (u : UnitNo) :
    Only T a (State.raiseChill p s u) := by
  unfold State.raiseChill
  split
  · exact h.raise hT hp _
  · exact h

/-! ### Builds that go on -/

theorem Only.seal (h : Only T a s) (hT : worksT Q ≤ T) {p : Pos} (hp : Q p) (total : Nat) (weight : Int) :
    Only T a (s.seal p total weight) := by
  have sealed : Only T a ((s.setBuild p { s.build p with state := .sealed, trayWanted := false }).showBuild p) := by
    refine (h.setBuild p _ fun k hk => ?_).showBuild ((panelT_le_worksT Q).trans hT) p
    have same := BuildPart.Same.refl (s.build p) k
    cases k
    case state => exact absurd (hT (.build .state p) hp) hk
    case trayWanted => exact absurd (hT (.build .trayWanted p) hp) hk
    all_goals exact same
  unfold State.seal
  dsimp only
  split
  case h_1 o _ =>
    exact sealed.produceCu (hT .queue trivial) (hT .cuWaiting trivial) (.done o _ _ _) (hT (.absent _) rfl)
      fun _ => nofun
  case h_2 => exact sealed

theorem union_absorbed {x y : CauseSet} (h : x.union y = y) (z : CauseSet) : x.union (y.union z) = y.union z := by
  obtain ⟨a, b, c, d, e⟩ := x
  obtain ⟨a', b', c', d', e'⟩ := y
  simp only [CauseSet.union, CauseSet.mk.injEq] at h ⊢
  simp only [← Bool.or_assoc, h, and_self]

/-- A valuation's causes join the sticky flags. -/
theorem Only.joinSticky (h : Only T a s) {p : Pos} (hT : T (.val p)) (c : CauseSet) :
    Only T a (s.setVal p ⟨c, (s.vu.get p).sticky.union c⟩) :=
  h.setVal p _ hT fun _ _ hx => union_absorbed hx c

theorem Only.runCheck (h : Only T a s) (hT : worksT Q ≤ T) {p : Pos} (hp : Q p) (resumed : List Cause) :
    Only T a (s.runCheck p resumed) := by
  unfold State.runCheck
  extract_lets r cs t
  have ht : Only T a t := h.joinSticky (hT (.val p) hp) _
  split
  · exact ht.seal hT hp _ _
  · exact ht.raiseAt ((raiseT_le_worksT Q).trans hT) hp _ _ _

theorem Only.startPut (h : Only T a s) (hT : worksT Q ≤ T) {p : Pos} (hp : Q p) (e : PlanEntry)
    (idle : s.put p = none) : Only T a (s.startPut p e) := by
  have hpl := (panelT_le_worksT Q).trans hT
  unfold State.startPut
  split
  case h_1 => exact h
  case h_2 i hi =>
    split
    case h_2 => exact h
    case h_1 u q l hs =>
      split
      case isFalse => exact h
      case isTrue e' =>
        subst e'
        extract_lets t
        have hset : Only T a (s.setSlot i (.occupied u (.putting q l))) := by
          refine h.setSlot i _ (hT .slots trivial) (fun _ => ?_) fun R nR => ?_
          · rw [hs]
            rfl
          · have hQR : ∀ q, Q q → R q := not_not.1 fun k => nR (hT (.shelf R) k)
            exact .inr (.inr (.inl ⟨u, q, l, hs, hQR _ hp, rfl⟩))
        have ht : Only T a t := by
          refine hset.modLine q l _ (hT (.build .lines q) hp) ?_ ?_
            (fun k => absurd (hT (.build .earmarks q) hp) k) ?_
          · exact fun _ _ => rfl
          · exact fun _ _ => rfl
          · intro _ l hl
            simp only [LineRec.uncovered, LineRec.heldUnits] at hl ⊢
            omega
        have idle' : t.showShelf.put q = none := by
          rw [State.showShelf_put]
          exact idle
        exact (((ht.showShelf hpl).setPut q _ (hT (.put q) hp) (fun _ => idle')
          fun k => absurd (hT (.putPending q) hp) k).showTray hpl q).showBuild hpl q

theorem Only.nextPut (h : Only T a s) (hT : worksT Q ≤ T) {p : Pos} (hp : Q p) : Only T a (s.nextPut p) := by
  unfold State.nextPut
  extract_lets b
  split
  case isFalse => exact h
  case isTrue k =>
    split
    · split
      · exact h.runCheck hT hp _
      · exact h
    · split
      · exact h.showBuild ((panelT_le_worksT Q).trans hT) p
      · exact h.startPut hT hp _ (Option.isNone_iff_eq_none.1 k.2.2.2.2)

theorem Only.takeTare (h : Only T a s) (hT : worksT Q ≤ T) {p : Pos} (hp : Q p) : Only T a (s.takeTare p) := by
  unfold State.takeTare
  split
  · split
    · refine Only.nextPut ?_ hT hp
      refine (h.setBuild p _ fun k hk => ?_).showBuild ((panelT_le_worksT Q).trans hT) p
      have same := BuildPart.Same.refl (s.build p) k
      cases k
      case tare => exact absurd (hT (.build .tare p) hp) hk
      case trayWanted => exact absurd (hT (.build .trayWanted p) hp) hk
      all_goals exact same
    · exact h
  · exact h

theorem Only.enterPutting (h : Only T a s) (hT : worksT Q ≤ T) {p : Pos} (hp : Q p) (plan : List PlanEntry) :
    Only T a (s.enterPutting p plan) := by
  refine Only.nextPut (Only.takeTare ?_ hT hp) hT hp
  refine (h.setBuild p _ fun k hk => ?_).showBuild ((panelT_le_worksT Q).trans hT) p
  have same := BuildPart.Same.refl (s.build p) k
  cases k
  case state => exact absurd (hT (.build .state p) hp) hk
  case plan => exact absurd (hT (.build .plan p) hp) hk
  case trayWanted => exact absurd (hT (.build .trayWanted p) hp) hk
  case regatherDue => exact absurd (hT (.build .regatherDue p) hp) hk
  all_goals exact same

theorem Only.planFull (h : Only T a s) (hT : worksT Q ≤ T) {p : Pos} (hp : Q p) (e : PlanFail) :
    Only T a (s.planFull p e) := by
  refine Only.raiseAt ?_ ((raiseT_le_worksT Q).trans hT) hp _ _ _
  refine h.setBuild p _ fun k hk => ?_
  have same := BuildPart.Same.refl (s.build p) k
  cases k
  case plan => exact absurd (hT (.build .plan p) hp) hk
  all_goals exact same

theorem Only.coverage (h : Only T a s) (hT : worksT Q ≤ T) {p : Pos} (hp : Q p) : Only T a (s.coverage p) := by
  unfold State.coverage
  split
  · split
    · exact h.enterPutting hT hp _
    · exact h.planFull hT hp _
  · exact h

theorem Only.resumeOp (h : Only T a s) {p : Pos} (hp : T (.put p)) (hb : T (.busy p)) : Only T a (s.resumeOp p) := by
  unfold State.resumeOp
  split
  case h_1 => exact h
  case h_2 r hr =>
    have sets (v : PutRec) (hv : v.kind = r.kind) : Only T a (s.setPut p (some v)) :=
      h.setPut p _ hp (fun n => absurd hb n) fun _ => by
        rw [State.putPending, State.putPending, State.setPut_put_same, hr]
        simp only [hv]
    split
    · split
      · exact sets _ rfl
      · exact h
    · exact sets _ rfl

/-! ### Gathering and matching -/

theorem Only.regather (h : Only T a s) (hT : gatherT Q ≤ T) {p : Pos} (hp : Q p) : Only T a (s.regather p) := by
  have hw := ((worksT_le_matchT Q).trans (matchT_le_gatherT Q)).trans hT
  refine Only.coverage (Only.handLines (Only.exactFill ?_
    (((fillT_le_matchT Q).trans (matchT_le_gatherT Q)).trans hT) hp) ((handT_le_gatherT Q).trans hT) hp) hw hp
  refine (h.setBuild p _ fun k hk => ?_).showBuild ((panelT_le_worksT Q).trans hw) p
  have same := BuildPart.Same.refl (s.build p) k
  cases k
  case state => exact absurd (hT (.build .state p) hp) hk
  case plan => exact absurd (hT (.build .plan p) hp) hk
  case trayWanted => exact absurd (hT (.build .trayWanted p) hp) hk
  case regatherDue => exact absurd (hT (.build .regatherDue p) hp) hk
  case gatherLeft => exact absurd (hT (.build .gatherLeft p) hp) hk
  case lines => exact absurd (hT (.build .lines p) hp) hk
  case counts => exact absurd (hT (.build .counts p) hp) hk
  case items => exact List.map_map ..
  case earmarks => exact List.map_map ..
  case covered => exact fun hc => (List.all_map ..).trans hc
  all_goals exact same

theorem Only.lineLost (h : Only T a s) (hT : gatherT Q ≤ T) {r : LineRef} (hr : Q r.p) : Only T a (s.lineLost r) := by
  unfold State.lineLost
  split
  · exact h.handLine ((handT_le_gatherT Q).trans hT) hr
  · split
    · refine h.setBuild r.p _ fun k hk => ?_
      have same := BuildPart.Same.refl (s.build r.p) k
      cases k
      case regatherDue => exact absurd (hT (.build .regatherDue r.p) hr) hk
      all_goals exact same
    · exact h.regather hT hr
  · exact h

theorem Only.takeUnit (h : Only T a s) (hT : matchT Q ≤ T) (i : Nat) {r : LineRef} (hr : Q r.p) :
    Only T a (s.takeUnit i r) :=
  (h.earmark ((fillT_le_matchT Q).trans hT) i hr).coverage ((worksT_le_matchT Q).trans hT) hr

theorem mem_byClaimOrder {s : State} {p : Pos} (h : p ∈ s.byClaimOrder) : (s.build p).claimOrder ≠ none := by
  obtain ⟨x, hx, rfl⟩ := List.mem_map.1 h
  have perm : ∀ (acc xs : List (Nat × Pos)), x ∈ xs.foldl (fun acc x =>
      insertBy (fun x y => decide (x.1 < y.1)) x acc) acc → x ∈ acc ∨ x ∈ xs := by
    intro acc xs
    induction xs generalizing acc with
    | nil => exact .inl
    | cons y ys ih =>
      intro hx
      obtain hx | hx := ih _ hx
      · obtain rfl | hx := mem_insertBy.1 hx
        · exact .inr List.mem_cons_self
        · exact .inl hx
      · exact .inr (List.mem_cons_of_mem y hx)
  obtain hx | hx := perm _ _ hx
  · simp at hx
  · obtain ⟨p, -, hp⟩ := List.mem_filterMap.1 hx
    obtain ⟨c, hc, rfl⟩ := Option.map_eq_some_iff.1 hp
    simp [hc]

theorem mem_allLines {s : State} {r : LineRef} (h : r ∈ s.allLines) :
    r.p ∈ s.byClaimOrder ∧ r.line < (s.build r.p).lines.length := by
  obtain ⟨rs, hrs, hr⟩ := List.mem_flatten.1 h
  obtain ⟨p, hp, rfl⟩ := List.mem_map.1 hrs
  obtain ⟨i, hi, rfl⟩ := List.mem_map.1 hr
  exact ⟨hp, List.mem_range.1 hi⟩

/-- Units are matched to eligible builds that hold claim orders alone. -/
theorem Only.matchUnit (h : Only T a s) (hT : matchT Q ≤ T)
    (hQ : ∀ q, (s.build q).claimOrder ≠ none → (s.build q).eligible = true → Q q) (i : Nat) :
    Only T a (s.matchUnit i) := by
  unfold State.matchUnit
  split
  · exact h
  · split
    case h_1 r hr =>
      obtain ⟨hm, hl⟩ := And.intro (List.find?_some hr) (List.mem_of_find?_eq_some hr)
      rw [Bool.and_eq_true] at hm
      exact h.takeUnit hT i (hQ _ (mem_byClaimOrder (mem_allLines hl).1) hm.1)
    case h_2 => exact h

theorem Only.matchUnits (h : Only T a s) (hT : matchT Q ≤ T)
    (hQ : ∀ q, (s.build q).claimOrder ≠ none → (s.build q).eligible = true → Q q) (is : List Nat) :
    Only T a (s.matchUnits is) := by
  unfold State.matchUnits
  induction is generalizing s with
  | nil => exact h
  | cons i is ih =>
    refine ih (h.matchUnit hT hQ i) fun q ho he => ?_
    by_contra nq
    have same : (s.matchUnit i).build q = s.build q :=
      ((Only.refl _ s).matchUnit (le_refl (matchT Q)) hQ i).build_eq fun k => by
        cases k <;> first | exact nq | exact id
    rw [same] at ho he
    exact nq (hQ q ho he)

/-! ### Units that change their place -/

theorem Only.shelve (h : Only T a s) (hpl : panelT ≤ T) (hs : T .slots) (hu : T .units) (hf : ∀ R, T (.shelf R))
    (he : T .earmarkOrder) (i : Nat) (u : UnitRec) : Only T a (s.shelve i u) :=
  ((h.setSlot i _ hs (fun k => absurd hu k) fun R k => absurd (hf R) k).showShelf hpl).dropEarmark he _

theorem Only.freeEarmarks (h : Only T a s) (hs : T .slots) (hu : T .units) (hf : ∀ R, T (.shelf R)) (he : T .earmarkOrder)
    {p : Pos} (hl : T (.build .lines p)) (hr : T (.build .earmarks p)) (hc : T (.build .covered p)) :
    Only T a (s.freeEarmarks p) := by
  refine h.foldl _ (fun t i k => ?_) _
  split
  · refine ((k.setSlot i _ hs (fun n => absurd hu n) fun R n => absurd (hf R) n).dropEarmark he _).modLine p _ _ hl
      ?_ ?_ (fun n => absurd hr n) fun n => absurd hc n
    all_goals exact fun _ _ => rfl
  · exact k

theorem Only.exclude (h : Only T a s) {p : Pos} (hp : T (.build .exclusion p)) (u : UnitNo) : Only T a (s.exclude p u) := by
  refine h.setBuild p _ fun k hk => ?_
  have same := BuildPart.Same.refl (s.build p) k
  cases k
  case exclusion => exact absurd hp hk
  all_goals exact same

end

end Sys2Proof.Proofs
end


section
/-! Positions that look for an order (R27, R28), and positions that leave their build (R50). -/

namespace Sys2Proof.Proofs

open Sys2Proof.Machine

/-! ### The notice a position marks -/

theorem qualifies_iff (n : Notice) :
    n.qualifies = true ↔ n.state = .opened ∧ n.releasedByMe = false ∧ n.info ≠ none := by
  simp [Notice.qualifies, and_assoc, Option.isSome_iff_ne_none]

theorem bestCandidate_mem {ns : List Notice} {n : Notice} (h : bestCandidate ns = some n) :
    n ∈ ns ∧ n.qualifies = true := by
  induction ns with
  | nil => simp [bestCandidate] at h
  | cons m ms ih =>
    rw [bestCandidate] at h
    split at h
    case h_1 =>
      split at h
      · obtain rfl := Option.some.inj h
        exact ⟨List.mem_cons_self, ‹_›⟩
      · simp at h
    case h_2 k hk =>
      split at h
      case isTrue hq =>
        obtain rfl := Option.some.inj h
        rw [Bool.and_eq_true] at hq
        exact ⟨List.mem_cons_self, hq.1⟩
      case isFalse =>
        obtain rfl := Option.some.inj h
        obtain ⟨hm, hq⟩ := ih hk
        exact ⟨List.mem_cons_of_mem m hm, hq⟩

theorem bestCandidate_eq_none {ns : List Notice} : bestCandidate ns = none ↔ ∀ n ∈ ns, n.qualifies = false := by
  induction ns with
  | nil => simp [bestCandidate]
  | cons m ms ih =>
    rw [bestCandidate, List.forall_mem_cons]
    cases hb : bestCandidate ms with
    | none =>
      have := ih.1 hb
      by_cases hq : m.qualifies = true <;> simp [hq]
      exact this
    | some k =>
      have : ¬ ∀ n ∈ ms, n.qualifies = false := fun h => by simp [ih.2 h] at hb
      dsimp only
      split <;> simp [this]

theorem look_cases (s : State) (p : Pos) : s.look p = s
    ∨ ∃ n ∈ s.cu.notices, n.qualifies = true ∧ (s.build p).state = .empty ∧ s.jc.state = .active
        ∧ s.look p = s.mark p n := by
  unfold State.look
  split
  case isFalse => exact .inl rfl
  case isTrue looks =>
    rw [Bool.and_eq_true, State.mayLook, Bool.and_eq_true, Bool.and_eq_true, Bool.and_eq_true] at looks
    obtain ⟨empty, ⟨⟨active, -⟩, -⟩, -⟩ := looks
    split
    case h_1 n hn =>
      obtain ⟨hm, hq⟩ := bestCandidate_mem hn
      exact .inr ⟨n, hm, hq, of_decide_eq_true empty, of_decide_eq_true active, rfl⟩
    case h_2 => exact .inl rfl

theorem produceCu_notices (s : State) (f : Frame) : (s.produceCu f).cu.notices = s.cu.notices := by
  unfold State.produceCu State.transmit
  split
  · split <;> rfl
  · rfl

theorem produceCu_build (s : State) (f : Frame) (q : Pos) : (s.produceCu f).build q = s.build q := by
  unfold State.produceCu State.transmit
  split
  · split <;> rfl
  · rfl

theorem mark_notices (s : State) (p : Pos) (n : Notice) : (s.mark p n).cu.notices
    = s.cu.notices.map (fun m => if m.order = n.order then { m with state := .marked p } else m) := by
  unfold State.mark
  rw [State.showBuild_cu, produceCu_notices]
  rfl

theorem mark_build_same (s : State) (p : Pos) (n : Notice) :
    (s.mark p n).build p = { s.build p with state := .claiming, link := some n.order } := by
  unfold State.mark
  rw [State.showBuild_build, produceCu_build, State.setBuild_build_same]
  rfl

theorem mark_build_other (s : State) {p q : Pos} (n : Notice) (h : q ≠ p) : (s.mark p n).build q = s.build q := by
  unfold State.mark
  rw [State.showBuild_build, produceCu_build, State.setBuild_build_other _ _ h]
  rfl

/-! ### How marking changes the notice list -/

/-- A notice as it was, or marked for a position. -/
def MarkedFrom (m m' : Notice) : Prop := m' = m ∨ ∃ p, m' = { m with state := .marked p }

theorem MarkedFrom.order {m m' : Notice} (h : MarkedFrom m m') : m'.order = m.order := by
  obtain rfl | ⟨p, rfl⟩ := h <;> rfl

/-- The notices of `t` are those of `s` in their places, some of orders that had a qualifying notice marked. -/
def Marks (s t : State) : Prop :=
  ∃ g : Notice → Notice, t.cu.notices = s.cu.notices.map g
    ∧ ∀ m, g m = m ∨ ((∃ p, g m = { m with state := .marked p })
        ∧ ∃ n ∈ s.cu.notices, n.order = m.order ∧ n.qualifies = true)

theorem Marks.of_eq {s t : State} (h : t.cu.notices = s.cu.notices) : Marks s t :=
  ⟨id, by simp [h], fun _ => .inl rfl⟩

theorem Marks.trans {s t u : State} (h : Marks s t) (h' : Marks t u) : Marks s u := by
  obtain ⟨g, hg, hm⟩ := h
  obtain ⟨g', hg', hm'⟩ := h'
  have order (m : Notice) : (g m).order = m.order := MarkedFrom.order ((hm m).imp_right And.left)
  refine ⟨g' ∘ g, by rw [hg', hg, List.map_map], fun m => ?_⟩
  obtain e' | ⟨⟨p, e'⟩, n, hn, ho, hq⟩ := hm' (g m)
  · rw [Function.comp_apply, e']
    exact hm m
  · refine .inr ⟨⟨p, ?_⟩, ?_⟩
    · rw [Function.comp_apply, e']
      obtain e | ⟨⟨q, e⟩, -⟩ := hm m <;> rw [e]
    · rw [hg, List.mem_map] at hn
      obtain ⟨n, hn, rfl⟩ := hn
      obtain e | ⟨⟨q, e⟩, -⟩ := hm n
      · rw [e] at ho hq
        exact ⟨n, hn, ho.trans (order m), hq⟩
      · rw [e, qualifies_iff] at hq
        simp at hq

theorem look_marks (s : State) (p : Pos) : Marks s (s.look p) := by
  obtain e | ⟨n, hn, hq, -, -, e⟩ := look_cases s p
  · exact .of_eq (by rw [e])
  · rw [e]
    refine ⟨_, mark_notices s p n, fun m => ?_⟩
    by_cases h : m.order = n.order
    · exact .inr ⟨⟨p, if_pos h⟩, n, hn, h.symm, hq⟩
    · exact .inl (if_neg h)

theorem foldl_look_marks (ps : List Pos) (s : State) : Marks s (ps.foldl State.look s) := by
  induction ps generalizing s with
  | nil => exact .of_eq rfl
  | cons p ps ih => exact (look_marks s p).trans (ih _)

theorem lookAll_marks (s : State) : Marks s s.lookAll := foldl_look_marks _ s

/-- What marking leaves of every notice. -/
theorem Marks.facts {s t : State} (h : Marks s t) {α : Type} (f : Notice → α)
    (hf : ∀ (m : Notice) (p : Pos), f { m with state := .marked p } = f m) :
    t.cu.notices.map f = s.cu.notices.map f := by
  obtain ⟨g, hg, hm⟩ := h
  rw [hg, List.map_map]
  refine List.map_congr_left fun m _ => ?_
  obtain e | ⟨⟨p, e⟩, -⟩ := hm m
  · rw [Function.comp_apply, e]
  · rw [Function.comp_apply, e, hf]

theorem Marks.mem_of_order {s t : State} (h : Marks s t) {o : OrderId}
    (hs : ∀ n ∈ s.cu.notices, n.order = o → n.qualifies = false) {m : Notice} (ho : m.order = o) :
    m ∈ t.cu.notices ↔ m ∈ s.cu.notices := by
  obtain ⟨g, hg, hm⟩ := h
  have stands (n : Notice) (hn : n.order = o) : g n = n := by
    obtain e | ⟨-, k, hk, hko, hq⟩ := hm n
    · exact e
    · simp [hs k hk (hko.trans hn)] at hq
  have order (n : Notice) : (g n).order = n.order := MarkedFrom.order ((hm n).imp_right And.left)
  rw [hg, List.mem_map]
  constructor
  · rintro ⟨n, hn, rfl⟩
    rwa [stands n ((order n).symm.trans ho)]
  · exact fun hmem => ⟨m, hmem, stands m ho⟩

theorem Marks.notice {s t : State} (h : Marks s t) {o : OrderId} {n : Notice} (hn : s.notice? o = some n) :
    ∃ m, t.notice? o = some m ∧ MarkedFrom n m := by
  obtain ⟨g, hg, hm⟩ := h
  have order (m : Notice) : (g m).order = m.order := MarkedFrom.order ((hm m).imp_right And.left)
  refine ⟨g n, ?_, (hm n).imp_right And.left⟩
  unfold State.notice? at hn ⊢
  rw [hg, List.find?_map]
  have : ((fun n => decide (n.order = o)) ∘ g) = fun n => decide (n.order = o) := by
    funext m
    simp [order m]
  rw [this, hn]
  rfl

theorem Marks.notice_eq {s t : State} (h : Marks s t) {o : OrderId}
    (hs : ∀ n ∈ s.cu.notices, n.order = o → n.qualifies = false) : t.notice? o = s.notice? o := by
  obtain ⟨g, hg, hm⟩ := h
  have order (m : Notice) : (g m).order = m.order := MarkedFrom.order ((hm m).imp_right And.left)
  unfold State.notice?
  rw [hg, List.find?_map]
  have : ((fun n => decide (n.order = o)) ∘ g) = fun n => decide (n.order = o) := by
    funext m
    simp [order m]
  rw [this]
  cases hf : s.cu.notices.find? (fun n => decide (n.order = o)) with
  | none => rfl
  | some n =>
    have ho : n.order = o := by simpa using List.find?_some hf
    obtain e | ⟨-, k, hk, hko, hq⟩ := hm n
    · exact congrArg some e
    · simp [hs k hk (hko.trans ho)] at hq

/-! ### What the notice list holds after an update -/

theorem notice?_modNotice (s : State) (o : OrderId) (f : Notice → Notice) (hf : ∀ n, (f n).order = n.order) :
    (s.modNotice o f).notice? o = (s.notice? o).map f := by
  unfold State.notice? State.modNotice
  rw [State.setCu_cu, List.find?_map]
  have : ((fun n => decide (n.order = o)) ∘ fun n => if n.order = o then f n else n)
      = fun n => decide (n.order = o) := by
    funext m
    by_cases h : m.order = o
    · simp [h, hf]
    · simp [h]
  rw [this]
  cases h : s.cu.notices.find? (fun n => decide (n.order = o)) with
  | none => rfl
  | some n =>
    have ho : n.order = o := by simpa using List.find?_some h
    simp [ho]

theorem mem_modNotice {s : State} {o : OrderId} {f : Notice → Notice} {m : Notice}
    (h : m ∈ (s.modNotice o f).cu.notices) (ho : m.order = o) : ∃ n ∈ s.cu.notices, n.order = o ∧ m = f n := by
  obtain ⟨n, hn, rfl⟩ := List.mem_map.1 h
  split at ho
  case isTrue e => exact ⟨n, hn, e, if_pos e⟩
  case isFalse e => exact absurd ho e

theorem mem_removeNotice {s : State} {o : OrderId} {m : Notice} :
    m ∈ (s.removeNotice o).cu.notices ↔ m ∈ s.cu.notices ∧ m.order ≠ o := by
  simp [State.removeNotice]

/-! ### A position after it has looked -/

/-- A position is EMPTY, or it has marked a notice, of an order other than `o`, and claims it. -/
def Looked (t : State) (p : Pos) (o : OrderId) : Prop :=
  t.build p = .cleared ∨ ∃ n ∈ t.cu.notices, n.order ≠ o ∧ n.state = .marked p
    ∧ t.build p = { Build.cleared with state := .claiming, link := some n.order }

/-- A position that has been emptied, as the positions look one after another. -/
def LooksFor (t : State) (p : Pos) (o : OrderId) : Prop :=
  (∀ n ∈ t.cu.notices, n.order = o → n.qualifies = false)
  ∧ (t.build p = .cleared ∨ ∃ n ∈ t.cu.notices, n.order ≠ o
      ∧ (∀ m ∈ t.cu.notices, m.order = n.order → m.state = .marked p)
      ∧ t.build p = { Build.cleared with state := .claiming, link := some n.order })

theorem look_looksFor {t : State} {p : Pos} {o : OrderId} (h : LooksFor t p o) (q : Pos) : LooksFor (t.look q) p o := by
  obtain ⟨hN, hb⟩ := h
  refine ⟨fun n hn ho => hN n (((look_marks t q).mem_of_order hN ho).1 hn) ho, ?_⟩
  obtain e | ⟨n, hn, hq, empty, -, e⟩ := look_cases t q
  · rw [e]
    exact hb
  · have other : n.order ≠ o := fun ho => by simp [hN n hn ho] at hq
    rw [e, mark_notices]
    by_cases hpq : p = q
    · subst hpq
      have cleared : t.build p = .cleared := hb.resolve_right fun ⟨_, _, _, _, hb⟩ => by simp [hb] at empty
      refine .inr ⟨_, List.mem_map_of_mem hn, ?_, fun m hm hmo => ?_, ?_⟩
      · rw [if_pos rfl]
        exact other
      · rw [if_pos rfl] at hmo
        obtain ⟨k, hk, rfl⟩ := List.mem_map.1 hm
        split at hmo
        case isTrue ho => rw [if_pos ho]
        case isFalse ho => exact absurd hmo ho
      · rw [mark_build_same, cleared, if_pos rfl]
    · rw [mark_build_other _ _ hpq]
      refine hb.imp_right fun ⟨m, hm, hmo, marked, hb⟩ => ?_
      have apart : m.order ≠ n.order := fun ho => by
        rw [qualifies_iff, marked n hn ho.symm] at hq
        simp at hq
      refine ⟨m, List.mem_map.2 ⟨m, hm, if_neg apart⟩, hmo, fun k hk hko => ?_, hb⟩
      obtain ⟨k, hk', rfl⟩ := List.mem_map.1 hk
      split at hko
      case isTrue ho => exact absurd (hko.symm.trans ho) apart
      case isFalse ho =>
        rw [if_neg ho]
        exact marked k hk' hko

theorem foldl_look_looksFor {t : State} {p : Pos} {o : OrderId} (h : LooksFor t p o) (qs : List Pos) :
    LooksFor (qs.foldl State.look t) p o := by
  induction qs generalizing t with
  | nil => exact h
  | cons q qs ih => exact ih (look_looksFor h q)

theorem lookAll_looked {t : State} {p : Pos} {o : OrderId} (hN : ∀ n ∈ t.cu.notices, n.order = o → n.qualifies = false)
    (hb : t.build p = .cleared) : Looked t.lookAll p o := by
  obtain ⟨-, h⟩ := foldl_look_looksFor ⟨hN, .inl hb⟩ t.fittedPos
  exact h.imp_right fun ⟨n, hn, ho, marked, hb⟩ => ⟨n, hn, ho, marked n hn rfl, hb⟩

end Sys2Proof.Proofs
end


section
/-! A position that enters EMPTY (R50), and an order that is given up (R135). -/

namespace Sys2Proof.Proofs

open Sys2Proof.Machine

/-! ### Earmarks that are given back -/

/-- A slot whose unit is no longer EARMARKED. -/
def freedSlot : Slot → Slot
  | .occupied u (.earmarked _ _) => .occupied u (.free 0)
  | x => x

theorem freedSlot_idem (x : Slot) : freedSlot (freedSlot x) = freedSlot x := by
  rcases x with _ | _ | ⟨u, _ | _ | _ | _⟩ <;> rfl

/-- One slot of `State.freeEarmarks`. -/
def State.freeSlot (p : Pos) (t : State) (i : Nat) : State :=
  match t.su.slot i with
  | .occupied u (.earmarked _ l) =>
    ((t.setSlot i (.occupied u (.free 0))).dropEarmark u.number).modLine p l
      (fun x => { x with earmarked := x.earmarked - 1 })
  | _ => t

theorem freeEarmarks_eq (s : State) (p : Pos) : s.freeEarmarks p = (s.earmarkedSlots p).foldl (State.freeSlot p) s :=
  rfl

theorem slot_setSlot (s : State) (i j : Nat) (x : Slot) :
    (s.setSlot i x).su.slot j = if j = i ∧ i < s.su.slots.length then x else s.su.slot j := slot_set s.su i j x

theorem slot_beyond {su : Stock} {i : Nat} (h : su.slots.length ≤ i) : su.slot i = .empty none := by
  rw [Stock.slot, List.getElem?_eq_none h]
  rfl

theorem freeSlot_slot (p : Pos) (t : State) (i j : Nat) : (State.freeSlot p t i).su.slot j
    = if j = i then freedSlot (t.su.slot j) else t.su.slot j := by
  unfold State.freeSlot
  split
  case h_1 u q l hi =>
    show Stock.slot (t.setSlot i (.occupied u (.free 0))).su j = _
    rw [slot_setSlot]
    by_cases hj : j = i
    · subst hj
      have inside : j < t.su.slots.length := by
        by_contra out
        rw [slot_beyond (Nat.le_of_not_lt out)] at hi
        cases hi
      rw [if_pos ⟨rfl, inside⟩, if_pos rfl, hi]
      rfl
    · rw [if_neg (fun k => hj k.1), if_neg hj]
  case h_2 hi =>
    by_cases hj : j = i
    · subst hj
      rw [if_pos rfl]
      rcases hs : t.su.slot j with _ | _ | ⟨u, _ | ⟨q, l⟩ | _ | _⟩
      case occupied.earmarked => exact absurd hs (hi u q l)
      all_goals rfl
    · rw [if_neg hj]

theorem foldl_freeSlot_slot (p : Pos) (is : List Nat) (s : State) (j : Nat) :
    (is.foldl (State.freeSlot p) s).su.slot j = if j ∈ is then freedSlot (s.su.slot j) else s.su.slot j := by
  induction is generalizing s with
  | nil => rfl
  | cons i is ih =>
    rw [List.foldl_cons, ih, freeSlot_slot]
    by_cases h : j = i
    · by_cases h' : i ∈ is <;> simp [h, h', freedSlot_idem]
    · by_cases h' : j ∈ is <;> simp [h, h']

theorem mem_numbered {α : Type} {x : α} {n i : Nat} {xs : List α} :
    (i, x) ∈ numbered n xs ↔ n ≤ i ∧ xs[i - n]? = some x := by
  induction xs generalizing n with
  | nil => simp [numbered]
  | cons y ys ih =>
    rw [numbered, List.mem_cons, ih]
    by_cases h : i = n
    · subst h
      simp [eq_comm]
    · simp only [Prod.mk.injEq, h, false_and, false_or]
      by_cases h' : n + 1 ≤ i
      · have e : i - n = (i - (n + 1)) + 1 := by omega
        rw [e, List.getElem?_cons_succ]
        exact ⟨fun k => ⟨by omega, k.2⟩, fun k => ⟨h', k.2⟩⟩
      · exact ⟨fun k => absurd k.1 h', fun k => absurd k.1 (by omega)⟩

theorem mem_earmarkedSlots {s : State} {p : Pos} {i : Nat} :
    i ∈ s.earmarkedSlots p ↔ ∃ u l, s.su.slot i = .occupied u (.earmarked p l) := by
  simp only [State.earmarkedSlots, List.mem_filterMap, Prod.exists, mem_numbered, Nat.zero_le, true_and,
    Nat.sub_zero]
  constructor
  · rintro ⟨j, x, hx, h⟩
    split at h
    case h_1 u q l =>
      split at h
      case isTrue e =>
        obtain rfl := Option.some.inj h
        exact ⟨u, l, by rw [Stock.slot, hx, e]; rfl⟩
      case isFalse => cases h
    case h_2 => cases h
  · rintro ⟨u, l, h⟩
    unfold Stock.slot at h
    cases hx : s.su.slots[i]? with
    | none => simp [hx] at h
    | some x =>
      rw [hx, Option.getD_some] at h
      exact ⟨i, x, hx, by simp [h]⟩

/-- After a build's earmarks are freed its units are FREE, and every other slot is as it was. -/
theorem freeEarmarks_slot (s : State) (p : Pos) (i : Nat) :
    (∀ u l, s.su.slot i = .occupied u (.earmarked p l) → (s.freeEarmarks p).su.slot i = .occupied u (.free 0))
    ∧ ((∀ u l, s.su.slot i ≠ .occupied u (.earmarked p l)) → (s.freeEarmarks p).su.slot i = s.su.slot i) := by
  rw [freeEarmarks_eq, foldl_freeSlot_slot]
  refine ⟨fun u l h => ?_, fun h => if_neg fun k => ?_⟩
  · rw [if_pos (mem_earmarkedSlots.2 ⟨u, l, h⟩), h]
    rfl
  · obtain ⟨u, l, e⟩ := mem_earmarkedSlots.1 k
    exact h u l e

theorem freeEarmarks_not_earmarked (s : State) (p : Pos) (i : Nat) (u : UnitRec) (l : Nat) :
    (s.freeEarmarks p).su.slot i ≠ .occupied u (.earmarked p l) := by
  obtain ⟨freed, stands⟩ := freeEarmarks_slot s p i
  by_cases h : ∃ v k, s.su.slot i = .occupied v (.earmarked p k)
  · obtain ⟨v, k, h⟩ := h
    rw [freed v k h]
    nofun
  · have h : ∀ v k, s.su.slot i ≠ .occupied v (.earmarked p k) := fun v k e => h ⟨v, k, e⟩
    rw [stands h]
    exact h u l

/-! ### The parts a position that enters EMPTY changes -/

/-- Every record of a position. -/
def ownT (p : Pos) : Part → Prop
  | .put q | .busy q | .putPending q | .hold q | .causes q | .val q | .sticky q | .build _ q => q = p
  | _ => False

/-- A position enters EMPTY. -/
def leaveT (p : Pos) : Part → Prop
  | .requests | .amber | .units | .shelf _ | .asks | .xuWaiting | .expected | .notices => True
  | .put _ | .hold _ => True
  | .build .state _ | .build .link _ => True
  | .absent f => f.kind = .done ∨ f.kind = .claim
  | x => matchT (· ≠ p) x ∨ ownT p x

theorem ownT_le_leaveT (p : Pos) : ownT p ≤ leaveT p := by
  intro x h
  cases x
  case build k q => cases k <;> first | exact .inr h | trivial
  case absent => exact h.elim
  all_goals first | exact .inr h | trivial

section
variable {T : Part → Prop} {a s : State}

theorem Only.clearPosition (h : Only T a s) {p : Pos} (hT : ownT p ≤ T) :
    Only T a ((((s.setBuild p .cleared).setVal p .reset).setHold p none).setPut p none) := by
  refine Only.setPut (Only.setHold (Only.setVal (h.setBuild p _ fun k hk => absurd (hT (.build k p) rfl) hk) p _
    (hT (.val p) rfl) fun k => absurd (hT (.sticky p) rfl) k) p _ (hT (.hold p) rfl)
    fun k => absurd (hT (.causes p) rfl) k) p _ (hT (.put p) rfl) (fun k => absurd (hT (.busy p) rfl) k)
    fun k => absurd (hT (.putPending p) rfl) k

end

/-- The state in which a position's records are cleared, before its freed units are matched. -/
def clearedState (s : State) (p : Pos) : State :=
  (((((s.unlinkBuild p).freeEarmarks p).setBuild p .cleared).setVal p .reset).setHold p none).setPut p none

theorem clearedOf_only (s : State) (p : Pos) : Only (leaveT p) s (clearedState s p) := by
  have own := ownT_le_leaveT p
  refine Only.clearPosition (Only.freeEarmarks (Only.unlinkBuild (.refl _ s) trivial trivial trivial
    (own (.build .lines p) rfl)) (.inl trivial) trivial (fun _ => trivial) (.inl trivial)
    (own (.build .lines p) rfl) (own (.build .earmarks p) rfl) (own (.build .covered p) rfl)) own

theorem clearedOf_build (s : State) (p : Pos) : (clearedState s p).build p = .cleared :=
  State.setBuild_build_same _ p _

/-- What the rest of the way to EMPTY changes, after a position's records are cleared. -/
def settleT (p : Pos) : Part → Prop
  | .requests | .amber | .notices => True
  | .put q | .hold q => q ≠ p
  | .build .state _ | .build .link _ => True
  | .absent f => f.kind = .done ∨ f.kind = .claim
  | x => matchT (· ≠ p) x

theorem lookT_le_settleT (p : Pos) (Q : Pos → Prop) : lookT Q ≤ settleT p := by
  intro x h
  cases x
  case build k q => cases k <;> trivial
  case absent => exact .inr h
  all_goals trivial

theorem settleT_le_leaveT (p : Pos) : settleT p ≤ leaveT p := by
  intro x h
  cases x
  case build k q => cases k <;> first | trivial | exact .inl h
  all_goals first | trivial | exact .inl h

/-- The state before the positions look. -/
def settledState (s : State) (p : Pos) : State :=
  (((clearedState s p).matchUnits (s.earmarkedSlots p)).releaseSlot p).showBuild p

/-- Parts that matching for other positions and giving slots change. -/
def shelfT (p : Pos) : Part → Prop
  | .requests | .amber => True
  | .put q | .hold q => q ≠ p
  | x => matchT (· ≠ p) x

theorem matchT_le_shelfT (p : Pos) : matchT (· ≠ p) ≤ shelfT p := by
  intro x h
  cases x
  case build k q => cases k <;> exact h
  all_goals first | exact h | trivial

theorem giveT_le_shelfT (p : Pos) : giveT (· ≠ p) ≤ shelfT p := by
  intro x h
  cases x <;> trivial

theorem shelfT_le_settleT (p : Pos) : shelfT p ≤ settleT p := by
  intro x h
  cases x
  case build k q => cases k <;> first | exact h | trivial
  case absent => exact .inl h
  all_goals first | exact h | trivial

theorem settledOf_only (s : State) (p : Pos) : Only (shelfT p) (clearedState s p) (settledState s p) := by
  have give := giveT_le_shelfT p
  refine Only.showBuild (Only.releaseSlot (Only.matchUnits (.refl _ _) (matchT_le_shelfT p) (fun q hq _ e => ?_) _)
    give trivial p fun _ _ => id) ((panelT_le_giveT _).trans give) p
  rw [e, clearedOf_build] at hq
  exact hq rfl

theorem settle_only (s : State) (p : Pos) : Only (settleT p) (clearedState s p) (s.enterEmpty p) :=
  ((settledOf_only s p).mono (shelfT_le_settleT p)).lookAll (lookT_le_settleT p (fun _ => True)) fun _ => trivial

theorem Only.enterEmpty {T : Part → Prop} {a s : State} (h : Only T a s) {p : Pos} (hT : leaveT p ≤ T) :
    Only T a (s.enterEmpty p) :=
  h.trans (((clearedOf_only s p).trans ((settle_only s p).mono (settleT_le_leaveT p))).mono hT)

/-! ### What EMPTY leaves of the position -/

theorem giveTo_requests (ps : List Pos) (s : State) : ∀ q ∈ (State.giveTo ps s).su.requests, q ∈ s.su.requests := by
  induction ps generalizing s with
  | nil => exact fun _ => id
  | cons p ps ih =>
    intro q hq
    rw [State.giveTo] at hq
    split at hq
    case h_1 => exact hq
    case h_2 i _ =>
      have hq := ih _ q hq
      have requests : ∀ t : State, (t.tryRemoval p).su = t.su := fun t =>
        ((Only.refl _ t).tryRemoval (le_refl (removalT (fun _ => True))) trivial).su_eq (by simp [removalT])
      rw [requests, State.showPositionLamp_su, State.showShelf_su] at hq
      exact List.mem_of_mem_filter hq

theorem releaseSlot_requests (s : State) (p : Pos) : p ∉ (s.releaseSlot p).su.requests := by
  have gone : p ∉ s.su.requests.filter (fun q => decide (q ≠ p)) := by simp
  unfold State.releaseSlot
  extract_lets t
  split
  case h_1 i _ => exact fun h => gone (giveTo_requests _ _ p h)
  case h_2 => exact gone

theorem clearAsk_asks (s : State) (r : LineRef) : (s.clearAsk r).xu.asks
    = s.xu.asks.filter (fun a => decide (a.line ≠ r)) := rfl

theorem foldl_clearAsk_asks (rs : List LineRef) (s : State) : (rs.foldl State.clearAsk s).xu.asks
    = s.xu.asks.filter (fun a => decide (a.line ∉ rs)) := by
  induction rs generalizing s with
  | nil => simp
  | cons r rs ih =>
    rw [List.foldl_cons, ih, clearAsk_asks, List.filter_filter]
    congr 1
    funext a
    by_cases h : a.line = r <;> simp [h]

theorem unlinkBuild_asks (s : State) (p : Pos) : ∀ a ∈ (s.unlinkBuild p).xu.asks, a.line.p ≠ p := by
  intro a ha e
  have ha : a ∈ (((s.xu.asks.filter (fun a => decide (a.line.p = p))).map (·.line)).foldl State.clearAsk s).xu.asks := ha
  rw [foldl_clearAsk_asks, List.mem_filter] at ha
  obtain ⟨hm, hn⟩ := ha
  simp only [decide_eq_true_eq] at hn
  exact hn (List.mem_map_of_mem (List.mem_filter.2 ⟨hm, decide_eq_true e⟩))

theorem unlinkBuild_expected (s : State) (p : Pos) :
    ∀ e ∈ (s.unlinkBuild p).xu.expected, ∀ r, e.link = some r → r.p ≠ p := by
  intro e he r hr hp
  obtain ⟨x, -, rfl⟩ := List.mem_map.1 he
  cases hx : x.link with
  | none => simp [hx] at hr
  | some q =>
    rw [hx] at hr
    by_cases hq : q.p = p
    · simp [hq] at hr
    · simp only [hq, if_false, hx, Option.some.injEq] at hr
      exact hq (hr ▸ hp)

theorem unlinkBuild_slots (s : State) (p : Pos) : (s.unlinkBuild p).su = s.su := by
  have : Only (fun x => x = .asks ∨ x = .xuWaiting ∨ x = .expected ∨ x = .build .lines p) s (s.unlinkBuild p) :=
    Only.unlinkBuild (.refl _ s) (.inl rfl) (.inr (.inl rfl)) (.inr (.inr (.inl rfl))) (.inr (.inr (.inr rfl)))
  exact this.su_eq (by simp)

theorem clearedOf_slot (s : State) (p : Pos) (i : Nat) :
    (∀ u l, s.su.slot i = .occupied u (.earmarked p l) → (clearedState s p).su.slot i = .occupied u (.free 0))
    ∧ ∀ u l, (clearedState s p).su.slot i ≠ .occupied u (.earmarked p l) := by
  refine ⟨fun u l h => (freeEarmarks_slot (s.unlinkBuild p) p i).1 u l ?_, fun u l =>
    freeEarmarks_not_earmarked (s.unlinkBuild p) p i u l⟩
  rw [unlinkBuild_slots]
  exact h

theorem settle_shelf (s : State) (p : Pos) (i : Nat) :
    SlotStep (· ≠ p) ((clearedState s p).su.slot i) ((s.enterEmpty p).su.slot i) :=
  settle_only s p (.shelf (· ≠ p)) (fun k => k fun _ => id) i

theorem slotStep_of_free {Q : Pos → Prop} {x y : Slot} {u : UnitRec} {age : Nat} (h : SlotStep Q x y)
    (hx : x = .occupied u (.free age)) :
    y = .occupied u (.free age) ∨ ∃ q k, Q q ∧ (y = .occupied u (.earmarked q k) ∨ y = .occupied u (.putting q k)) := by
  obtain rfl | ⟨v, b, q, l, rfl, hq, hy⟩ | ⟨v, q, l, rfl, -, -⟩ | ⟨hn, -⟩ := h
  · exact .inl hx
  · obtain ⟨rfl, -⟩ : v = u ∧ b = age := by simpa using hx
    exact .inr ⟨q, l, hq, hy⟩
  · simp at hx
  · simp [hx, Slot.unit?] at hn

theorem slotStep_not_earmarked {p : Pos} {x y : Slot} (h : SlotStep (· ≠ p) x y)
    (hx : ∀ u l, x ≠ .occupied u (.earmarked p l)) (u : UnitRec) (l : Nat) : y ≠ .occupied u (.earmarked p l) := by
  obtain rfl | ⟨v, b, q, k, rfl, hq, rfl | rfl⟩ | ⟨v, q, k, rfl, -, rfl⟩ | ⟨-, hn⟩ := h
  · exact hx u l
  · simp [hq]
  · simp
  · simp
  · rintro rfl
    simp [Slot.unit?] at hn

/-- The notices are those of `s`, some marked. -/
theorem clearedOf_cu (s : State) (p : Pos) : (clearedState s p).cu = s.cu := by
  have : Only (fun x => x ≠ .notices ∧ x ≠ .cuWaiting) s (clearedState s p) := by
    have unlinked := Only.unlinkBuild (p := p) (.refl (fun x => x ≠ .notices ∧ x ≠ .cuWaiting) s) ⟨nofun, nofun⟩
      ⟨nofun, nofun⟩ ⟨nofun, nofun⟩ ⟨nofun, nofun⟩
    have freed := unlinked.freeEarmarks (p := p) ⟨nofun, nofun⟩ ⟨nofun, nofun⟩ (fun _ => ⟨nofun, nofun⟩)
      ⟨nofun, nofun⟩ ⟨nofun, nofun⟩ ⟨nofun, nofun⟩ ⟨nofun, nofun⟩
    refine freed.clearPosition fun x h => ?_
    cases x
    case notices => exact h.elim
    case cuWaiting => exact h.elim
    all_goals exact ⟨nofun, nofun⟩
  exact this.cu_eq (by simp) (by simp)

theorem settledOf_notices (s : State) (p : Pos) : (settledState s p).cu.notices = s.cu.notices :=
  Eq.trans (settledOf_only s p .notices id) (congrArg ClaimUnit.notices (clearedOf_cu s p))

theorem enterEmpty_marks (s : State) (p : Pos) : Marks s (s.enterEmpty p) :=
  (Marks.of_eq (settledOf_notices s p)).trans (lookAll_marks (settledState s p))

theorem enterEmpty_looked {s : State} {p : Pos} {o : OrderId}
    (hN : ∀ n ∈ s.cu.notices, n.order = o → n.qualifies = false) : Looked (s.enterEmpty p) p o := by
  refine lookAll_looked (t := settledState s p) (by rwa [settledOf_notices]) ?_
  rw [(settledOf_only s p).build_eq, clearedOf_build]
  intro k
  cases k <;> exact fun h => by first | exact h rfl | exact h

theorem enterEmpty_put (s : State) (p : Pos) : (s.enterEmpty p).put p = none :=
  Eq.trans (settle_only s p (.put p) fun h => h rfl) (State.setPut_put_same _ p none)

theorem enterEmpty_hold (s : State) (p : Pos) : (s.enterEmpty p).hold p = none :=
  Eq.trans (settle_only s p (.hold p) fun h => h rfl) (State.setHold_hold_same _ p none)

theorem enterEmpty_val (s : State) (p : Pos) : (s.enterEmpty p).vu.get p = .reset :=
  Eq.trans (settle_only s p (.val p) fun h => h rfl) (PerPos_get_set_same _ p _)

theorem enterEmpty_requests (s : State) (p : Pos) : p ∉ (s.enterEmpty p).su.requests := by
  have looks : (s.enterEmpty p).su.requests = (settledState s p).su.requests :=
    (Only.refl _ (settledState s p)).lookAll (le_refl (lookT fun _ => True)) (fun _ => trivial) .requests id
  rw [looks, settledState, State.showBuild_su]
  exact releaseSlot_requests _ p

/-- A position that enters EMPTY. -/
theorem enterEmpty_emptied {s : State} {p : Pos} {o : OrderId}
    (hN : ∀ n ∈ s.cu.notices, n.order = o → n.qualifies = false) : s.Emptied (s.enterEmpty p) p o where
  build := enterEmpty_looked hN
  hold := enterEmpty_hold s p
  put := enterEmpty_put s p
  valuation := enterEmpty_val s p
  request := enterEmpty_requests s p
  unearmarked i := slotStep_not_earmarked (settle_shelf s p i) (clearedOf_slot s p i).2
  freed i u l h _ := slotStep_of_free (settle_shelf s p i) ((clearedOf_slot s p i).1 u l h)
  unlinked := by
    have same : (s.enterEmpty p).xu.expected = (s.unlinkBuild p).xu.expected := by
      refine Eq.trans (settle_only s p .expected id) ?_
      exact (Only.refl (fun x => x ≠ .expected) (s.unlinkBuild p)).freeEarmarks (p := p) nofun nofun (fun _ => nofun)
        nofun nofun nofun nofun .expected fun h => h rfl
    rw [same]
    exact unlinkBuild_expected s p
  asks := by
    have same : (s.enterEmpty p).xu.asks = (s.unlinkBuild p).xu.asks := by
      refine Eq.trans (settle_only s p .asks id) ?_
      exact (Only.refl (fun x => x ≠ .asks) (s.unlinkBuild p)).freeEarmarks (p := p) nofun nofun (fun _ => nofun)
        nofun nofun nofun nofun .asks fun h => h rfl
    rw [same]
    exact unlinkBuild_asks s p

/-! ### Orders given up (R135) -/

theorem qualifies_of_released {n : Notice} (h : n.releasedByMe = true) : n.qualifies = false := by
  rw [← Bool.not_eq_true, qualifies_iff, h]
  simp

theorem qualifies_of_not_opened {n : Notice} (h : n.state ≠ .opened) : n.qualifies = false := by
  rw [← Bool.not_eq_true, qualifies_iff]
  exact fun k => h k.1

/-- The parts an order that is given up changes. -/
def releaseT : Part → Prop
  | .notices | .queue | .cuWaiting => True
  | .absent f => f.kind = .release
  | _ => False

theorem Only.releaseOrder {T : Part → Prop} {a s : State} (h : Only T a s) (hT : releaseT ≤ T) (o : OrderId) :
    Only T a (s.releaseOrder o) :=
  (h.modNotice (hT .notices trivial) o _).produceCu (hT .queue trivial) (hT .cuWaiting trivial) (.release o)
    (hT (.absent _) rfl) fun _ => nofun

theorem releaseOrder_notices (s : State) (o : OrderId) :
    (s.releaseOrder o).cu.notices = (s.modNotice o Notice.given).cu.notices := produceCu_notices _ _

theorem releaseOrder_notice (s : State) (o : OrderId) :
    (s.releaseOrder o).notice? o = (s.notice? o).map Notice.given := by
  have same : (s.releaseOrder o).notice? o = (s.modNotice o Notice.given).notice? o := by
    rw [State.notice?, releaseOrder_notices]
    rfl
  rw [same, notice?_modNotice _ _ Notice.given fun _ => rfl]

theorem releaseOrder_given {s : State} {o : OrderId} {n : Notice} (hn : n ∈ (s.releaseOrder o).cu.notices)
    (ho : n.order = o) : n.qualifies = false := by
  rw [releaseOrder_notices] at hn
  obtain ⟨m, -, -, rfl⟩ := mem_modNotice hn ho
  exact qualifies_of_released rfl

theorem releaseOrder_releases (s : State) (o : OrderId) : s.Releases (s.releaseOrder o) o := by
  refine ⟨fun joined space => ?_, fun joined full room => ?_, fun isolated => ?_⟩
  · show _ ∈ ((s.modNotice o _).produceCu _).lp.queue
    have space' : (s.modNotice o Notice.given).lp.hasSpace = true := space
    have joined' : (s.modNotice o Notice.given).isolated = false := decide_eq_false joined
    unfold State.produceCu
    rw [if_pos (by simp [State.modNotice, space]), State.transmit, if_neg (by simp [State.modNotice, State.isolated, joined])]
    exact mem_insertBy.2 (.inl rfl)
  · show _ ∈ ((s.modNotice o _).produceCu _).cu.waiting
    unfold State.produceCu
    rw [if_neg (by simp [State.modNotice, State.isolated, joined, full])]
    show _ ∈ joinClaimWaiting s.cu.waiting _
    rw [joinClaimWaiting, if_pos (show s.cu.waiting.length < Config.maxWaiting from room)]
    simp
  · show ((s.modNotice o _).produceCu _).lp = s.lp
    unfold State.produceCu
    rw [if_pos (by simp [State.modNotice, State.isolated, isolated]), State.transmit,
      if_pos (by simp [State.modNotice, State.isolated, isolated])]
    rfl

/-- What is produced stays produced while the frames that wait go on waiting. -/
theorem releases_of_only {T : Part → Prop} {s t u : State} {o : OrderId} (h : s.Releases t o) (k : Only T t u)
    (hj : t.jc = s.jc) (hq : ¬ T .queued) (hw : ¬ T .waits) (hs : ¬ T .shut) : s.Releases u o := by
  obtain ⟨queued, waits, shut⟩ := h
  refine ⟨fun joined space => k _ hq _ (queued joined space), fun joined full room =>
    k _ hw _ (waits joined full room) nofun, fun isolated => ?_⟩
  exact (k _ hs (hj ▸ isolated)).2.1.trans (shut isolated)

end Sys2Proof.Proofs
end


section
/-! Frames of CU: CLAIM, PRIOR, RELEASE and DONE as a station hands them over (R130 to R139), with what serving asks
and freeing queue places leave alone. -/

namespace Sys2Proof.Proofs

open Sys2Proof.Machine

/-! ### Serving asks (R156) -/

/-- Asks are served. -/
def serveT : Part → Prop
  | .askQueue | .seq | .outbound | .clocks | .queue => True
  | .absent f => f.kind = .grant
  | x => emptyT (fun _ => True) x

theorem giveT_le_serveT : giveT (fun _ => True) ≤ serveT := by
  intro x h
  cases x <;> trivial

theorem panelT_le_serveT : panelT ≤ serveT := (panelT_le_giveT _).trans giveT_le_serveT

section
variable {T : Part → Prop} {a s : State}

theorem Only.serve (h : Only T a s) (hT : serveT ≤ T) (x : AskEntry) (rest : List AskEntry) :
    Only T a (s.serve x rest) := by
  have give := giveT_le_serveT.trans hT
  have granted (ob : List Outbound) (n : Seq) :
      Only T a (s.setXu { s.xu with askQueue := rest, seq := n, outbound := ob }) := by
    refine h.setXu _ ?_ (fun k => absurd (hT .askQueue trivial) k) (fun k => absurd (hT .outbound trivial) k) ?_ ?_ ?_ ?_
      (fun k => absurd (hT .seq trivial) k)
    all_goals exact fun _ => rfl
  unfold State.serve
  dsimp only
  refine Only.transmit (Only.pruneClocks (Only.foldl (granted _ _) _ (fun t g k => ?_) _) (hT .clocks trivial))
    (hT .queue trivial) (.grant _ _ _ _) (hT (.absent _) rfl) fun _ => nofun
  exact k.emptySlot give (hT .amber trivial) (fun _ _ => trivial) _ _
    (.inl ⟨hT .units trivial, fun R => hT (.shelf R) trivial⟩)

theorem Only.serveAsks (h : Only T a s) (hT : serveT ≤ T) (n : Nat) : Only T a (State.serveAsks n s) := by
  induction n generalizing s with
  | zero => exact h
  | succ n ih =>
    rw [State.serveAsks]
    split
    · refine ih ?_
      unfold State.serveOne
      split
      · exact h
      · split
        · exact h.serve hT _ _
        · exact h
    · exact h

end

/-- The state a command leaves that may let asks be served. -/
def servedState (s : State) : State := (State.serveAsks Config.maxAsks s).flush

theorem finishServing_eq (s : State) : finishServing s = .next (servedState s) := rfl

theorem servedState_only (s : State) : Only serveT s (servedState s) :=
  ((Only.refl _ s).serveAsks (le_refl serveT) _).flush panelT_le_serveT

theorem servedState_cu (s : State) : (servedState s).cu = s.cu := (servedState_only s).cu_eq id id

theorem servedState_be (s : State) : (servedState s).be = s.be :=
  (servedState_only s).be_eq fun _ _ => id

theorem servedState_build (s : State) (p : Pos) : (servedState s).build p = s.build p :=
  congrArg (fun b => PerPos.get b p) (servedState_be s)

theorem servedState_counter (s : State) : (servedState s).claimCounter = s.claimCounter :=
  servedState_only s .counter id

theorem servedState_notice (s : State) (o : OrderId) : (servedState s).notice? o = s.notice? o := by
  rw [State.notice?, servedState_cu]
  rfl

theorem servedState_setPl {s : State} (h : s.xu.askQueue = [] ∨ s.canServe = false) (w : Panel) :
    (servedState s).setPl w = s.setPl w := by
  have stands : State.serveAsks Config.maxAsks s = s :=
    h.elim (fun h => serveAsks_of_empty h _) fun h => serveAsks_of_cannot h _
  rw [servedState, stands, State.flush_setPl]

/-- What a hold record keeps of one whose causes are the same. -/
theorem hold_of_causes {x y : Option Hold}
    (h : y.map (fun h => { h with resolving := .none }) = x.map (fun h => { h with resolving := .none })) :
    (x = none → y = none) ∧ ∀ k, x = some k → ∃ r, y = some { k with resolving := r } := by
  cases x with
  | none =>
    refine ⟨fun _ => ?_, nofun⟩
    simpa using h
  | some k =>
    refine ⟨nofun, fun k' e => ?_⟩
    obtain rfl := Option.some.inj e
    cases y with
    | none => simp at h
    | some z =>
      obtain ⟨p, n, s, sv, si, nx, r, rs⟩ := z
      refine ⟨r, ?_⟩
      simp only [Option.map_some, Option.some.injEq, Hold.mk.injEq] at h ⊢
      simp_all

/-! ### Freed places (R198, R199) -/

/-- Free places go to waiting frames. -/
def grantT : Part → Prop
  | .halts | .queue | .cuWaiting | .waits | .xuWaiting | .priors => True
  | .absent _ => True
  | _ => False

/-- A CLAIM is withdrawn. -/
def withdrawT : Part → Prop
  | .contending | .queued | .shut => True
  | x => grantT x

section
variable {T : Part → Prop} {a s : State}

theorem Only.setHalts (h : Only T a s) (hT : T .halts) (n : Nat) :
    Only T a (s.setHc { s.hc with haltsWaiting := n }) := h.trans fun x hx => by
  have same := Part.Same.refl s x
  cases x
  case halts => exact absurd hT hx
  all_goals exact same

theorem Only.setCuWaiting (h : Only T a s) (hT : T .cuWaiting) (hw : T .waits) (ha : ∀ f, T (.absent f))
    (fs : List Frame) (hs : ∀ f ∈ fs, f ∈ s.cu.waiting) : Only T a (s.setCu { s.cu with waiting := fs }) := h.trans fun x hx => by
  have same := Part.Same.refl s x
  cases x
  case cuWaiting => exact absurd hT hx
  case waits => exact absurd hw hx
  case absent f => exact absurd (ha f) hx
  case shut => exact fun shut => ⟨shut, rfl, hs⟩
  all_goals exact same

theorem Only.grantOne (h : Only T a s) (hT : grantT ≤ T) : Only T a s.grantOne := by
  have sends {t : State} (k : Only T a t) (f : Frame) : Only T a (t.transmit f) :=
    k.transmit (hT .queue trivial) f (hT (.absent f) trivial) fun n => absurd (hT .priors trivial) n
  unfold State.grantOne
  split
  · exact sends (h.setHalts (hT .halts trivial) _) _
  · split
    case h_1 f fs hw =>
      refine sends (h.setCuWaiting (hT .cuWaiting trivial) (hT .waits trivial) (fun f => hT (.absent f) trivial) _ ?_) _
      rw [hw]
      exact fun g hg => List.mem_cons_of_mem f hg
    case h_2 =>
      split
      · refine sends (h.setXu _ ?_ ?_ ?_ ?_ ?_ ?_ (fun k => absurd (hT .xuWaiting trivial) k) ?_) _
        all_goals exact fun _ => rfl
      · exact h

theorem Only.grantTx (h : Only T a s) (hT : grantT ≤ T) : Only T a s.grantTx := by
  unfold State.grantTx
  generalize Config.maxQueue = n
  induction n generalizing s with
  | zero => exact h
  | succ n ih =>
    rw [State.grantPlaces]
    split
    · exact ih (h.grantOne hT)
    · exact h

theorem Only.withdrawClaim (h : Only T a s) (hT : withdrawT ≤ T) (o : OrderId) : Only T a (s.withdrawClaim o) := by
  have hg : grantT ≤ T := le_trans (fun x hx => by cases x <;> first | exact hx | trivial) hT
  have dropped := h.setCuWaiting (hT .cuWaiting trivial) (hT .waits trivial) (fun f => hT (.absent f) trivial)
    (s.cu.waiting.filter (fun f => decide (f ≠ .claim o))) fun _ hf => (List.mem_filter.1 hf).1
  unfold State.withdrawClaim
  refine Only.grantTx (dropped.trans fun x hx => ?_) hg
  have same := Part.Same.refl (s.setCu { s.cu with waiting := s.cu.waiting.filter (fun f => decide (f ≠ .claim o)) }) x
  cases x
  case queue => exact absurd (hT .queue trivial) hx
  case queued => exact absurd (hT .queued trivial) hx
  case priors => exact absurd (hT .priors trivial) hx
  case absent f => exact absurd (hT (.absent f) trivial) hx
  case shut => exact absurd (hT .shut trivial) hx
  case contending => exact absurd (hT .contending trivial) hx
  all_goals exact same

end

/-- A frame that neither waits nor stands in the queue. -/
def Gone (f : Frame) (s : State) : Prop :=
  f ∉ s.lp.queue ∧ f ∉ s.cu.waiting ∧ ∀ w ∈ s.xu.waiting, w.frame ≠ f

theorem transmit_queue {s : State} {f g : Frame} (h : g ∈ (s.transmit f).lp.queue) : g = f ∨ g ∈ s.lp.queue := by
  unfold State.transmit at h
  split at h
  · exact .inr h
  · exact mem_insertBy.1 h

theorem grantOne_gone {f : Frame} (hf : f ≠ .halt) {s : State} (h : Gone f s) : Gone f s.grantOne := by
  obtain ⟨hq, hc, hx⟩ := h
  have cu (t : State) (g : Frame) : (t.transmit g).cu = t.cu := by unfold State.transmit; split <;> rfl
  have xu (t : State) (g : Frame) : (t.transmit g).xu = t.xu := by unfold State.transmit; split <;> rfl
  unfold State.grantOne
  split
  · refine ⟨fun k => ?_, by rwa [cu], by rwa [xu]⟩
    exact (transmit_queue k).elim hf hq
  · split
    case h_1 g gs hw =>
      rw [hw] at hc
      refine ⟨fun k => ?_, ?_, by rwa [xu]⟩
      · exact (transmit_queue k).elim (fun e => hc (e ▸ List.mem_cons_self)) hq
      · rw [cu]
        exact fun k => hc (List.mem_cons_of_mem g k)
    case h_2 =>
      split
      case h_1 w ws hw =>
        rw [hw] at hx
        refine ⟨fun k => ?_, by rwa [cu], ?_⟩
        · exact (transmit_queue k).elim (fun e => hx w List.mem_cons_self e.symm) hq
        · rw [xu]
          exact fun w' k => hx w' (List.mem_cons_of_mem w k)
      case h_2 => exact ⟨hq, hc, hx⟩

theorem grantTx_gone {f : Frame} (hf : f ≠ .halt) {s : State} (h : Gone f s) : Gone f s.grantTx := by
  unfold State.grantTx
  generalize Config.maxQueue = n
  induction n generalizing s with
  | zero => exact h
  | succ n ih =>
    rw [State.grantPlaces]
    split
    · exact ih (grantOne_gone hf h)
    · exact h

theorem withdrawClaim_gone {s : State} {o : OrderId} (hx : ∀ w ∈ s.xu.waiting, w.frame ≠ .claim o) :
    Gone (.claim o) (s.withdrawClaim o) := by
  unfold State.withdrawClaim
  refine grantTx_gone (f := .claim o) nofun ⟨fun h => ?_, fun h => ?_, hx⟩
  · have e := (List.mem_filter.1 h).2
    simp at e
  · have e := (List.mem_filter.1 h).2
    simp at e

theorem withdrawClaim_contending (s : State) (o : OrderId) : (s.withdrawClaim o).lp.contending
    = s.lp.contending.map (Contending.withdraw (.claim o)) :=
  (Only.refl grantT _).grantTx (le_refl _) .contending id

theorem withdrawClaim_started (s : State) (o : OrderId) : (s.withdrawClaim o).lp.started = s.lp.started :=
  ((Only.refl withdrawT s).withdrawClaim (le_refl _) o .port id).1

theorem withdrawClaim_notices (s : State) (o : OrderId) : (s.withdrawClaim o).cu.notices = s.cu.notices :=
  (Only.refl withdrawT s).withdrawClaim (le_refl _) o .notices id

/-! ### A CLAIM that does not come back -/

theorem look_absent {s : State} {o : OrderId} (hN : ∀ n ∈ s.cu.notices, n.order = o → n.qualifies = false) (p : Pos) :
    (Part.absent (.claim o)).Same s (s.look p) := by
  obtain e | ⟨n, hn, hq, -, -, e⟩ := look_cases s p
  · rw [e]
    exact .refl s _
  · have other : Frame.claim n.order ≠ .claim o := fun e => by simp [hN n hn (by simpa using e)] at hq
    rw [e]
    unfold State.mark
    refine Only.showBuild (T := fun x => x ≠ .absent (.claim o)) (Only.produceCu ?_ nofun nofun _ ?_ ?_) ?_ p
      (.absent (.claim o)) fun h => h rfl
    · refine Only.setBuild (Only.modNotice (.refl _ s) nofun _ _) p _ fun _ h => absurd nofun h
    · exact fun e => other (by simpa using e)
    · exact fun h => absurd nofun h
    · intro x h
      cases x
      case absent => exact h.elim
      all_goals exact nofun

theorem lookAll_absent {s : State} {o : OrderId} (hN : ∀ n ∈ s.cu.notices, n.order = o → n.qualifies = false) :
    (Part.absent (.claim o)).Same s s.lookAll := by
  unfold State.lookAll
  generalize s.fittedPos = ps
  induction ps generalizing s with
  | nil => exact .refl s _
  | cons p ps ih =>
    exact (look_absent hN p).trans (ih fun n hn ho => hN n (((look_marks s p).mem_of_order hN ho).1 hn) ho)

theorem enterEmpty_absent {s : State} {o : OrderId} (hN : ∀ n ∈ s.cu.notices, n.order = o → n.qualifies = false)
    (p : Pos) : (Part.absent (.claim o)).Same s (s.enterEmpty p) := by
  have cleared : (Part.absent (.claim o)).Same s (clearedState s p) := by
    have only : Only (fun x => x ≠ .absent (.claim o)) s (clearedState s p) := by
      have unlinked := Only.unlinkBuild (p := p) (.refl (fun x => x ≠ .absent (.claim o)) s) nofun nofun nofun nofun
      refine (unlinked.freeEarmarks (p := p) nofun nofun (fun _ => nofun) nofun nofun nofun nofun).clearPosition
        fun x h => ?_
      cases x
      case absent => exact h.elim
      all_goals exact nofun
    exact only _ fun h => h rfl
  have settled : (Part.absent (.claim o)).Same (clearedState s p) (settledState s p) :=
    settledOf_only s p (.absent (.claim o)) nofun
  refine (cleared.trans settled).trans (lookAll_absent ?_)
  rwa [settledOf_notices]

/-! ### A position whose link is broken (R29, R129) -/

theorem qualifies_modNotice {s : State} {o : OrderId} {f : Notice → Notice} (hf : ∀ n, (f n).qualifies = false) :
    ∀ n ∈ (s.modNotice o f).cu.notices, n.order = o → n.qualifies = false := by
  intro n hn ho
  obtain ⟨m, -, -, rfl⟩ := mem_modNotice hn ho
  exact hf m

theorem qualifies_removeNotice {s : State} {o : OrderId} :
    ∀ n ∈ (s.removeNotice o).cu.notices, n.order = o → n.qualifies = false :=
  fun _ hn ho => absurd ho (mem_removeNotice.1 hn).2

theorem Looked.facts {t : State} {p : Pos} {o : OrderId} (h : Looked t p o) : (t.build p).content = []
    ∧ (t.build p).link ≠ some o ∧ ((t.build p).state = .empty ∨ (t.build p).state = .claiming) := by
  obtain e | ⟨n, -, ho, -, e⟩ := h <;> rw [e]
  · exact ⟨rfl, nofun, .inl rfl⟩
  · exact ⟨rfl, by simpa using ho, .inr rfl⟩

theorem servedState_hold_none {s : State} {p : Pos} (h : s.hold p = none) : (servedState s).hold p = none :=
  (hold_of_causes (servedState_only s (.causes p) id)).1 h

theorem not_qualifies_others (n : Notice) (k : Station) : ({ n with state := .others k } : Notice).qualifies = false :=
  qualifies_of_not_opened nofun

theorem modNotice_others_notice {s : State} {o : OrderId} {n : Notice} (hn : s.notice? o = some n) (k : Station) :
    (s.modNotice o (fun n => { n with state := .others k })).notice? o = some { n with state := .others k } := by
  rw [notice?_modNotice _ _ (fun n => { n with state := .others k }) fun _ => rfl, hn]
  rfl

theorem notice?_congr {s t : State} (h : t.cu.notices = s.cu.notices) (o : OrderId) : t.notice? o = s.notice? o := by
  rw [State.notice?, h]
  rfl

/-- A notice that does not qualify stands while its position enters EMPTY. -/
theorem enterEmpty_notice {s : State} {o : OrderId} (hN : ∀ n ∈ s.cu.notices, n.order = o → n.qualifies = false)
    (p : Pos) : (s.enterEmpty p).notice? o = s.notice? o := (enterEmpty_marks s p).notice_eq hN

theorem breakLink_notice {s : State} {o : OrderId} {n : Notice} (hn : s.notice? o = some n) (p : Pos) (k : Station) :
    (s.breakLink p o (.others k)).notice? o = some { n with state := .others k } := by
  unfold State.breakLink
  rw [enterEmpty_notice (qualifies_modNotice fun n => not_qualifies_others n k)]
  exact modNotice_others_notice (by rw [notice?_congr (withdrawClaim_notices s o), hn]) k

theorem breakLink_looked (s : State) (p : Pos) (o : OrderId) (k : Station) :
    Looked (s.breakLink p o (.others k)) p o :=
  enterEmpty_looked (qualifies_modNotice fun n => not_qualifies_others n k)

/-! ### Frames handed to CU -/

theorem execClaim_handed {s u : State} {h : Handed} {o : OrderId} (hh : s.handOver .claim = some (h, u))
    (hb : Frame.ofBody h.kind h.body = some (.claim o)) : exec .claim s
      = .next (servedState (if u.fromSelf h then u.claimBack o else u.claimByOther o h.sender)) := by
  show execClaim s = _
  rw [execClaim, hh]
  simp only [hb]
  rfl

theorem execPrior_handed {s u : State} {h : Handed} {o : OrderId} {k : Station} (hh : s.handOver .prior = some (h, u))
    (hb : Frame.ofBody h.kind h.body = some (.prior o k)) : exec .prior s
      = if k = u.jc.station then finish u else .next (servedState (u.takePrior o k)) := by
  show execPrior s = _
  rw [execPrior, hh]
  simp only [hb]
  rfl

theorem execRelease_handed {s u : State} {h : Handed} {o : OrderId} (hh : s.handOver .release = some (h, u))
    (hb : Frame.ofBody h.kind h.body = some (.release o)) : exec .release s = finish (u.takeRelease o h.sender) := by
  show execRelease s = _
  rw [execRelease, hh]
  simp only [hb]

theorem execDone_handed {s u : State} {h : Handed} {o : OrderId} {fl : CauseSet} {tot : BitVec 24} {w : BitVec 16}
    (hh : s.handOver .done = some (h, u)) (hb : Frame.ofBody h.kind h.body = some (.done o fl tot w)) :
    exec .done s = .next (servedState (u.takeDone o h.sender (u.fromSelf h))) := by
  show execDone s = _
  rw [execDone, hh]
  simp only [hb]
  rfl

/-- What CU reads is the same in the state a frame was handed over in. -/
theorem handed_cu {s u : State} {k : Kind} {h : Handed} (hh : s.handOver k = some (h, u)) :
    u.cu = s.cu ∧ u.jc.station = s.jc.station ∧ u.jc.state = s.jc.state ∧ u.jc.fitted = s.jc.fitted ∧ u.be = s.be
      ∧ u.hc = s.hc ∧ u.pv = s.pv ∧ u.xu = s.xu ∧ u.claimCounter = s.claimCounter := by
  obtain ⟨-, rest, peers, rfl⟩ := handOver_eq hh
  exact ⟨rfl, rfl, rfl, rfl, rfl, rfl, rfl, rfl, rfl⟩

theorem handed_lp {s u : State} {k : Kind} {h : Handed} (hh : s.handOver k = some (h, u)) :
    ∃ rest, u.lp = { s.lp with handover := rest } := by
  obtain ⟨-, rest, peers, rfl⟩ := handOver_eq hh
  exact ⟨rest, rfl⟩

theorem notice?_handed {s u : State} {k : Kind} {h : Handed} (hh : s.handOver k = some (h, u)) (o : OrderId) :
    u.notice? o = s.notice? o := notice?_congr (congrArg ClaimUnit.notices (handed_cu hh).1) o

theorem fromSelf_eq {s u : State} {k : Kind} {h : Handed} (hh : s.handOver k = some (h, u)) :
    u.fromSelf h = decide (h.sender = s.jc.station) := by
  rw [State.fromSelf, (handed_cu hh).2.1]

end Sys2Proof.Proofs
end


section
/-! CLAIM of another station, PRIOR, RELEASE and DONE (R131 to R139), and a build's first fault (R170). -/

namespace Sys2Proof.Proofs

open Sys2Proof.Machine

/-! ### Frames of CU that are produced (R129, R132) -/

theorem produceCu_queued {s : State} (hj : s.jc.state ≠ .isolated) (hs : s.lp.hasSpace = true) (f : Frame) :
    s.produceCu f = s.setLp (s.lp.enqueue f) := by
  rw [State.produceCu, if_pos (by simp [hs]), State.transmit, if_neg (by simp [State.isolated, hj])]

theorem produceCu_waits {s : State} (hj : s.jc.state ≠ .isolated) (hs : s.lp.hasSpace = false)
    (hw : s.cu.waiting.length < 16) (f : Frame) :
    s.produceCu f = s.setCu { s.cu with waiting := s.cu.waiting ++ [f] } := by
  rw [State.produceCu, if_neg (by simp [State.isolated, hj, hs]), joinClaimWaiting,
    if_pos (show s.cu.waiting.length < Config.maxWaiting from hw)]

theorem produceCu_discarded {s : State} (hj : s.jc.state = .isolated) (f : Frame) : s.produceCu f = s := by
  rw [State.produceCu, if_pos (by simp [State.isolated, hj]), State.transmit, if_pos (by simp [State.isolated, hj])]

theorem producePrior_stands {s : State} {o : OrderId} {k : Station}
    (h : Frame.prior o k ∈ s.cu.waiting ∨ Frame.prior o k ∈ s.lp.unstarted) : s.producePrior o = s := by
  unfold State.producePrior
  refine if_pos ?_
  rw [Bool.or_eq_true, List.any_eq_true, List.any_eq_true]
  exact h.imp (fun h => ⟨_, h, by simp⟩) fun h => ⟨_, h, by simp⟩

theorem producePrior_produces {s : State} {o : OrderId}
    (h : ∀ k, Frame.prior o k ∉ s.cu.waiting ∧ Frame.prior o k ∉ s.lp.unstarted) :
    s.producePrior o = s.produceCu (.prior o s.jc.station) := by
  have other (fs : List Frame) (hfs : ∀ k, Frame.prior o k ∉ fs) : ¬ fs.any (fun f => match f with
      | .prior q _ => decide (q = o)
      | _ => false) = true := by
    rw [List.any_eq_true]
    rintro ⟨f, hf, e⟩
    cases f
    case prior q k =>
      obtain rfl : q = o := by simpa using e
      exact hfs k hf
    all_goals simp at e
  unfold State.producePrior
  refine if_neg ?_
  rw [Bool.or_eq_true]
  exact not_or.2 ⟨other _ fun k => (h k).1, other _ fun k => (h k).2⟩

theorem producePrior_notices (s : State) (o : OrderId) : (s.producePrior o).cu.notices = s.cu.notices := by
  unfold State.producePrior
  dsimp only
  split
  · rfl
  · exact produceCu_notices s _

/-! ### A first fault (R170) -/

theorem Hold.join_keeps (h : Hold) (c : Raised) : (h.join c).primary = h.primary ∧ (h.join c).saved = h.saved
    ∧ (h.join c).savedIndex = h.savedIndex ∧ (h.join c).next = h.next ∧ (h.join c).resumed = h.resumed := by
  unfold Hold.join
  dsimp only
  split <;> exact ⟨rfl, rfl, rfl, rfl, rfl⟩

theorem foldl_join_keeps (cs : List Raised) (h : Hold) : (cs.foldl Hold.join h).primary = h.primary
    ∧ (cs.foldl Hold.join h).saved = h.saved ∧ (cs.foldl Hold.join h).next = h.next := by
  induction cs generalizing h with
  | nil => exact ⟨rfl, rfl, rfl⟩
  | cons c cs ih =>
    obtain ⟨hp, hs, -, hn, -⟩ := Hold.join_keeps h c
    obtain ⟨hp', hs', hn'⟩ := ih (h.join c)
    exact ⟨hp'.trans hp, hs'.trans hs, hn'.trans hn⟩

/-- The state a first fault leaves, before a removal is tried. -/
def heldFirst (s : State) (p : Pos) (saved : SavedState) (idx : Nat) (c : Raised) (rest : List Raised) : State :=
  let u := ((c :: rest).foldl (State.reportCause p) s).setHold p (some (rest.foldl Hold.join (Hold.first saved idx c)))
  (u.setBuild p { u.build p with state := .held }).showBuild p

theorem told_only (s : State) (p : Pos) (cs : List Raised) : Only panelT s (cs.foldl (State.reportCause p) s) :=
  (Only.refl _ s).foldl _ (fun _ _ k => k.report (le_refl panelT) _ _ _ _) _

theorem raiseAt_first {s : State} {p : Pos} {saved : SavedState} {idx : Nat} {cs : List Raised} {c : Raised}
    {rest : List Raised} (hs : sortBy (fun x y : Raised => decide (x.cause.code < y.cause.code)) cs = c :: rest)
    (hn : s.hold p = none) : s.raiseAt p saved idx cs = (heldFirst s p saved idx c rest).tryRemoval p := by
  have none : ((c :: rest).foldl (State.reportCause p) s).hold p = .none :=
    Eq.trans (told_only s p (c :: rest) (.hold p) id) hn
  rw [State.raiseAt]
  dsimp only
  rw [hs]
  dsimp only
  rw [none]
  rfl

theorem heldFirst_hold (s : State) (p : Pos) (saved : SavedState) (idx : Nat) (c : Raised) (rest : List Raised) :
    (heldFirst s p saved idx c rest).hold p = some (rest.foldl Hold.join (Hold.first saved idx c)) := by
  unfold heldFirst
  dsimp only
  rw [State.showBuild_hold]
  exact State.setHold_hold_same _ p _

theorem heldFirst_build (s : State) (p : Pos) (saved : SavedState) (idx : Nat) (c : Raised) (rest : List Raised) :
    (heldFirst s p saved idx c rest).build p = { s.build p with state := .held } := by
  unfold heldFirst
  dsimp only
  rw [State.showBuild_build, State.setBuild_build_same]
  show { ((c :: rest).foldl (State.reportCause p) s).build p with state := BuildState.held } = _
  rw [(told_only s p (c :: rest)).build_eq fun _ => id]

theorem heldFirst_put (s : State) (p : Pos) (saved : SavedState) (idx : Nat) (c : Raised) (rest : List Raised) (q : Pos) :
    (heldFirst s p saved idx c rest).put q = s.put q := by
  unfold heldFirst
  dsimp only
  rw [State.showBuild_put]
  exact told_only s p (c :: rest) (.put q) id

theorem tryRemoval_build (s : State) (p q : Pos) : (s.tryRemoval p).build q = s.build q :=
  (Only.refl _ s |>.tryRemoval (le_refl (removalT (· = p))) rfl).build_eq fun _ => id

/-- A first fault holds the build, the lowest cause the primary one. -/
theorem raiseAt_held {s : State} {p : Pos} {saved : SavedState} {idx : Nat} {cs : List Raised} {c : Raised}
    {rest : List Raised} (hs : sortBy (fun x y : Raised => decide (x.cause.code < y.cause.code)) cs = c :: rest)
    (hn : s.hold p = none) : (s.raiseAt p saved idx cs).build p = { s.build p with state := .held }
      ∧ ∃ r, (s.raiseAt p saved idx cs).hold p
        = some { rest.foldl Hold.join (Hold.first saved idx c) with resolving := r } := by
  rw [raiseAt_first hs hn, tryRemoval_build, heldFirst_build]
  have kept : (Part.causes p).Same _ ((heldFirst s p saved idx c rest).tryRemoval p) :=
    (Only.refl _ _).tryRemoval (le_refl (removalT (· = p))) rfl _ id
  exact ⟨rfl, (hold_of_causes kept).2 _ (heldFirst_hold ..)⟩

theorem raise_held {s : State} {p : Pos} {c : Raised} (hn : s.hold p = none) :
    ((s.raise p c).build p) = { s.build p with state := .held }
      ∧ ∃ r, (s.raise p c).hold p
        = some { Hold.first (s.build p).savedState (s.standIndex p) c with resolving := r } := by
  rw [State.raise, State.showTray_build, State.showTray_hold]
  exact raiseAt_held (c := c) (rest := []) rfl hn

/-! ### CLAIM of another station (R131) -/

/-- A frame that is gone stays so where it comes into no list. -/
theorem Gone.absent {f : Frame} {s t : State} (h : Gone f s) (k : (Part.absent f).Same s t) :
    f ∉ t.cu.waiting ∧ f ∉ t.lp.queue := ⟨fun n => h.2.1 (k.2 n), fun n => h.1 (k.1 n)⟩

theorem servedState_absent (s : State) {f : Frame} (hf : f.kind ≠ .grant) : (Part.absent f).Same s (servedState s) :=
  servedState_only s (.absent f) hf

/-- The position of a link that is broken looks again, and asks are served: the CLAIM of the order is gone. -/
theorem unlinked_claim_gone {s t : State} {o : OrderId} (hx : ∀ w ∈ s.xu.waiting, w.frame ≠ .claim o)
    (h : (Part.absent (.claim o)).Same (s.withdrawClaim o) t) :
    Frame.claim o ∉ (servedState t).cu.waiting ∧ Frame.claim o ∉ (servedState t).lp.queue :=
  (withdrawClaim_gone hx).absent (h.trans (servedState_absent t nofun))

theorem breakLink_absent (s : State) (p : Pos) (o : OrderId) (k : Station) :
    (Part.absent (.claim o)).Same (s.withdrawClaim o) (s.breakLink p o (.others k)) := by
  have changed : (Part.absent (.claim o)).Same (s.withdrawClaim o)
      ((s.withdrawClaim o).modNotice o (fun n => { n with state := .others k })) := ⟨id, id⟩
  exact changed.trans (enterEmpty_absent (qualifies_modNotice fun n => not_qualifies_others n k) p)

theorem breakLink_lp (s : State) (p : Pos) (o : OrderId) (st : NoticeState) :
    (s.breakLink p o st).lp.started = s.lp.started
      ∧ (s.breakLink p o st).lp.contending = s.lp.contending.map (Contending.withdraw (.claim o)) := by
  have only : Only (leaveT p) (s.withdrawClaim o) (s.breakLink p o st) :=
    ((Only.refl (leaveT p) (s.withdrawClaim o)).modNotice trivial o _).enterEmpty (le_refl _)
  obtain ⟨port, -⟩ := only .port fun h => h.elim id id
  have cont : (s.breakLink p o st).lp.contending = (s.withdrawClaim o).lp.contending :=
    only .contending fun h => h.elim id id
  exact ⟨port.trans (withdrawClaim_started s o), cont.trans (withdrawClaim_contending s o)⟩

section
variable {s : State} {o : OrderId} {n : Notice} (hn : s.notice? o = some n)
include hn

theorem claimByOther_opened (hs : n.state = .opened) (k : Station) :
    s.claimByOther o k = s.modNotice o (fun n => { n with state := .others k }) := by
  simp [State.claimByOther, hn, hs]

theorem claimByOther_marked {p : Pos} (hs : n.state = .marked p) (k : Station) :
    s.claimByOther o k = s.breakLink p o (.others k) := by
  simp [State.claimByOther, hn, hs]

theorem claimByOther_mine {p : Pos} (hs : n.state = .mine p) (k : Station) :
    s.claimByOther o k = s.producePrior o := by
  simp [State.claimByOther, hn, hs]

theorem claimByOther_notices (ho : n.state ≠ .opened) (hm : ∀ p, n.state ≠ .marked p) (k : Station) :
    (s.claimByOther o k).cu.notices = s.cu.notices := by
  cases hs : n.state with
  | opened => exact absurd hs ho
  | marked p => exact absurd hs (hm p)
  | mine p =>
    rw [claimByOther_mine hn hs]
    exact producePrior_notices s o
  | others j => simp [State.claimByOther, hn, hs]
  | stranded => simp [State.claimByOther, hn, hs]
  | gone p j => simp [State.claimByOther, hn, hs]

end

theorem canServe_of_isolated {s : State} (h : s.jc.state = .isolated) : s.canServe = false := by
  simp [State.canServe, State.gateOpen, h]

theorem canServe_of_waiting {s : State} (h : s.cu.waiting ≠ []) : s.canServe = false := by
  simp [State.canServe, State.anyWaiting, h]

/-- Settles O45. -/
theorem otherClaimTakesOrder : Obligations.OtherClaimTakesOrder := by
  intro h o u s hh hb hk
  have run : exec .claim s = .next (servedState (u.claimByOther o h.sender)) := by
    rw [execClaim_handed hh hb, fromSelf_eq hh, if_neg (by simpa using hk)]
  obtain ⟨hcu, hst, hjs, hfit, hbe, -, -, hxu, -⟩ := handed_cu hh
  obtain ⟨rest, hlp⟩ := handed_lp hh
  have pl : u.setPl s.pl = u := by
    obtain ⟨-, rest, peers, rfl⟩ := handOver_eq hh
    rfl
  have notice := notice?_handed hh o
  refine ⟨fun n hn hs => ?_, fun n p hn hs hx => ?_, fun n hn ho hm => ?_, fun n p hn hs => ⟨fun none => ?_, fun k there => ?_⟩,
    fun hn hl => ?_⟩
  · refine ⟨_, run, ?_⟩
    rw [servedState_notice, claimByOther_opened (notice.trans hn) hs]
    exact modNotice_others_notice (notice.trans hn) _
  · rw [claimByOther_marked (notice.trans hn) hs] at run
    obtain ⟨waiting, queue⟩ := unlinked_claim_gone (hxu ▸ hx) (breakLink_absent u p o h.sender)
    obtain ⟨started, contending⟩ := breakLink_lp u p o (.others h.sender)
    have port := servedState_only (u.breakLink p o (.others h.sender)) .port id
    have cont := servedState_only (u.breakLink p o (.others h.sender)) .contending id
    refine ⟨_, run, ?_, waiting, queue, ?_, fun c hc e => ?_, ?_⟩
    · rw [servedState_notice]
      exact breakLink_notice (notice.trans hn) p _
    · rw [port.1, started, hlp]
    · rw [cont, contending, hlp, hc, Option.map_some, Contending.withdraw, if_pos e]
    · rw [servedState_build]
      exact (breakLink_looked u p o h.sender).facts
  · refine ⟨_, run, ?_⟩
    rw [servedState_cu, claimByOther_notices (notice.trans hn) ho hm, hcu]
  · have produced : u.claimByOther o h.sender = u.produceCu (.prior o s.jc.station) := by
      rw [claimByOther_mine (notice.trans hn) hs, ← hst]
      refine producePrior_produces fun k => ?_
      rw [hcu, hlp]
      exact none k
    rw [produced] at run
    have space : u.lp.hasSpace = s.lp.hasSpace := by rw [hlp]; rfl
    refine ⟨fun joined room => ?_, fun joined full few => ?_, fun isolated => ?_⟩
    · rw [produceCu_queued (hjs ▸ joined) (space.trans room)] at run
      have priors : _ = (u.lp.enqueue (.prior o s.jc.station)).queue.filter (fun f => decide (f.kind = .prior)) :=
        servedState_only (u.setLp (u.lp.enqueue (.prior o s.jc.station))) .priors id
      refine ⟨_, run, ?_, ?_, fun he => ?_⟩
      · have here : Frame.prior o s.jc.station ∈ (u.lp.enqueue (.prior o s.jc.station)).queue := mem_insertBy.2 (.inl rfl)
        exact (List.mem_filter.1 (priors ▸ List.mem_filter.2 ⟨here, rfl⟩)).1
      · rw [servedState_cu]
        exact hcu
      · rw [servedState_setPl (.inl (hxu ▸ he))]
        exact congrArg (State.setLp · _) pl
    · rw [produceCu_waits (hjs ▸ joined) (space.trans full) (hcu ▸ few)] at run
      refine ⟨_, run, ?_⟩
      rw [servedState_setPl (.inr ?_)]
      · rw [hcu]
        exact congrArg (State.setCu · _) pl
      · exact canServe_of_waiting (by simp)
    · rw [produceCu_discarded (hjs.trans isolated)] at run
      refine ⟨_, run, ?_⟩
      rw [servedState_setPl (.inr (canServe_of_isolated (hjs.trans isolated))), pl]
  · have stands : u.claimByOther o h.sender = u := by
      rw [claimByOther_mine (notice.trans hn) hs]
      refine producePrior_stands (k := k) ?_
      rw [hcu, hlp]
      exact there
    rw [stands] at run
    refine ⟨_, run, (servedState_cu u).trans hcu, ?_, fun he => ?_⟩
    · have priors := servedState_only u .priors id
      rw [Eq.trans priors rfl, hlp]
    · rw [servedState_setPl (.inl (hxu ▸ he)), pl]
  · refine ⟨_, run, ?_⟩
    rw [servedState_cu, State.claimByOther, notice, hn]
    show (u.makeSkeleton o h.sender).cu.notices = _
    rw [State.makeSkeleton, State.makeRoom, if_pos (by rw [hcu]; exact hl), ← hcu]
    rfl

/-! ### PRIOR (R133, R134) -/

theorem handed_facts {s u : State} {k : Kind} {h : Handed} (hh : s.handOver k = some (h, u)) (p : Pos) :
    u.build p = s.build p ∧ u.hold p = s.hold p ∧ u.put p = s.put p ∧ u.countsUnloading p = s.countsUnloading p
      ∧ u.putPending p = s.putPending p ∧ u.standIndex p = s.standIndex p ∧ u.jc.station = s.jc.station := by
  obtain ⟨-, rest, peers, rfl⟩ := handOver_eq hh
  exact ⟨rfl, rfl, rfl, rfl, rfl, rfl, rfl⟩

theorem takePrior_others {s : State} {o : OrderId} {n : Notice} (hn : s.notice? o = some n)
    (hs : n.state = .opened ∨ (∃ j, n.state = .others j) ∨ n.state = .stranded) (k : Station) :
    s.takePrior o k = s.modNotice o (fun n => { n with state := .others k }) := by
  obtain hs | ⟨j, hs⟩ | hs := hs <;> simp [State.takePrior, hn, hs]

theorem takePrior_marked {s : State} {o : OrderId} {n : Notice} {p : Pos} (hn : s.notice? o = some n)
    (hs : n.state = .marked p) (k : Station) : s.takePrior o k = s.breakLink p o (.others k) := by
  simp [State.takePrior, hn, hs]

theorem takePrior_mine {s : State} {o : OrderId} {n : Notice} {p : Pos} (hn : s.notice? o = some n)
    (hs : n.state = .mine p) (k : Station) : s.takePrior o k = s.yieldTo p o k := by
  simp [State.takePrior, hn, hs]

/-- A state after which a position leaves its order to another station. -/
structure Yields (t : State) (p : Pos) (o : OrderId) (n : Notice) (k : Station) : Prop where
  notice : t.notice? o = some { n with state := .others k }
  build : Looked t p o
  hold : t.hold p = none

theorem yields_enterEmpty {s : State} {o : OrderId} {n : Notice} (hn : s.notice? o = some n) (p : Pos) (k : Station) :
    Yields ((s.modNotice o (fun n => { n with state := .others k })).enterEmpty p) p o n k where
  notice := by
    rw [enterEmpty_notice (qualifies_modNotice fun n => not_qualifies_others n k)]
    exact modNotice_others_notice hn k
  build := enterEmpty_looked (qualifies_modNotice fun n => not_qualifies_others n k)
  hold := enterEmpty_hold _ p

theorem takePrior_yields {s : State} {o : OrderId} {n : Notice} {p : Pos} (hn : s.notice? o = some n)
    (hs : n.state = .marked p ∨ (n.state = .mine p ∧ (s.build p).state ≠ .sealed ∧ s.countsUnloading p = false
      ∧ (s.build p).content = [] ∧ s.putPending p = false)) (k : Station) :
    Yields (s.takePrior o k) p o n k := by
  obtain hs | ⟨hs, unsealed, notUnloading, content, idle⟩ := hs
  · rw [takePrior_marked hn hs]
    exact ⟨breakLink_notice hn p k, breakLink_looked s p o k, enterEmpty_hold _ p⟩
  · rw [takePrior_mine hn hs, State.yieldTo, if_neg unsealed, notUnloading, if_neg (by simp), content, idle]
    exact yields_enterEmpty hn p k

/-- Settles O46. -/
theorem priorNamesHolder : Obligations.PriorNamesHolder := by
  intro h o k u s hh hb
  have notice := notice?_handed hh o
  have run := execPrior_handed hh hb
  rw [(handed_cu hh).2.1] at run
  refine ⟨fun hk => ?_, fun hk n hn hs => ?_, fun hk n p hn hs => ?_⟩
  · rw [if_pos hk] at run
    obtain ⟨t, ht, same⟩ := finish_handed hh
    exact ⟨t, run.trans ht, same⟩
  · rw [if_neg hk, takePrior_others (notice.trans hn) hs] at run
    refine ⟨_, run, ?_⟩
    rw [servedState_notice]
    exact modNotice_others_notice (notice.trans hn) k
  · rw [if_neg hk] at run
    obtain ⟨hbd, -, -, hcu, hpp, -⟩ := handed_facts hh p
    obtain ⟨noticed, looked, free⟩ := takePrior_yields (notice.trans hn) (by rwa [hbd, hcu, hpp]) k
    obtain ⟨content, link, state⟩ := looked.facts
    rw [← servedState_build] at content link state
    exact ⟨_, run, by rw [servedState_notice, noticed], content, servedState_hold_none free, link, state⟩

/-! ### Orders lost to another station (R48, R139) -/

theorem raiseGone_gone {s : State} {o : OrderId} {n : Notice} {p : Pos} (hn : s.notice? o = some n)
    (free : s.hold p = none) (k : Station) : ∃ x,
      (servedState ((s.goGone p o k).raiseGone p k)).notice? o = some { n with state := .gone p (some k) }
      ∧ ((servedState ((s.goGone p o k).raiseGone p k)).build p).state = .held
      ∧ (servedState ((s.goGone p o k).raiseGone p k)).hold p = some x ∧ x.primary = ⟨.orderGone, false⟩
      ∧ x.saved = (s.build p).savedState := by
  obtain ⟨held, r, hold⟩ := raise_held (s := s.goGone p o k) (p := p) (c := .plain .orderGone none k.toNat) free
  have served := servedState_only ((s.goGone p o k).raiseGone p k) (.causes p) id
  obtain ⟨r', hold'⟩ := (hold_of_causes served).2 _ hold
  refine ⟨_, ?_, ?_, hold', rfl, rfl⟩
  · have notices : ((s.goGone p o k).raiseGone p k).cu.notices = (s.goGone p o k).cu.notices :=
      (Only.refl _ _).raise (le_refl (raiseT (· = p))) rfl _ .notices id
    rw [servedState_notice, notice?_congr notices, State.goGone,
      notice?_modNotice _ _ (fun n => { n with state := .gone p (some k) }) fun _ => rfl, hn]
    rfl
  · rw [servedState_build, State.raiseGone, held]

theorem countsUnloading_of_works {s : State} {p : Pos}
    (h : (s.build p).state = .gathering ∨ (s.build p).state = .putting) :
    (s.build p).state ≠ .sealed ∧ s.countsUnloading p = false := by
  obtain h | h := h <;> simp [State.countsUnloading, h]

/-- Settles O47. -/
theorem lostOrderHoldsBuild : Obligations.LostOrderHoldsBuild := by
  intro h o p n u s hn hs hst hf
  refine ⟨fun k hh hb hk hc => ?_, fun fl tot w hh hb hk => ?_⟩
  all_goals
    have notice := (notice?_handed hh o).trans hn
    obtain ⟨hbd, hho, -, -, -, -, hst'⟩ := handed_facts hh p
    obtain ⟨unsealed, notUnloading⟩ := countsUnloading_of_works (s := u) (p := p) (by rwa [hbd])
    rw [← hbd]
  · have run := execPrior_handed hh hb
    rw [hst', if_neg hk, takePrior_mine notice hs, State.yieldTo, if_neg unsealed, notUnloading, if_neg (by simp), hbd,
      if_neg (by simp [hc])] at run
    obtain ⟨x, facts⟩ := raiseGone_gone notice (hho.trans hf) k
    exact ⟨_, x, run, facts⟩
  · have run := execDone_handed hh hb
    have lost : u.takeDone o h.sender (u.fromSelf h) = (u.goGone p o h.sender).raiseGone p h.sender := by
      simp [State.takeDone, notice, hs, fromSelf_eq hh, hk, State.doneByOther, unsealed, notUnloading]
    rw [lost] at run
    obtain ⟨x, facts⟩ := raiseGone_gone notice (hho.trans hf) h.sender
    exact ⟨_, x, run, facts⟩

/-! ### RELEASE (R136) -/

theorem Notice.release_order (n : Notice) (k : Station) : (n.release k).order = n.order := by
  unfold Notice.release Notice.reopen
  split
  · split <;> rfl
  all_goals rfl

/-- The notice of a RELEASE's order, which a position may mark if it is OPEN again. -/
theorem takeRelease_notice {s : State} {o : OrderId} {n : Notice} (hn : s.notice? o = some n) (k : Station) :
    ∃ m, (s.takeRelease o k).notice? o = some m ∧ MarkedFrom (n.release k) m
      ∧ ((n.isOthers && (n.release k).offersItself) = false → m = n.release k) := by
  have released : (s.modNotice o (·.release k)).notice? o = some (n.release k) := by
    rw [notice?_modNotice _ _ (·.release k) fun n => Notice.release_order n k, hn]
    rfl
  unfold State.takeRelease
  rw [hn]
  dsimp only
  split
  case isTrue looks =>
    obtain ⟨m, hm, from'⟩ := (lookAll_marks (s.modNotice o (·.release k))).notice released
    exact ⟨m, hm, from', fun h => by simp [looks] at h⟩
  case isFalse => exact ⟨_, released, .inl rfl, fun _ => rfl⟩

theorem release_reopens {n : Notice} {k : Station} (h : n.state = .opened ∨ n.state = .others k) :
    n.release k = n.reopen := by
  obtain h | h := h <;> simp [Notice.release, h]

theorem release_stands {n : Notice} {k : Station} (h : (∃ j, j ≠ k ∧ n.state = .others j) ∨ (∃ p, n.state = .mine p)
    ∨ n.state = .stranded ∨ ∃ p j, n.state = .gone p j) : n.release k = n := by
  obtain ⟨j, hj, h⟩ | ⟨p, h⟩ | h | ⟨p, j, h⟩ := h
  · simp [Notice.release, h, hj]
  all_goals simp [Notice.release, h]

theorem not_offersItself {n : Notice} (h : n.state ≠ .opened) : n.offersItself = false := by
  simp [Notice.offersItself, h]

theorem countUp_eq (c : Nat) : countUp c = min (c + 1) 3 := rfl

theorem openAt_cases (c : Nat) : (3 ≤ c ∧ openAt c = .stranded) ∨ (c < 3 ∧ openAt c = .opened) := by
  unfold openAt
  split
  case isTrue h => exact .inl ⟨h, rfl⟩
  case isFalse h => exact .inr ⟨Nat.lt_of_not_le h, rfl⟩

/-- Settles O48. -/
theorem releaseCounts : Obligations.ReleaseCounts := by
  intro h o n u s hh hb hn
  have run := execRelease_handed hh hb
  obtain ⟨m, hm, marked, stands⟩ := takeRelease_notice ((notice?_handed hh o).trans hn) h.sender
  have here : (u.takeRelease o h.sender).flush.notice? o = some m := by
    rw [notice?_congr (congrArg ClaimUnit.notices (State.flush_cu _)), hm]
  refine ⟨fun hs => ?_, fun ⟨p, hs⟩ => ?_, fun hs => ?_⟩
  · rw [release_reopens hs] at marked stands
    refine ⟨_, m, run, here, ?_, ?_, fun two => ?_, fun two => ?_⟩
    · obtain rfl | ⟨p, rfl⟩ := marked <;> rfl
    · obtain rfl | ⟨p, rfl⟩ := marked <;> rfl
    · have stranded : n.reopen.state = .stranded :=
        ((openAt_cases (countUp n.count)).resolve_right fun k => by have := countUp_eq n.count; omega).2
      rw [stands, stranded]
      rw [not_offersItself (by rw [stranded]; exact nofun), Bool.and_false]
    · have opened : n.reopen.state = .opened :=
        ((openAt_cases (countUp n.count)).resolve_left fun k => by have := countUp_eq n.count; omega).2
      obtain rfl | ⟨p, rfl⟩ := marked
      · exact .inl opened
      · exact .inr ⟨p, rfl⟩
  · have up : n.release h.sender = { n with count := min (n.count + 1) 3 } := by simp [Notice.release, hs, countUp_eq]
    rw [stands (by rw [not_offersItself (by simp [up, hs]), Bool.and_false]), up] at here
    exact ⟨_, run, here⟩
  · have same := release_stands hs
    have shut : n.offersItself = false := not_offersItself (by
      obtain ⟨j, -, h⟩ | ⟨p, h⟩ | h | ⟨p, j, h⟩ := hs <;> simp [h])
    rw [stands (by rw [same, shut, Bool.and_false]), same] at here
    exact ⟨_, run, here⟩

/-! ### DONE (R139) -/

theorem takeDone_removes {s : State} {o : OrderId} {n : Notice} (hn : s.notice? o = some n)
    (hs : n.state = .opened ∨ (∃ j, n.state = .others j) ∨ n.state = .stranded) (k : Station) (own : Bool) :
    s.takeDone o k own = s.removeNotice o := by
  obtain hs | ⟨j, hs⟩ | hs := hs <;> simp [State.takeDone, hn, hs]

/-- Settles O49. -/
theorem doneRemovesNotice : Obligations.DoneRemovesNotice := by
  intro h o fl tot w n u s hh hb hn
  have run := execDone_handed hh hb
  have notice := (notice?_handed hh o).trans hn
  obtain ⟨hcu, -, -, -, -, -, -, hxu, -⟩ := handed_cu hh
  refine ⟨fun hs => ?_, fun p hs hx => ?_, fun ⟨p, hs⟩ own => ?_⟩
  · rw [takeDone_removes notice hs] at run
    refine ⟨_, run, fun m => ?_⟩
    rw [servedState_cu, mem_removeNotice, hcu]
  · have removed : u.takeDone o h.sender (u.fromSelf h) = ((u.withdrawClaim o).removeNotice o).enterEmpty p := by
      simp [State.takeDone, notice, hs]
    rw [removed] at run
    have absent : (Part.absent (.claim o)).Same (u.withdrawClaim o) (((u.withdrawClaim o).removeNotice o).enterEmpty p) :=
      Part.Same.trans ⟨id, id⟩ (enterEmpty_absent qualifies_removeNotice p)
    obtain ⟨waiting, queue⟩ := unlinked_claim_gone (hxu ▸ hx) absent
    obtain ⟨-, link, state⟩ := (enterEmpty_looked (p := p) (qualifies_removeNotice (s := u.withdrawClaim o) (o := o))).facts
    rw [← servedState_build] at link state
    refine ⟨_, run, fun m hm ho => ?_, waiting, queue, link, state⟩
    rw [servedState_cu, (enterEmpty_marks _ p).mem_of_order qualifies_removeNotice ho, mem_removeNotice] at hm
    exact hm.2 ho
  · have stands : u.takeDone o h.sender (u.fromSelf h) = u := by
      simp [State.takeDone, notice, hs, fromSelf_eq hh, own]
    rw [stands] at run
    exact ⟨_, run, by rw [servedState_cu, hcu]⟩

end Sys2Proof.Proofs
end


section
/-! Timers of the station and of builds (R27, R28, R39, R196, R205), NOTICE (R127, R128) and this station's own CLAIM
(R130). -/

namespace Sys2Proof.Proofs

open Sys2Proof.Machine

/-! ### Which notice a position marks (R28) -/

theorem bestCandidate_first {n : Notice} {ys : List Notice} (hq : n.qualifies = true)
    (hy : ∀ m ∈ ys, m.qualifies = true → n.rank ≤ m.rank) : bestCandidate (n :: ys) = some n := by
  rw [bestCandidate]
  cases hb : bestCandidate ys with
  | none => simp [hq]
  | some m =>
    obtain ⟨hm, hmq⟩ := bestCandidate_mem hb
    simp [hq, hy m hm hmq]

theorem bestCandidate_append {n : Notice} {xs ys : List Notice} (hq : n.qualifies = true)
    (hx : ∀ m ∈ xs, m.qualifies = true → n.rank < m.rank) (hy : ∀ m ∈ ys, m.qualifies = true → n.rank ≤ m.rank) :
    bestCandidate (xs ++ n :: ys) = some n := by
  induction xs with
  | nil => exact bestCandidate_first hq hy
  | cons x xs ih =>
    rw [List.cons_append, bestCandidate, ih fun m hm => hx m (List.mem_cons_of_mem x hm)]
    dsimp only
    by_cases hxq : x.qualifies = true
    · rw [if_neg (by simp [hx x List.mem_cons_self hxq])]
    · simp [hxq]

theorem mayLook_iff (s : State) : s.mayLook = true ↔ s.jc.state = .active ∧ s.hc.stopped = false
    ∧ s.lp.suppression = none ∧ ∀ f ∈ s.cu.waiting, f.kind ≠ .claim := by
  simp [State.mayLook, State.claimWaiting, and_assoc]

theorem look_stands {s : State} {p : Pos} (h : (s.build p).state ≠ .empty ∨ s.jc.state ≠ .active
    ∨ s.hc.stopped = true ∨ s.lp.suppression ≠ none ∨ (∃ f ∈ s.cu.waiting, f.kind = .claim)
    ∨ ∀ n ∈ s.cu.notices, ¬ (n.state = .opened ∧ n.releasedByMe = false ∧ n.info ≠ none)) : s.look p = s := by
  unfold State.look
  by_cases hl : (decide ((s.build p).state = .empty) && s.mayLook) = true
  · rw [Bool.and_eq_true, mayLook_iff] at hl
    obtain ⟨empty, active, moving, free, quiet⟩ := hl
    have none : bestCandidate s.cu.notices = none := by
      obtain h | h | h | h | ⟨f, hf, h⟩ | h := h
      · exact absurd (of_decide_eq_true empty) h
      · exact absurd active h
      · simp [moving] at h
      · exact absurd free h
      · exact absurd h (quiet f hf)
      · exact bestCandidate_eq_none.2 fun n hn => Bool.eq_false_iff.2 fun hq => h n hn ((qualifies_iff n).1 hq)
    rw [none]
    simp
  · exact if_neg hl

theorem look_marks_best {s : State} {p : Pos} {n : Notice} (empty : (s.build p).state = .empty)
    (looks : s.mayLook = true) (hn : bestCandidate s.cu.notices = some n) : s.look p = s.mark p n := by
  unfold State.look
  rw [if_pos (by simp [empty, looks]), hn]

/-- The state in which a notice is marked, before CLAIM is produced. -/
def markedState (s : State) (p : Pos) (n : Notice) : State :=
  let t := s.modNotice n.order (fun m => { m with state := .marked p })
  t.setBuild p { t.build p with state := .claiming, link := some n.order }

theorem mark_setPl (s : State) (p : Pos) (n : Notice) (w : Panel) :
    (s.mark p n).setPl w = ((markedState s p n).produceCu (.claim n.order)).setPl w := by
  show (((markedState s p n).produceCu (.claim n.order)).showBuild p).setPl w = _
  obtain ⟨v, e⟩ := State.showBuild_only_pl ((markedState s p n).produceCu (.claim n.order)) p
  rw [e]
  rfl

/-- Settles O56. -/
theorem stationTimersRunOut : Obligations.StationTimersRunOut := by
  have looked (s : State) : Only (lookT fun _ => True) s s.lookAll.flush :=
    ((Only.refl _ s).lookAll (le_refl _) fun _ => trivial).flush (panelT_le_lookT _)
  have su {s : State} : s.lookAll.flush.su = s.su := (looked s).su_eq (by simp [lookT])
  have xu {s : State} : s.lookAll.flush.xu = s.xu := (looked s).xu_eq (by simp [lookT])
  intro s
  refine ⟨fun hs => ?_, fun hj hl => ?_, fun hs => ?_, fun hj hl => ?_, fun p => ⟨look_stands, ?_⟩⟩
  · have run : exec .suppressionExpiry s = .next (s.setLp { s.lp with suppression := none }).lookAll.flush := if_pos hs
    have only := looked (s.setLp { s.lp with suppression := none })
    exact ⟨_, run, (only .port id).2.2.2, only.jc_eq id, su, xu, only.wf_eq id⟩
  · have run : exec .joinLimitExpiry s = .next s.enterActive.flush := if_pos ⟨hj, hl⟩
    have only := looked (s.setJc { s.jc with
      state := .active, joinLeft := none, rollLeft := some Config.rollPeriod, rollOwed := false })
    exact ⟨_, run, only.jc_eq id, su, xu, only.wf_eq id⟩
  · exact if_pos hs
  · exact if_pos ⟨hj, hl⟩
  · intro xs n ys i u empty active moving free quiet hns opened fresh info hx hy hu
    have hq : n.qualifies = true := (qualifies_iff n).2 ⟨opened, fresh, by simp [info]⟩
    have rank : n.rank = i.rank := by rw [Notice.rank, info]
    have above {m : Notice} (hm : m.qualifies = true) :
        ∃ j, m.state = .opened ∧ m.releasedByMe = false ∧ m.info = some j ∧ m.rank = j.rank := by
      obtain ⟨ho, hr, hi⟩ := (qualifies_iff m).1 hm
      obtain ⟨j, hj⟩ := Option.ne_none_iff_exists'.1 hi
      exact ⟨j, ho, hr, hj, by rw [Notice.rank, hj]⟩
    have best : bestCandidate s.cu.notices = some n := by
      rw [hns]
      refine bestCandidate_append hq (fun m hm hmq => ?_) fun m hm hmq => ?_
      · obtain ⟨j, ho, hr, hj, e⟩ := above hmq
        rw [rank, e]
        exact hx m hm j ho hr hj
      · obtain ⟨j, ho, hr, hj, e⟩ := above hmq
        rw [rank, e]
        exact hy m hm j ho hr hj
    have marked : markedState s p n = u := hu ▸ rfl
    have joined : u.jc.state ≠ .isolated := by
      rw [hu]
      show s.jc.state ≠ _
      rw [active]
      exact nofun
    have lp : u.lp = s.lp := by rw [hu]; rfl
    have waiting : u.cu.waiting = s.cu.waiting := by rw [hu]; rfl
    have pl : u.setPl s.pl = u := by rw [hu]; rfl
    rw [look_marks_best empty ((mayLook_iff s).2 ⟨active, moving, free, quiet⟩) best, mark_setPl, marked]
    refine ⟨fun space => ?_, fun full few => ?_⟩
    · rw [produceCu_queued joined (lp ▸ space), lp]
      exact congrArg (State.setLp · _) pl
    · rw [produceCu_waits joined (lp ▸ full) (waiting ▸ few), waiting]
      exact congrArg (State.setCu · _) pl

/-! ### The gather limit (R39) -/

theorem Emptied_setPl {s t : State} {p : Pos} {o : OrderId} (h : s.Emptied t p o) (v : Panel) :
    s.Emptied (t.setPl v) p o where
  build := h.build
  hold := h.hold
  put := h.put
  valuation := h.valuation
  request := h.request
  unearmarked := h.unearmarked
  freed := h.freed
  unlinked := h.unlinked
  asks := h.asks

theorem Emptied_flush {s t : State} {p : Pos} {o : OrderId} (h : s.Emptied t p o) : s.Emptied t.flush p o := by
  obtain ⟨v, e⟩ := State.flush_only_pl t
  rw [e]
  exact Emptied_setPl h v

/-- An emptied position is so from any state with the same shelf and puts. -/
theorem Emptied_of_same {s u t : State} {p : Pos} {o : OrderId} (h : u.Emptied t p o)
    (hs : ∀ i, u.su.slot i = s.su.slot i) (hp : u.put p = s.put p) : s.Emptied t p o where
  build := h.build
  hold := h.hold
  put := h.put
  valuation := h.valuation
  request := h.request
  unearmarked := h.unearmarked
  freed i v l hv hr := h.freed i v l ((hs i).trans hv) (hp ▸ hr)
  unlinked := h.unlinked
  asks := h.asks

/-- A position that gives its order up: RELEASE, and EMPTY. -/
theorem released_and_emptied {s : State} {p : Pos} {o : OrderId} {n : Notice} (hn : s.notice? o = some n) :
    ((s.releaseOrder o).enterEmpty p).notice? o = some n.given ∧ s.Releases ((s.releaseOrder o).enterEmpty p) o
      ∧ s.Emptied ((s.releaseOrder o).enterEmpty p) p o := by
  have only : Only releaseT s (s.releaseOrder o) := (Only.refl _ s).releaseOrder (le_refl _) o
  have given : ∀ m ∈ (s.releaseOrder o).cu.notices, m.order = o → m.qualifies = false := fun m => releaseOrder_given
  refine ⟨?_, ?_, ?_⟩
  · rw [enterEmpty_notice given, releaseOrder_notice, hn]
    rfl
  · exact releases_of_only (releaseOrder_releases s o) ((Only.refl _ _).enterEmpty (le_refl (leaveT p)))
      (only.jc_eq id) (fun h => h.elim id id) (fun h => h.elim id id) fun h => h.elim id id
  · have slots : (s.releaseOrder o).su.slots = s.su.slots := only .slots id
    refine Emptied_of_same (enterEmpty_emptied given) (fun i => ?_) (only (.put p) id)
    rw [Stock.slot, slots]
    rfl

theorem Releases_flush {s t : State} {o : OrderId} (h : s.Releases t o) : s.Releases t.flush o := by
  unfold State.Releases at h ⊢
  rwa [State.flush_lp, State.flush_cu]

/-- Settles O31. -/
theorem gatherLimitEnds : Obligations.GatherLimitEnds := by
  intro p s hs hl
  have run : exec (.gatherLimitExpiry p) s = .next (s.gatherLate p).flush := if_pos ⟨hs, hl⟩
  refine ⟨fun o n hc ho hn => ?_, fun hc hf => ?_⟩
  · have late : s.gatherLate p = (s.releaseOrder o).enterEmpty p := by simp [State.gatherLate, hc, ho]
    rw [late] at run
    obtain ⟨notice, releases, emptied⟩ := released_and_emptied (p := p) hn
    exact ⟨_, run, (notice?_congr (congrArg _ (State.flush_cu _)) o).trans notice, Releases_flush releases,
      Emptied_flush emptied⟩
  · have late : s.gatherLate p = s.raise p (.plain .gatherLate none (s.build p).uncoveredSum) := by
      simp [State.gatherLate, hc]
    rw [late] at run
    obtain ⟨held, r, hold⟩ := raise_held (c := .plain .gatherLate none (s.build p).uncoveredSum) hf
    have only : Only (raiseT (· = p)) s (s.raise p (.plain .gatherLate none (s.build p).uncoveredSum)) :=
      (Only.refl _ s).raise (Q := (· = p)) (le_refl _) rfl _
    have saved : (s.build p).savedState = .gathering := by simp [Build.savedState, hs]
    refine ⟨_, _, run, ?_, (State.flush_hold _ p).trans hold, rfl, saved, saved, ?_, ?_⟩
    · rw [State.flush_build, held]
    · rw [State.flush_su]
      exact only.su_eq (by simp [raiseT])
    · rw [State.flush_cu]
      exact only.cu_eq id id

/-! ### NOTICE (R127, R128) -/

theorem evicted_eq (ns : List Notice) : evicted ns = firstSome (fun test => ns.find? test)
    [fun n => n.isOthers, fun n => decide (n.state = .stranded), fun n => decide (n.state = .opened) && n.info.isNone] := by
  unfold evicted
  cases others : ns.find? Notice.isOthers with
  | some n => simp [firstSome, others]
  | none =>
    cases stranded : ns.find? (fun n => decide (n.state = .stranded)) with
    | some n => simp [firstSome, others, stranded]
    | none =>
      cases skeleton : ns.find? (fun n => decide (n.state = .opened) && n.info.isNone) with
      | some n => simp [firstSome, others, stranded, skeleton]
      | none => simp [firstSome, others, stranded, skeleton]

theorem evicted_eq_none {ns : List Notice} (h : ∀ n ∈ ns, n.isOthers = false ∧ n.state ≠ .stranded
    ∧ ¬ (n.state = .opened ∧ n.info = none)) : evicted ns = none := by
  have others : ns.find? Notice.isOthers = none := List.find?_eq_none.2 fun n hn => by simp [(h n hn).1]
  have stranded : ns.find? (fun n => decide (n.state = .stranded)) = none :=
    List.find?_eq_none.2 fun n hn => by simp [(h n hn).2.1]
  have skeleton : ns.find? (fun n => decide (n.state = .opened) && n.info.isNone) = none :=
    List.find?_eq_none.2 fun n hn => by simpa using (h n hn).2.2
  rw [evicted, others, stranded]
  exact skeleton

/-- What a notice list shows of its notices but for their states. -/
def noticeFacts (n : Notice) : OrderId × Option NoticeInfo × Nat × Bool := (n.order, n.info, n.count, n.releasedByMe)

theorem newNotice_joins {s t : State} (hm : s.makeRoom = some t) (b : WireNotice) (i : NoticeInfo) :
    (s.newNotice b i).cu.notices.map noticeFacts
      = t.cu.notices.map noticeFacts ++ [(b.order, some i, min b.round.toNat 3, false)] := by
  have joined : (t.joinNotice (freshNotice b i)).cu.notices.map noticeFacts
      = t.cu.notices.map noticeFacts ++ [(b.order, some i, min b.round.toNat 3, false)] := by
    show (t.cu.notices ++ [freshNotice b i]).map noticeFacts = _
    rw [List.map_append]
    rfl
  unfold State.newNotice
  rw [hm]
  dsimp only
  split
  · rw [(lookAll_marks _).facts noticeFacts fun _ _ => rfl, joined]
  · exact joined

theorem Notice.update_order (n : Notice) (b : WireNotice) (i : NoticeInfo) : (n.update b i).order = n.order := by
  unfold Notice.update
  dsimp only
  split <;> split <;> rfl

theorem Notice.update_facts (n : Notice) (b : WireNotice) (i : NoticeInfo) :
    (n.update b i).count = max n.count b.count ∧ (n.update b i).info = (if n.info.isNone then some i else n.info) := by
  unfold Notice.update
  dsimp only
  split <;> split <;> simp <;> omega

theorem Notice.update_higher {n : Notice} {b : WireNotice} (h : n.count < b.count) (i : NoticeInfo) :
    (n.update b i).releasedByMe = false ∧ (n.update b i).state = n.raisedState b.count := by
  unfold Notice.update
  dsimp only
  rw [if_pos h]
  exact ⟨rfl, rfl⟩

theorem Notice.update_not_higher {n : Notice} {b : WireNotice} (h : b.count ≤ n.count) (i : NoticeInfo) :
    (n.update b i).releasedByMe = n.releasedByMe ∧ (n.update b i).state = n.state := by
  unfold Notice.update
  dsimp only
  rw [if_neg (Nat.not_lt.2 h)]
  split <;> exact ⟨rfl, rfl⟩

/-- The notice of a NOTICE's order, which a position may mark if the update makes it look. -/
theorem takeNotice_known {s : State} {b : WireNotice} {n : Notice} (hn : s.notice? b.order = some n) (i : NoticeInfo) :
    ∃ m, (s.takeNotice b i).notice? b.order = some m ∧ MarkedFrom (n.update b i) m
      ∧ (n.updateLooks (n.update b i) = false → m = n.update b i) := by
  have updated : (s.modNotice b.order (·.update b i)).notice? b.order = some (n.update b i) := by
    rw [notice?_modNotice _ _ (·.update b i) fun m => Notice.update_order m b i, hn]
    rfl
  unfold State.takeNotice
  rw [hn]
  dsimp only
  split
  case isTrue looks =>
    obtain ⟨m, hm, from'⟩ := (lookAll_marks (s.modNotice b.order (·.update b i))).notice updated
    exact ⟨m, hm, from', fun h => by simp [looks] at h⟩
  case isFalse => exact ⟨_, updated, .inl rfl, fun _ => rfl⟩

theorem updateLooks_of_not_opened {n m : Notice} (h : m.state ≠ .opened) : n.updateLooks m = false := by
  simp [Notice.updateLooks, h]

theorem execNotice_handed {s u : State} {h : Handed} {b : WireNotice} {i : NoticeInfo}
    (hh : s.handOver .notice = some (h, u)) (hb : Frame.ofBody h.kind h.body = some (.notice b))
    (hc : b.check = some i) : exec .notice s = finish (u.takeNotice b i) := by
  show execNotice s = _
  rw [execNotice, hh]
  simp only [hb, hc]

/-- Settles O43. -/
theorem noticeUpdatesList : Obligations.NoticeUpdatesList := by
  intro h b i u s hh hb hc
  have run := execNotice_handed hh hb hc
  have notice := notice?_handed hh b.order
  have hcu := (handed_cu hh).1
  have fresh (hn : s.notice? b.order = none) : u.takeNotice b i = u.newNotice b i := by
    simp [State.takeNotice, notice, hn]
  refine ⟨fun hn hl => ?_, fun hn hl => ⟨fun e he => ?_, fun none => ?_⟩, fun n hn => ?_⟩
  · rw [fresh hn] at run
    refine ⟨_, run, ?_⟩
    have room : u.makeRoom = some u := if_pos (by rw [hcu]; exact hl)
    rw [State.flush_cu]
    exact (newNotice_joins room b i).trans (by rw [hcu]; rfl)
  · rw [fresh hn] at run
    refine ⟨_, run, ?_⟩
    have room : u.makeRoom = some (u.removeNotice e.order) := by
      rw [State.makeRoom, if_neg (by rw [hcu]; exact Nat.not_lt.2 hl), hcu, evicted_eq, he]
    rw [State.flush_cu]
    exact (newNotice_joins room b i).trans (by rw [State.removeNotice, hcu]; rfl)
  · have room : u.makeRoom = Option.none := by
      rw [State.makeRoom, if_neg (by rw [hcu]; exact Nat.not_lt.2 hl), hcu, evicted_eq_none none]
    have dropped : u.newNotice b i = u.benchReport .noticeDropped Option.none i.rank := by rw [State.newNotice, room]
    rw [fresh hn, dropped] at run
    obtain ⟨-, rest, peers, rfl⟩ := handOver_eq hh
    refine ⟨_, run, flush_setPl_eq _ _, fun room owes => ?_⟩
    refine (Steady.refl _).flush.panel.reports _ _ _ _ ?_
    show _ ∈ (s.pl.sendReport _).buffer
    rw [Panel.sendReport, if_neg (by simp [owes]; exact room)]
    exact List.mem_append_right _ (List.mem_singleton.2 rfl)
  · obtain ⟨m, hm, marked, stands⟩ := takeNotice_known (notice.trans hn) i
    obtain ⟨count, info⟩ := Notice.update_facts n b i
    have keeps : m.count = (n.update b i).count ∧ m.info = (n.update b i).info
        ∧ m.releasedByMe = (n.update b i).releasedByMe
        ∧ (m.state = (n.update b i).state ∨ ∃ p, m.state = .marked p) := by
      obtain rfl | ⟨p, rfl⟩ := marked
      · exact ⟨rfl, rfl, rfl, .inl rfl⟩
      · exact ⟨rfl, rfl, rfl, .inr ⟨p, rfl⟩⟩
    obtain ⟨mcount, minfo, mreleased, mstate⟩ := keeps
    refine ⟨_, m, run, (notice?_congr (congrArg _ (State.flush_cu _)) _).trans hm, mcount.trans count, minfo.trans info,
      fun higher => ?_, fun lower => ?_⟩
    · obtain ⟨released, state⟩ := Notice.update_higher (show n.count < b.count from higher) i
      refine ⟨mreleased.trans released, fun hs => ?_, fun hs => ?_⟩
      · have raised : n.raisedState b.count = openAt b.count := by
          obtain hs | ⟨j, hs⟩ := hs <;> simp [Notice.raisedState, hs]
        rw [raised] at state
        have hcount : b.count = min b.round.toNat 3 := rfl
        obtain ⟨high, e⟩ | ⟨low, e⟩ := openAt_cases b.count
        · refine ⟨fun _ => ?_, fun hlow => by omega⟩
          rw [stands (updateLooks_of_not_opened (by rw [state, e]; exact nofun)), state, e]
        · refine ⟨fun hhigh => by omega, fun _ => ?_⟩
          rwa [state, e] at mstate
      · have raised : n.raisedState b.count = n.state := by
          obtain ⟨p, hs⟩ | ⟨p, hs⟩ | ⟨p, j, hs⟩ := hs <;> simp [Notice.raisedState, hs]
        rw [raised] at state
        have shut : n.state ≠ .opened := by
          obtain ⟨p, hs⟩ | ⟨p, hs⟩ | ⟨p, j, hs⟩ := hs <;> simp [hs]
        rw [stands (updateLooks_of_not_opened (by rwa [state])), state]
    · obtain ⟨released, state⟩ := Notice.update_not_higher (show b.count ≤ n.count from lower) i
      refine ⟨mreleased.trans released, ?_⟩
      by_cases looks : n.updateLooks (n.update b i) = true
      · rw [Notice.updateLooks, released, state] at looks
        have skeleton : n.state = .opened ∧ n.info = none := by
          obtain ⟨opened, h | h⟩ : n.state = .opened ∧ (¬ n.state = .opened ∨ n.info = none) := by simpa using looks
          · exact absurd opened h
          · exact ⟨opened, h⟩
        obtain ⟨opened, skeleton⟩ := skeleton
        exact (state ▸ mstate).imp_right fun hp => ⟨opened, skeleton, hp⟩
      · rw [stands (by simpa using looks)]
        exact .inl state

/-! ### This station's own CLAIM (R130) -/

/-- The build of a claim that has succeeded, before its lines take up units. -/
def claimedState (s : State) (p : Pos) (o : OrderId) : State :=
  let t := (s.modNotice o (fun n => { n with state := .mine p })).countClaim
  (t.setBuild p { t.build p with
    state := .gathering, claimOrder := some t.claimCounter
    lines := (t.orderLines o).map (LineRec.fresh t.jc.setup.exactWait)
    gatherLeft := some t.jc.setup.gatherLimit }).showBuild p

theorem claimSuccess_only (s : State) (p : Pos) (o : OrderId) :
    Only (gatherT (· = p)) (claimedState s p o) (s.claimSuccess p o) :=
  Only.coverage (Q := (· = p)) (Only.handLines (Q := (· = p)) (Only.exactFill (Q := (· = p)) (Only.refl _ _)
    ((fillT_le_matchT _).trans (matchT_le_gatherT _)) rfl) (handT_le_gatherT _) rfl)
    ((worksT_le_matchT _).trans (matchT_le_gatherT _)) rfl

theorem countClaim_below {s : State} (h : s.claimCounter < 65535) : s.countClaim = s.setCounter (s.claimCounter + 1) :=
  if_pos h

theorem modNotice_mine_notice {s : State} {o : OrderId} {n : Notice} (hn : s.notice? o = some n) (p : Pos) :
    (s.modNotice o (fun n => { n with state := .mine p })).notice? o = some { n with state := .mine p } := by
  rw [notice?_modNotice _ _ (fun n => { n with state := .mine p }) fun _ => rfl, hn]
  rfl

/-- Settles O44. -/
theorem ownClaimSucceeds : Obligations.OwnClaimSucceeds := by
  intro h o n p u s hh hb hk hn hs hc
  have notice := (notice?_handed hh o).trans hn
  obtain ⟨-, -, -, -, hbe, -, -, -, hcounter⟩ := handed_cu hh
  have back : u.claimBack o = u.claimSuccess p o := by simp [State.claimBack, notice, hs]
  have run : exec .claim s = .next (servedState (u.claimSuccess p o)) := by
    rw [execClaim_handed hh hb, fromSelf_eq hh, if_pos (by simpa using hk), back]
  have only := claimSuccess_only u p o
  have counted : (u.modNotice o (fun n => { n with state := .mine p })).countClaim
      = (u.modNotice o (fun n => { n with state := .mine p })).setCounter (s.claimCounter + 1) := by
    rw [countClaim_below (s := u.modNotice o _) (show u.claimCounter < _ from hcounter ▸ hc), ← hcounter]
    rfl
  have mine := modNotice_mine_notice notice p
  have claimed : (claimedState u p o).build p = { u.build p with
      state := .gathering, claimOrder := some (s.claimCounter + 1)
      lines := (s.orderLines o).map (LineRec.fresh u.jc.setup.exactWait)
      gatherLeft := some u.jc.setup.gatherLimit } := by
    unfold claimedState
    dsimp only
    rw [counted, State.showBuild_build, State.setBuild_build_same]
    have lines : ((u.modNotice o (fun n => { n with state := .mine p })).setCounter (s.claimCounter + 1)).orderLines o
        = s.orderLines o := by
      have same : ((u.modNotice o (fun n => { n with state := .mine p })).setCounter (s.claimCounter + 1)).notice? o
          = some { n with state := .mine p } := mine
      rw [State.orderLines, State.orderLines, same, hn]
      rfl
    rw [lines]
    rfl
  refine ⟨_, run, ?_, ?_, ?_, ?_, ?_⟩
  · rw [servedState_notice, notice?_congr (only .notices id), claimedState]
    dsimp only
    rw [counted, notice?_congr (congrArg _ (State.showBuild_cu _ _))]
    exact mine
  · rw [servedState_counter, only .counter id, claimedState]
    dsimp only
    rw [counted, State.showBuild_claimCounter]
    rfl
  · have same : ((u.claimSuccess p o).build p).claimOrder = _ := only (.build .claimOrder p) id
    rw [servedState_build, same, claimed]
  · have same : ((u.claimSuccess p o).build p).lines.map (·.item) = _ := only (.build .items p) id
    rw [servedState_build, same, claimed, List.map_map]
    exact List.map_id _
  · have same : ((u.claimSuccess p o).build p).content = _ := only (.build .content p) id
    rw [servedState_build, same, claimed]
    exact congrArg (fun b => Build.content (PerPos.get b p)) hbe

end Sys2Proof.Proofs
end


section
/-! Records that stay in place in the panel's buffer (R211), SETUP (R206), the transmit queue's places (R197 to R200)
and isolation (R142, R192). -/

namespace Sys2Proof.Proofs

open Sys2Proof.Machine

/-! ### Records that stay in place (R211) -/

/-- `y`'s buffer is `x`'s with some LAMP and POSITION records replaced in place, and more records behind. -/
def Extends (x y : Panel) : Prop :=
  ∃ (f : PanelOut → PanelOut) (more : List PanelOut), y.buffer = x.buffer.map f ++ more
    ∧ ∀ c p u v, f (.report c p u v) = .report c p u v

theorem Extends.refl (x : Panel) : Extends x x := ⟨id, [], by simp, fun _ _ _ _ => rfl⟩

theorem Extends.of_buffer {x y : Panel} (h : y.buffer = x.buffer) : Extends x y :=
  ⟨id, [], by simp [h], fun _ _ _ _ => rfl⟩

theorem Extends.of_append {x y : Panel} (more : List PanelOut) (h : y.buffer = x.buffer ++ more) : Extends x y :=
  ⟨id, more, by simp [h], fun _ _ _ _ => rfl⟩

theorem Extends.trans {x y z : Panel} (h : Extends x y) (h' : Extends y z) : Extends x z := by
  obtain ⟨f, more, e, hf⟩ := h
  obtain ⟨f', more', e', hf'⟩ := h'
  refine ⟨f' ∘ f, more.map f' ++ more', ?_, fun c p u v => ?_⟩
  · rw [e', e, List.map_append, List.map_map, List.append_assoc]
  · rw [Function.comp_apply, hf, hf']

theorem Extends.foldl {α : Type} {a s : State} (h : Extends a.pl s.pl) (f : State → α → State)
    (hf : ∀ t x, Extends a.pl t.pl → Extends a.pl (f t x).pl) (xs : List α) : Extends a.pl (xs.foldl f s).pl := by
  induction xs generalizing s with
  | nil => exact h
  | cons x xs ih => exact ih (hf s x h)

/-- Reports at the head of the buffer stay there. -/
theorem Extends.keepsHead {x y : Panel} (h : Extends x y) {xs : List PanelOut}
    (hr : ∀ r ∈ xs, ∃ c p u v, r = .report c p u v) (hx : xs <+: x.buffer) : xs <+: y.buffer := by
  obtain ⟨f, more, e, hf⟩ := h
  obtain ⟨rest, hx⟩ := hx
  have same : xs.map f = xs := by
    refine (List.map_congr_left fun r hm => ?_).trans (List.map_id xs)
    obtain ⟨c, p, u, v, rfl⟩ := hr r hm
    exact hf c p u v
  exact ⟨rest.map f ++ more, by rw [e, ← hx, List.map_append, same, List.append_assoc]⟩

theorem sendLamp_extends (pl : Panel) (i : Nat) (id : LampId) (v : LampShow) : Extends pl (pl.sendLamp i id v) := by
  unfold Panel.sendLamp
  extract_lets owed
  split
  · exact ⟨fun r => if r.isLamp id then .lamp id v else r, [], by simp, fun _ _ _ _ => rfl⟩
  · split
    · exact .of_buffer rfl
    · split
      · exact .of_append _ rfl
      · exact .of_buffer rfl

theorem sendPosition_extends (pl : Panel) (p : Pos) (v : PosShow) : Extends pl (pl.sendPosition p v) := by
  unfold Panel.sendPosition
  extract_lets cell
  split
  · exact ⟨_, [], (List.append_nil _).symm, fun _ _ _ _ => rfl⟩
  · split
    · exact .of_buffer rfl
    · split
      · exact .of_append _ rfl
      · exact .of_buffer rfl

theorem sendLamps_extends (n : Nat) (ids : List LampId) (vs : List LampShow) (cs : List LampCell) (pl : Panel) :
    Extends pl (Panel.sendLamps n ids vs cs pl) := by
  induction ids generalizing n vs cs pl with
  | nil => cases vs <;> cases cs <;> exact .refl pl
  | cons id ids ih =>
    cases vs with
    | nil => exact .refl pl
    | cons v vs =>
      cases cs with
      | nil => exact .refl pl
      | cons c cs =>
        rw [Panel.sendLamps]
        split
        · exact ih ..
        · exact (sendLamp_extends pl n id v).trans (ih ..)

section
variable {a s : State} (h : Extends a.pl s.pl)
include h

theorem Extends.showPosition (p : Pos) : Extends a.pl (s.showPosition p).pl := by
  unfold State.showPosition
  split
  · exact h.trans (sendPosition_extends ..)
  · exact h

theorem Extends.showTray (p : Pos) : Extends a.pl (s.showTray p).pl := by
  unfold State.showTray
  split
  · exact h.trans (sendLamps_extends ..)
  · exact h

theorem Extends.showBuild (p : Pos) : Extends a.pl (s.showBuild p).pl := by
  have shown := h.showPosition p
  unfold State.showBuild State.showPositionLamp
  split
  · exact shown.trans (sendLamps_extends ..)
  · exact shown

theorem Extends.flush : Extends a.pl s.flush.pl := by
  have shown : Extends a.pl (Pos.all.foldl State.showPosition s).pl := h.foldl _ (fun _ p k => k.showPosition p) _
  exact shown.trans (sendLamps_extends ..)

theorem Extends.mark (p : Pos) (n : Notice) : Extends a.pl (s.mark p n).pl := by
  refine Extends.showBuild (s := (markedState s p n).produceCu (.claim n.order)) ?_ p
  have same : ((markedState s p n).produceCu (.claim n.order)).pl = s.pl := by
    unfold State.produceCu State.transmit
    split
    · split <;> rfl
    · rfl
  rwa [same]

theorem Extends.lookAll : Extends a.pl s.lookAll.pl := by
  refine h.foldl _ (fun t p k => ?_) _
  obtain e | ⟨n, -, -, -, -, e⟩ := look_cases t p <;> rw [e]
  · exact k
  · exact k.mark p n

theorem Extends.enterActive : Extends a.pl s.enterActive.pl := by
  unfold State.enterActive
  exact Extends.lookAll (s := s.setJc _) h

end

/-- Reports that find room in a buffer with nothing owed. -/
theorem foldl_report_buffer {α : Type} (f : State → α → State) (r : α → PanelOut)
    (hf : ∀ s x, f s x = s.setPl (s.pl.sendReport (r x))) (xs : List α) (s : State) (free : s.pl.anyOwed = false)
    (room : s.pl.buffer.length + xs.length ≤ 16) : (xs.foldl f s).pl.buffer = s.pl.buffer ++ xs.map r := by
  induction xs generalizing s with
  | nil => simp
  | cons x xs ih =>
    rw [List.length_cons] at room
    have sent : (f s x).pl = { s.pl with buffer := s.pl.buffer ++ [r x] } := by
      rw [hf]
      show s.pl.sendReport (r x) = _
      rw [Panel.sendReport, if_neg]
      rw [free]
      simp only [Bool.false_eq_true, or_false, Nat.not_le, Config.maxPanel]
      omega
    rw [List.foldl_cons, ih (f s x) (by rw [sent]; exact free) (by rw [sent, List.length_append]; simp; omega), sent]
    simp

/-! ### SETUP (R206) -/

theorem execSetup_handed {s u : State} {h : Handed} {b : WireSetup} (hh : s.handOver .setup = some (h, u))
    (hb : Frame.ofBody h.kind h.body = some (.setup b)) :
    exec .setup s = if u.acceptsSetup b then finish (u.takeSetup b) else finish u := by
  show execSetup s = _
  rw [execSetup, hh]
  simp only [hb]

theorem clamp_eq {lo hi : Nat} (h : lo ≤ hi) (x : Nat) : clamp lo hi x = if x < lo then lo else if hi < x then hi else x := by
  unfold clamp
  split
  · omega
  · split <;> omega

theorem clamp_ne_iff {lo hi : Nat} (h : lo ≤ hi) (x : Nat) : clamp lo hi x ≠ x ↔ x < lo ∨ hi < x := by
  unfold clamp
  omega

theorem clamp_within {lo hi : Nat} (h : lo ≤ hi) (x : Nat) : lo ≤ clamp lo hi x ∧ clamp lo hi x ≤ hi := by
  unfold clamp
  omega

theorem clamped_eq (b : WireSetup) : b.clamped = (if 3 < b.mode.toNat then [1] else [])
    ++ (if b.chill.toNat < 300 ∨ 2700 < b.chill.toNat then [2] else [])
    ++ (if b.gather.toNat < 60 ∨ 900 < b.gather.toNat then [3] else [])
    ++ (if b.exact.toNat < 10 ∨ 120 < b.exact.toNat then [4] else [])
    ++ (if b.surplus.toNat < 20 ∨ 300 < b.surplus.toNat then [5] else [])
    ++ (if 1 < b.auto.toNat then [7] else []) := by
  simp only [WireSetup.clamped, clamp_ne_iff (show 300 ≤ 2700 by decide), clamp_ne_iff (show 60 ≤ 900 by decide),
    clamp_ne_iff (show 10 ≤ 120 by decide), clamp_ne_iff (show 20 ≤ 300 by decide)]

theorem clamped_length (b : WireSetup) : b.clamped.length ≤ 6 := by
  have one (P : Prop) [Decidable P] (n : Nat) : (if P then [n] else []).length ≤ 1 := by split <;> simp
  have := one (3 < b.mode.toNat) 1
  have := one (clamp 300 2700 b.chill.toNat ≠ b.chill.toNat) 2
  have := one (clamp 60 900 b.gather.toNat ≠ b.gather.toNat) 3
  have := one (clamp 10 120 b.exact.toNat ≠ b.exact.toNat) 4
  have := one (clamp 20 300 b.surplus.toNat ≠ b.surplus.toNat) 5
  have := one (1 < b.auto.toNat) 7
  simp only [WireSetup.clamped, List.length_append]
  omega

theorem acceptsSetup_iff (s : State) (b : WireSetup) : s.acceptsSetup b = true
    ↔ s.jc.state = .joining ∧ (b.target = 0#8 ∨ b.target = stationByte s.jc.station) := by
  simp [State.acceptsSetup]

/-- The state of an accepted SETUP before the station enters ACTIVE. -/
def setupState (s : State) (b : WireSetup) : State :=
  b.clamped.foldl (fun u n => u.benchReport .setupClamped none n) (s.setJc { s.jc with setup := b.values })

theorem takeSetup_eq (s : State) (b : WireSetup) : s.takeSetup b = (setupState s b).enterActive := rfl

theorem setupState_only (s : State) (b : WireSetup) :
    Only panelT (s.setJc { s.jc with setup := b.values }) (setupState s b) :=
  (Only.refl _ _).foldl _ (fun _ _ k => k.benchReport (le_refl panelT) _ _ _) _

theorem takeSetup_jc (s : State) (b : WireSetup) : (s.takeSetup b).flush.jc = { s.jc with
    setup := b.values, state := .active, joinLeft := none, rollLeft := some 10, rollOwed := false } := by
  have entered (t : State) : t.enterActive.jc
      = { t.jc with state := .active, joinLeft := none, rollLeft := some 10, rollOwed := false } := by
    unfold State.enterActive
    exact ((Only.refl _ _).lookAll (le_refl (lookT fun _ => True)) fun _ => trivial).jc_eq id
  rw [State.flush_jc, takeSetup_eq, entered, (setupState_only s b).jc_eq id]
  rfl

theorem setupState_reports {s : State} (empty : s.pl.buffer = []) (free : s.pl.anyOwed = false) (b : WireSetup) :
    (setupState s b).pl.buffer = b.clamped.map (fun n => PanelOut.report 40 none none n) := by
  have sends (u : State) (n : Nat) : u.benchReport .setupClamped none n
      = u.setPl (u.pl.sendReport (.report 40 none none n)) := rfl
  have room : (s.setJc { s.jc with setup := b.values }).pl.buffer.length + b.clamped.length ≤ 16 := by
    have few := clamped_length b
    rw [State.setJc_pl, empty, List.length_nil]
    omega
  rw [setupState, foldl_report_buffer (fun u n => u.benchReport .setupClamped none n)
    (fun n => PanelOut.report 40 none none n) sends b.clamped (s.setJc { s.jc with setup := b.values }) free room, State.setJc_pl, empty, List.nil_append]

theorem takeSetup_reports {s : State} (empty : s.pl.buffer = []) (free : s.pl.anyOwed = false) (b : WireSetup) :
    b.clamped.map (fun n => PanelOut.report 40 none none n) <+: (s.takeSetup b).flush.pl.buffer := by
  have on : Extends (setupState s b).pl (setupState s b).enterActive.flush.pl := (Extends.refl _).enterActive.flush
  rw [takeSetup_eq]
  refine on.keepsHead (fun r hr => ?_) (setupState_reports empty free b ▸ List.prefix_refl _)
  obtain ⟨n, -, rfl⟩ := List.mem_map.1 hr
  exact ⟨_, _, _, _, rfl⟩

/-- Settles O59. -/
theorem setupAccepted : Obligations.SetupAccepted := by
  intro h b u s hh hb
  have run := execSetup_handed hh hb
  have accepts : u.acceptsSetup b = s.acceptsSetup b := by
    obtain ⟨-, rest, peers, rfl⟩ := handOver_eq hh
    rfl
  refine ⟨fun hj ht => ?_, fun hn => ?_⟩
  · rw [accepts, if_pos ((acceptsSetup_iff s b).2 ⟨hj, ht⟩)] at run
    refine ⟨_, run, ?_⟩
    rw [takeSetup_jc]
    have values : b.values.chillLimit = clamp 300 2700 b.chill.toNat ∧ b.values.gatherLimit = clamp 60 900 b.gather.toNat
        ∧ b.values.exactWait = clamp 10 120 b.exact.toNat ∧ b.values.surplusHold = clamp 20 300 b.surplus.toNat :=
      ⟨rfl, rfl, rfl, rfl⟩
    obtain ⟨chill, gather, exact', surplus⟩ := values
    obtain ⟨c1, c2⟩ := clamp_within (show 300 ≤ 2700 by decide) b.chill.toNat
    obtain ⟨g1, g2⟩ := clamp_within (show 60 ≤ 900 by decide) b.gather.toNat
    obtain ⟨e1, e2⟩ := clamp_within (show 10 ≤ 120 by decide) b.exact.toNat
    obtain ⟨s1, s2⟩ := clamp_within (show 20 ≤ 300 by decide) b.surplus.toNat
    refine ⟨rfl, rfl, rfl, rfl, rfl, ?_, ?_, ?_, ?_, ?_, ?_, c1, c2, g1, g2, e1, e2, s1, s2, rfl⟩
    · exact chill.trans (clamp_eq (by decide) _)
    · exact gather.trans (clamp_eq (by decide) _)
    · exact exact'.trans (clamp_eq (by decide) _)
    · exact surplus.trans (clamp_eq (by decide) _)
    · show decide (b.auto ≠ 0#8) = true ↔ _
      rw [decide_eq_true_eq, ne_eq, ← BitVec.toNat_inj, BitVec.toNat_ofNat]
      simp only [Nat.zero_mod]
      omega
    · intro empty free
      rw [← clamped_eq]
      have pl : u.pl = s.pl := by
        obtain ⟨-, rest, peers, rfl⟩ := handOver_eq hh
        rfl
      exact takeSetup_reports (pl ▸ empty) (pl ▸ free) b
  · rw [accepts, if_neg fun k => ?_] at run
    · obtain ⟨t, ht, same⟩ := finish_handed hh
      exact ⟨t, run.trans ht, same⟩
    · obtain ⟨hj, ht⟩ := (acceptsSetup_iff s b).1 k
      exact hn.elim (fun h => h hj) fun ⟨h0, hst⟩ => ht.elim h0 hst

/-! ### Places of the transmit queue (R197, R198) -/

/-- No frame waits while the transmit queue has space. -/
def NoneBeside (s : State) : Prop := ¬ (s.lp.hasSpace = true ∧ s.anyWaiting = true)

theorem transmit_places {s : State} (hj : s.jc.state ≠ .isolated) (f : Frame) :
    (s.transmit f).lp.places = s.lp.places + 1 ∧ (s.transmit f).jc = s.jc := by
  rw [State.transmit, if_neg (by simp [State.isolated, hj])]
  exact ⟨LinePort.enqueue_places .., rfl⟩

theorem grantOne_places {s : State} (hj : s.jc.state ≠ .isolated) (hw : s.anyWaiting = true) :
    s.grantOne.lp.places = s.lp.places + 1 ∧ s.grantOne.jc = s.jc := by
  unfold State.grantOne
  split
  · refine transmit_places ?_ _; exact hj
  case isFalse halts =>
    split
    · refine transmit_places ?_ _; exact hj
    case h_2 cu =>
      split
      · refine transmit_places ?_ _; exact hj
      case h_2 xu =>
        simp only [State.anyWaiting, cu, xu, List.isEmpty_nil, Bool.not_true, Bool.or_false, decide_eq_true_eq] at hw
        exact absurd hw halts

theorem grantPlaces_none_beside {s : State} (hj : s.jc.state ≠ .isolated) (n : Nat) (hn : 8 ≤ s.lp.places + n) :
    NoneBeside (State.grantPlaces n s) := by
  induction n generalizing s with
  | zero =>
    rintro ⟨space, -⟩
    rw [LinePort.hasSpace, decide_eq_true_eq] at space
    have space : s.lp.places < 8 := space
    omega
  | succ n ih =>
    rw [State.grantPlaces]
    split
    case isTrue go =>
      rw [Bool.and_eq_true, Bool.and_eq_true] at go
      obtain ⟨places, jc⟩ := grantOne_places hj go.1.2
      exact ih (by rwa [jc]) (by omega)
    case isFalse stop =>
      rintro ⟨space, waits⟩
      exact stop (by simp [space, waits, State.isolated, hj])

theorem grantTx_none_beside {s : State} (hj : s.jc.state ≠ .isolated) : NoneBeside s.grantTx :=
  grantPlaces_none_beside hj _ (Nat.le_add_left 8 _)

theorem produceCu_none_beside {s : State} (h : NoneBeside s) (f : Frame) : NoneBeside (s.produceCu f) := by
  unfold State.produceCu
  split
  case isTrue can =>
    unfold State.transmit
    split
    · exact h
    case isFalse joined =>
      rintro ⟨-, waits⟩
      refine h ⟨?_, waits⟩
      simpa [joined] using can
  case isFalse full =>
    rintro ⟨space, -⟩
    exact full (by rw [Bool.or_eq_true]; exact .inr space)

theorem lookAll_none_beside {s : State} (h : NoneBeside s) : NoneBeside s.lookAll := by
  unfold State.lookAll
  generalize s.fittedPos = ps
  induction ps generalizing s with
  | nil => exact h
  | cons p ps ih =>
    refine ih ?_
    obtain e | ⟨n, -, -, -, -, e⟩ := look_cases s p <;> rw [e]
    · exact h
    · have marked : NoneBeside (markedState s p n) := h
      obtain ⟨v, e⟩ := State.showBuild_only_pl ((markedState s p n).produceCu (.claim n.order)) p
      show NoneBeside (((markedState s p n).produceCu (.claim n.order)).showBuild p)
      rw [e]
      exact produceCu_none_beside marked _

/-- The places places are handed out into stay taken: asks are served only where nothing waits. -/
theorem serveAsks_none_beside {s : State} (h : NoneBeside s) (n : Nat) : NoneBeside (State.serveAsks n s) := by
  induction n generalizing s with
  | zero => exact h
  | succ n ih =>
    rw [State.serveAsks]
    split
    case isFalse => exact h
    case isTrue go =>
      refine ih ?_
      rw [Bool.and_eq_true] at go
      rw [State.serveOne]
      split
      · exact h
      case h_2 a rest _ =>
        rw [if_pos go.1]
        have only := (Only.refl serveT s).serve (le_refl _) a rest
        have quiet : s.anyWaiting = false := by
          have := go.1
          simp [State.canServe] at this
          exact this.2
        rintro ⟨-, waits⟩
        have same : (s.serve a rest).anyWaiting = s.anyWaiting := by
          have halts : (s.serve a rest).hc.haltsWaiting = s.hc.haltsWaiting := only .halts id
          have cu : (s.serve a rest).cu.waiting = s.cu.waiting := only .cuWaiting id
          have xu : (s.serve a rest).xu.waiting = s.xu.waiting := only .xuWaiting id
          rw [State.anyWaiting, State.anyWaiting, halts, cu, xu]
        rw [same, quiet] at waits
        cases waits

theorem servedState_none_beside {s : State} (h : NoneBeside s) : NoneBeside (servedState s) := by
  have served := serveAsks_none_beside h Config.maxAsks
  obtain ⟨v, e⟩ := State.flush_only_pl (State.serveAsks Config.maxAsks s)
  rw [servedState, e]
  exact served

/-- Free places are handed out, and positions may look. -/
def freeT : Part → Prop
  | .halts | .xuWaiting | .priors => True
  | .absent _ => True
  | .waits => True
  | x => lookT (fun _ => True) x

theorem freedPlace_only (s : State) : Only freeT s s.freedPlace := by
  have granted : Only freeT s s.grantTx := (Only.refl _ s).grantTx fun x h => by
    cases x <;> trivial
  unfold State.freedPlace
  dsimp only
  split
  · refine granted.lookAll (Q := fun _ => True) (fun x h => ?_) fun _ => trivial
    cases x <;> first | exact h | trivial
  · exact granted

/-- One free place, and a frame waits for it. -/
theorem grantTx_one {s : State} (hj : s.jc.state ≠ .isolated) (hp : s.lp.places = 7) (hw : s.anyWaiting = true) :
    s.grantTx = s.grantOne ∧ s.grantOne.lp.hasSpace = false := by
  obtain ⟨places, jc⟩ := grantOne_places hj hw
  have full : s.grantOne.lp.hasSpace = false := by simp [LinePort.hasSpace, places, hp, Config.maxQueue]
  refine ⟨?_, full⟩
  have space : s.lp.hasSpace = true := by simp [LinePort.hasSpace, hp, Config.maxQueue]
  unfold State.grantTx
  rw [show Config.maxQueue = 6 + 1 + 1 from rfl, State.grantPlaces, space, hw,
    show s.isolated = false by simp [State.isolated, hj], if_pos (by decide), State.grantPlaces, full]
  rfl

theorem produceCu_lp_full {s : State} (h : s.lp.hasSpace = false) (f : Frame) : (s.produceCu f).lp = s.lp := by
  unfold State.produceCu State.transmit
  split
  case isTrue can =>
    have shut : s.isolated = true := by simpa [h] using can
    rw [if_pos shut]
  case isFalse => rfl

theorem lookAll_lp_full {s : State} (h : s.lp.hasSpace = false) : s.lookAll.lp = s.lp := by
  unfold State.lookAll
  generalize s.fittedPos = ps
  induction ps generalizing s with
  | nil => rfl
  | cons p ps ih =>
    have one : (s.look p).lp = s.lp := by
      obtain e | ⟨n, -, -, -, -, e⟩ := look_cases s p <;> rw [e]
      show (((markedState s p n).produceCu (.claim n.order)).showBuild p).lp = _
      rw [State.showBuild_lp, produceCu_lp_full (s := markedState s p n) h]
      rfl
    rw [List.foldl_cons, ih (by rwa [one]), one]

theorem servedState_full {s : State} (h : s.lp.hasSpace = false) : servedState s = s.flush := by
  rw [servedState, serveAsks_of_cannot (by simp [State.canServe, h])]

theorem transmit_lp {s : State} (hj : s.jc.state ≠ .isolated) (f : Frame) :
    s.transmit f = s.setLp (s.lp.enqueue f) := by
  rw [State.transmit, if_neg (by simp [State.isolated, hj])]

/-- A place that goes to no CLAIM makes no position look. -/
theorem freedPlace_quiet {s : State} (h : s.grantTx.claimWaiting = s.claimWaiting) : s.freedPlace = s.grantTx := by
  unfold State.freedPlace
  dsimp only
  rw [h, if_neg (by simp)]

/-- Settles O55. -/
theorem noFrameWaitsBesideSpace : Obligations.NoFrameWaitsBesideSpace := by
  intro s hj
  have run : exec .txSpaceGrant s = .next (servedState s.freedPlace) := rfl
  have freed := freedPlace_only s
  have served := servedState_only s.freedPlace
  have port := served .port id
  have port' := freed .port id
  refine ⟨_, run, servedState_none_beside ?_, fun hp => ⟨fun halts => ?_, fun halts f fs cu => ?_, fun halts cu w ws xu => ?_⟩,
    port.2.1.trans port'.2.1, port.1.trans port'.1, (served.jc_eq id).trans (freed.jc_eq id),
    (served.wf_eq id).trans (freed.wf_eq id)⟩
  · unfold State.freedPlace
    dsimp only
    split
    · exact lookAll_none_beside (grantTx_none_beside hj)
    · exact grantTx_none_beside hj
  · have waits : s.anyWaiting = true := by simp [State.anyWaiting, halts]
    obtain ⟨one, full⟩ := grantTx_one hj hp waits
    have granted : s.grantOne = (s.setHc { s.hc with haltsWaiting := s.hc.haltsWaiting - 1 }).setLp (s.lp.enqueue .halt) := by
      rw [State.grantOne, if_pos halts]
      refine transmit_lp ?_ _; exact hj
    rw [freedPlace_quiet (by rw [one, granted]; rfl), one, servedState_full full, State.flush_lp, State.flush_hc,
      State.flush_cu, State.flush_xu, granted]
    exact ⟨rfl, rfl, rfl, rfl⟩
  · have waits : s.anyWaiting = true := by simp [State.anyWaiting, cu]
    obtain ⟨one, full⟩ := grantTx_one hj hp waits
    have granted : s.grantOne = (s.setCu { s.cu with waiting := fs }).setLp (s.lp.enqueue f) := by
      simp only [State.grantOne, halts, Nat.lt_irrefl, if_false, cu]
      refine transmit_lp ?_ _; exact hj
    have freedLp : s.freedPlace.lp = s.lp.enqueue f := by
      unfold State.freedPlace
      dsimp only
      rw [one]
      split
      · rw [lookAll_lp_full full, granted]
        rfl
      · rw [granted]
        rfl
    have stillFull : s.freedPlace.lp.hasSpace = false := by
      rw [freedLp, ← full, granted]
      rfl
    have freedXu : s.freedPlace.xu.waiting = s.xu.waiting := by
      unfold State.freedPlace
      dsimp only
      rw [one]
      split
      · have same : s.grantOne.lookAll.xu.waiting = s.grantOne.xu.waiting :=
          (Only.refl _ s.grantOne).lookAll (le_refl (lookT fun _ => True)) (fun _ => trivial) .xuWaiting id
        rw [same, granted]
        rfl
      · rw [granted]
        rfl
    rw [servedState_full stillFull, State.flush_lp, State.flush_xu, State.flush_cu]
    refine ⟨freedLp, freedXu, fun kind => ?_⟩
    rw [freedPlace_quiet, one, granted]
    · rfl
    · rw [one, granted]
      show fs.any _ = s.cu.waiting.any _
      rw [cu, List.any_cons, decide_eq_false kind, Bool.false_or]
  · have waits : s.anyWaiting = true := by simp [State.anyWaiting, xu]
    obtain ⟨one, full⟩ := grantTx_one hj hp waits
    have granted : s.grantOne = (s.setXu { s.xu with waiting := ws }).setLp (s.lp.enqueue w.frame) := by
      simp only [State.grantOne, halts, Nat.lt_irrefl, if_false, cu, xu]
      refine transmit_lp ?_ _; exact hj
    rw [freedPlace_quiet (by rw [one, granted]; rfl), one, servedState_full full, State.flush_lp, State.flush_xu,
      State.flush_cu, granted]
    exact ⟨rfl, rfl, cu⟩

/-! ### Own frames (R191, R192, R194) -/

/-- Settles O54. -/
theorem ownFrameHandedBack : Obligations.OwnFrameHandedBack := by
  intro x s hx
  have run : exec .ownFrameComplete s = .next (servedState (s.completeFrame x).freedPlace) := by
    show execOwnFrameComplete s = _
    rw [execOwnFrameComplete, hx]
    rfl
  have freed := freedPlace_only (s.completeFrame x)
  have served := servedState_only (s.completeFrame x).freedPlace
  obtain ⟨started, handover, faults, suppression⟩ := (freed .port id).trans (served .port id)
  exact ⟨_, run, started, faults, handover, suppression, (served.jc_eq id).trans (freed.jc_eq id),
    (served.wf_eq id).trans (freed.wf_eq id), (served.stopped_eq id).trans (freed.stopped_eq id)⟩

/-! ### Isolation (R142, R166, R200) -/

/-- A station that is ISOLATED and holds no frame of its own and no ask. -/
structure Silent (s : State) : Prop where
  isolated : s.jc.state = .isolated
  queue : s.lp.queue = []
  contending : s.lp.contending = none
  cu : s.cu.waiting = []
  xu : s.xu.waiting = []
  askQueue : s.xu.askQueue = []
  asks : s.xu.asks = []

theorem clearAsk_waiting (s : State) (r : LineRef) : (s.clearAsk r).xu.waiting
    = s.xu.waiting.filter (fun w => decide (w.line ≠ some r)) := rfl

theorem foldl_clearAsk_waiting {s : State} (h : s.xu.waiting = []) (rs : List LineRef) :
    (rs.foldl State.clearAsk s).xu.waiting = [] := by
  induction rs generalizing s with
  | nil => exact h
  | cons r rs ih => exact ih (by rw [clearAsk_waiting, h]; rfl)

theorem unlinkBuild_silent {s : State} (ha : s.xu.asks = []) (p : Pos) :
    (s.unlinkBuild p).xu.asks = [] ∧ (s.unlinkBuild p).xu.waiting = s.xu.waiting := by
  rw [State.unlinkBuild, ha]
  exact ⟨ha, rfl⟩

theorem withdrawClaim_silent {s : State} (h : Silent s) (o : OrderId) : s.withdrawClaim o = s := by
  have same : (s.setCu { s.cu with waiting := s.cu.waiting.filter (fun f => decide (f ≠ .claim o)) }).setLp
      { s.lp with
        queue := s.lp.queue.filter (fun f => decide (f ≠ .claim o))
        contending := s.lp.contending.map (Contending.withdraw (.claim o)) } = s := by
    obtain ⟨-, queue, contending, cu, -, -, -⟩ := h
    obtain ⟨jc, hc, lp, ⟨notices, waiting⟩, su, be, counter, wf, pv, vu, xu, pl, pending⟩ := s
    obtain ⟨q, c, started, handover, faults, suppression⟩ := lp
    obtain rfl : q = [] := queue
    obtain rfl : c = none := contending
    obtain rfl : waiting = [] := cu
    rfl
  unfold State.withdrawClaim
  refine Eq.trans (congrArg State.grantTx same) ?_
  unfold State.grantTx
  rw [show Config.maxQueue = 7 + 1 from rfl, State.grantPlaces, if_neg (by simp [State.isolated, h.isolated])]

theorem enterEmpty_silent {s : State} (h : Silent s) (p : Pos) : Silent (s.enterEmpty p) ∧ (s.enterEmpty p).lp = s.lp := by
  have only : Only (leaveT p) s (s.enterEmpty p) := (Only.refl _ s).enterEmpty (le_refl _)
  obtain ⟨isolated, lp, cu⟩ := only .shut (fun h => h.elim id id) h.isolated
  have askQueue : (s.enterEmpty p).xu.askQueue = s.xu.askQueue := only .askQueue fun h => h.elim id id
  obtain ⟨noAsks, waits⟩ := unlinkBuild_silent h.asks p
  have freed : Only (fun x => x ≠ .asks ∧ x ≠ .xuWaiting) (s.unlinkBuild p) ((s.unlinkBuild p).freeEarmarks p) :=
    Only.freeEarmarks (.refl _ _) ⟨nofun, nofun⟩ ⟨nofun, nofun⟩ (fun _ => ⟨nofun, nofun⟩) ⟨nofun, nofun⟩
      ⟨nofun, nofun⟩ ⟨nofun, nofun⟩ ⟨nofun, nofun⟩
  have asks : (s.enterEmpty p).xu.asks = (s.unlinkBuild p).xu.asks :=
    Eq.trans (settle_only s p .asks id) (freed .asks fun h => h.1 rfl)
  have waiting : (s.enterEmpty p).xu.waiting = (s.unlinkBuild p).xu.waiting :=
    Eq.trans (settle_only s p .xuWaiting id) (freed .xuWaiting fun h => h.2 rfl)
  refine ⟨⟨isolated, by rw [lp, h.queue], by rw [lp, h.contending], ?_, by rw [waiting, waits, h.xu],
    by rw [askQueue, h.askQueue], by rw [asks, noAsks]⟩, lp⟩
  exact List.eq_nil_iff_forall_not_mem.2 fun f hf => by
    have := cu f hf
    rw [h.cu] at this
    cases this

theorem breakLink_silent {s : State} (h : Silent s) (p : Pos) (o : OrderId) (st : NoticeState) :
    Silent (s.breakLink p o st) ∧ (s.breakLink p o st).lp = s.lp ∧ (s.breakLink p o st).wf = s.wf := by
  unfold State.breakLink
  rw [withdrawClaim_silent h]
  have noticed : Silent (s.modNotice o (fun n => { n with state := st })) :=
    ⟨h.isolated, h.queue, h.contending, h.cu, h.xu, h.askQueue, h.asks⟩
  obtain ⟨silent, lp⟩ := enterEmpty_silent noticed p
  have only := (Only.refl (leaveT p) (s.modNotice o (fun n => { n with state := st }))).enterEmpty (le_refl _)
  exact ⟨silent, lp, only.wf_eq fun h => h.elim id id⟩

theorem isolatePosition_silent {s : State} (h : Silent s) (p : Pos) :
    Silent (s.isolatePosition p) ∧ (s.isolatePosition p).lp = s.lp ∧ (s.isolatePosition p).wf = s.wf := by
  unfold State.isolatePosition
  split
  · exact ⟨h, rfl, rfl⟩
  case h_2 o _ =>
    split
    case isFalse => exact ⟨h, rfl, rfl⟩
    case isTrue =>
      exact breakLink_silent h p o _

/-- The state in which a station that becomes ISOLATED has discarded its frames. -/
def shutState (s : State) : State :=
  let t := s.setJc { s.jc with state := .isolated, joinLeft := none, rollLeft := none, rollOwed := false }
  let u := t.setLp { t.lp with
    queue := [], contending := none, started := t.lp.started.map (fun x => { x with holdsPlace := false }) }
  let v := (u.setHc { u.hc with haltsWaiting := 0 }).setCu { u.cu with waiting := [] }
  v.setXu { v.xu with askQueue := [], waiting := [] }

/-- The state in which its ask records have gone as well. -/
def discardedState (s : State) : State := ((shutState s).xu.asks.map (·.line)).foldl State.clearAsk (shutState s)

theorem enterIsolated_eq (s : State) : s.enterIsolated
    = (discardedState s).fittedPos.foldl State.isolatePosition (discardedState s) := rfl

theorem discardedState_silent (s : State) : Silent (discardedState s)
    ∧ (discardedState s).lp = { s.lp with
        queue := [], contending := none, started := s.lp.started.map (fun x => { x with holdsPlace := false }) }
    ∧ (discardedState s).wf = s.wf := by
  have only : Only (handT fun _ => True) (shutState s) (discardedState s) :=
    (Only.refl _ _).foldl _ (fun _ _ k => k.clearAsk trivial trivial trivial) _
  have asks := foldl_clearAsk_asks ((shutState s).xu.asks.map (·.line)) (shutState s)
  have gone : (shutState s).xu.asks.filter (fun a => decide (a.line ∉ (shutState s).xu.asks.map (·.line))) = [] :=
    List.filter_eq_nil_iff.2 fun a ha => by simpa using ⟨a, ha, rfl⟩
  obtain ⟨isolated, lp, -⟩ := only .shut id rfl
  have waiting : (discardedState s).xu.waiting = [] := foldl_clearAsk_waiting (s := shutState s) rfl _
  have cu : (discardedState s).cu.waiting = (shutState s).cu.waiting := only .cuWaiting id
  have askQueue : (discardedState s).xu.askQueue = (shutState s).xu.askQueue := only .askQueue id
  exact ⟨⟨isolated, by rw [lp]; rfl, by rw [lp]; rfl, cu, waiting, askQueue, asks.trans gone⟩, lp, only.wf_eq id⟩

theorem enterIsolated_silent (s : State) : Silent s.enterIsolated
    ∧ s.enterIsolated.lp = { s.lp with
        queue := [], contending := none, started := s.lp.started.map (fun x => { x with holdsPlace := false }) }
    ∧ s.enterIsolated.wf = s.wf := by
  obtain ⟨silent, lp, wf⟩ := discardedState_silent s
  rw [enterIsolated_eq, ← lp, ← wf]
  generalize (discardedState s).fittedPos = ps
  generalize discardedState s = t at silent
  clear lp wf
  induction ps generalizing t with
  | nil => exact ⟨silent, rfl, rfl⟩
  | cons p ps ih =>
    obtain ⟨next, lp, wf⟩ := isolatePosition_silent silent p
    obtain ⟨last, lp', wf'⟩ := ih (t.isolatePosition p) next
    exact ⟨last, lp'.trans lp, wf'.trans wf⟩

theorem execContentionFault_of {s : State} {x : Started} (hx : s.lp.started = some x) : exec .contentionFault s
    = if Config.maxFaults ≤ (s.abortFrame x).lp.faults && !(s.abortFrame x).isolated
      then finish ((s.abortFrame x).enterIsolated.benchReport .numberClash none 1) else finish (s.abortFrame x) := by
  show execContentionFault s = _
  rw [execContentionFault, hx]

/-- Settles O53. -/
theorem contentionFaultCounts : Obligations.ContentionFaultCounts := by
  intro x s hx hj
  have run := execContentionFault_of hx
  have faults : (s.abortFrame x).lp.faults = s.lp.faults + 1 := by
    unfold State.abortFrame
    dsimp only
    split <;> rfl
  refine ⟨fun few place => ?_, fun many => ?_⟩
  · rw [if_neg (by rw [faults]; simp [Config.maxFaults]; omega)] at run
    refine ⟨_, run, ?_⟩
    rw [flush_setPl_eq, State.abortFrame, place, show s.isolated = false by simp [State.isolated, hj]]
    rfl
  · rw [if_pos (by rw [faults]; simp [Config.maxFaults, State.abortFrame, State.isolated, hj]; omega)] at run
    obtain ⟨silent, lp, wf⟩ := enterIsolated_silent (s.abortFrame x)
    obtain ⟨v, told⟩ := State.benchReport_only_pl (s.abortFrame x).enterIsolated .numberClash none 1
    rw [told] at run
    refine ⟨_, run, ?_⟩
    rw [State.flush_jc, State.flush_lp, State.flush_xu, State.flush_cu, State.flush_wf]
    refine ⟨silent.isolated, ?_, silent.contending, silent.queue, silent.askQueue, silent.cu, silent.xu, wf⟩
    show (s.abortFrame x).enterIsolated.lp.started = none
    rw [lp]
    rfl

end Sys2Proof.Proofs
end


section
/-! The exchange: lines that ask (R151 to R154), transfers that end (R160 to R164), OFFER, GRANT and a peer's fresh ROLL
(R140, R150, R158). -/

namespace Sys2Proof.Proofs

open Sys2Proof.Machine

/-! ### Line records -/

theorem line?_modLine (s : State) (r x : LineRef) (f : LineRec → LineRec) :
    (s.modLine r.p r.line f).line? x = if x = r then (s.line? x).map f else s.line? x := by
  unfold State.modLine State.line?
  by_cases hp : x.p = r.p
  · rw [hp, State.setBuild_build_same, updateAt_getElem?]
    by_cases hl : x.line = r.line
    · have e : x = r := by
        cases x
        cases r
        simp_all
      rw [if_pos hl, if_pos e]
    · rw [if_neg hl, if_neg fun e => hl (congrArg LineRef.line e)]
  · rw [State.setBuild_build_other _ _ hp, if_neg fun e => hp (congrArg LineRef.p e)]

theorem line?_of_build {s t : State} {r : LineRef} (h : t.build r.p = s.build r.p) : t.line? r = s.line? r := by
  rw [State.line?, h]
  rfl

/-- What the counts of a line are where the counts of its build stand. -/
theorem line?_counts {s t : State} {r : LineRef} (h : (Part.build .counts r.p).Same s t) :
    (t.line? r).map lineCounts = (s.line? r).map lineCounts := by
  have h : (t.build r.p).lines.map lineCounts = (s.build r.p).lines.map lineCounts := h
  rw [State.line?, State.line?, ← List.getElem?_map, ← List.getElem?_map, h]

/-! ### Asking (R151) -/

theorem bestOffer_mem {c : ItemCode} {es : List OfferEntry} {e : OfferEntry} (h : bestOffer c es = some e) :
    e ∈ es ∧ e.code = c := by
  induction es with
  | nil => simp [bestOffer] at h
  | cons x xs ih =>
    rw [bestOffer] at h
    split at h
    case h_1 =>
      split at h
      case isTrue hc =>
        obtain rfl := Option.some.inj h
        exact ⟨List.mem_cons_self, hc⟩
      case isFalse => cases h
    case h_2 m hm =>
      split at h
      case isTrue hc =>
        obtain rfl := Option.some.inj h
        exact ⟨List.mem_cons_self, hc.1⟩
      case isFalse =>
        obtain rfl := Option.some.inj h
        obtain ⟨hmem, hc⟩ := ih hm
        exact ⟨List.mem_cons_of_mem x hmem, hc⟩

/-- The first entry of the largest quantity. -/
theorem bestOffer_append {c : ItemCode} {xs ys : List OfferEntry} {e : OfferEntry} (he : e.code = c)
    (hx : ∀ x ∈ xs, x.code = c → x.quantity < e.quantity) (hy : ∀ y ∈ ys, y.code = c → y.quantity ≤ e.quantity) :
    bestOffer c (xs ++ e :: ys) = some e := by
  induction xs with
  | nil =>
    rw [List.nil_append, bestOffer]
    cases hb : bestOffer c ys with
    | none => exact if_pos he
    | some m =>
      obtain ⟨hm, hc⟩ := bestOffer_mem hb
      exact if_pos ⟨he, hy m hm hc⟩
  | cons x xs ih =>
    rw [List.cons_append, bestOffer, ih fun y h => hx y (List.mem_cons_of_mem x h)]
    refine if_neg fun ⟨hc, hq⟩ => ?_
    exact absurd (hx x List.mem_cons_self hc) (Nat.not_lt.2 hq)

/-- What XU does with a line: nothing, an ASK at the best entry, or a WANT. -/
theorem takeLine_cases (s : State) (r : LineRef) : s.takeLine r = s
    ∨ ∃ l, s.line? r = some l ∧ s.gateOpen = true ∧ s.canAsk r = true ∧ s.askOf r = none
      ∧ ((∃ e, bestOffer l.item.code s.xu.offers = some e ∧ s.takeLine r = s.askAt r l e)
        ∨ (bestOffer l.item.code s.xu.offers = none ∧ s.takeLine r = s.wantFor r l)) := by
  unfold State.takeLine
  split
  case h_1 => exact .inl rfl
  case h_2 l hl =>
    split
    case isFalse => exact .inl rfl
    case isTrue go =>
      rw [Bool.and_eq_true, Bool.and_eq_true, Option.isNone_iff_eq_none] at go
      split
      case h_1 e he =>
        split
        · exact .inr ⟨l, hl, go.1.1, go.1.2, go.2, .inl ⟨e, he, rfl⟩⟩
        · exact .inl rfl
      case h_2 hn =>
        split
        · exact .inl rfl
        · exact .inr ⟨l, hl, go.1.1, go.1.2, go.2, .inr ⟨hn, rfl⟩⟩

theorem askAt_xu (s : State) (r : LineRef) (l : LineRec) (e : OfferEntry) :
    (s.askAt r l e).xu.asks = s.xu.asks ++ [⟨r, e.station, e.code, min l.uncommitted (min e.quantity 4), 10⟩]
    ∧ (s.askAt r l e).xu.offers = (s.xu.offers.map (fun x => if x.station = e.station ∧ x.code = e.code
        then { x with quantity := x.quantity - min l.uncommitted (min e.quantity 4) } else x)).filter
          (fun x => decide (0 < x.quantity))
    ∧ ∀ w ∈ s.xu.waiting, w ∈ (s.askAt r l e).xu.waiting := by
  unfold State.askAt
  dsimp only
  split
  · unfold State.transmit
    split <;> exact ⟨rfl, rfl, fun _ => id⟩
  · exact ⟨rfl, rfl, fun _ => List.mem_append_left _⟩

theorem wantFor_xu (s : State) (r : LineRef) (l : LineRec) : (s.wantFor r l).xu = s.xu := by
  unfold State.wantFor
  split
  · unfold State.transmit
    split <;> rfl
  · rfl

/-- What XU's records are after it has taken a line up. -/
structure HandsLine (s t : State) (r : LineRef) : Prop where
  offers : ∀ x ∈ t.xu.offers, ∃ e ∈ s.xu.offers, e.station = x.station ∧ e.code = x.code
  asks : t.xu.asks = s.xu.asks
    ∨ ∃ e ∈ s.xu.offers, ∃ q, t.xu.asks = s.xu.asks ++ [⟨r, e.station, e.code, q, 10⟩]
  waiting : ∀ w ∈ s.xu.waiting, w ∈ t.xu.waiting

theorem HandsLine.refl (s : State) (r : LineRef) : HandsLine s s r :=
  ⟨fun x hx => ⟨x, hx, rfl, rfl⟩, .inl rfl, fun _ => id⟩

theorem takeLine_hands (s : State) (r : LineRef) : HandsLine s (s.takeLine r) r := by
  obtain e | ⟨l, -, -, -, -, ⟨e, he, eq⟩ | ⟨-, eq⟩⟩ := takeLine_cases s r
  · rw [e]
    exact .refl s r
  · obtain ⟨asks, offers, waiting⟩ := askAt_xu s r l e
    rw [eq]
    refine ⟨fun x hx => ?_, .inr ⟨e, (bestOffer_mem he).1, _, asks⟩, waiting⟩
    rw [offers] at hx
    obtain ⟨y, hy, rfl⟩ := List.mem_map.1 (List.mem_filter.1 hx).1
    refine ⟨y, hy, ?_⟩
    split <;> exact ⟨rfl, rfl⟩
  · rw [eq]
    have same := wantFor_xu s r l
    exact ⟨fun x hx => ⟨x, by rwa [same] at hx, rfl, rfl⟩, .inl (by rw [same]), fun w hw => by rwa [same]⟩

theorem handLine_hands (s : State) (r : LineRef) : HandsLine s (s.handLine r) r := by
  unfold State.handLine
  split
  · exact takeLine_hands s r
  · exact .refl s r

theorem handLine_stopped {s : State} (h : s.hc.stopped = true) (r : LineRef) : s.handLine r = s := by
  rw [State.handLine, h]
  rfl

/-! ### An ask wait that runs out (R154) -/

/-- Settles O34. -/
theorem askWaitClearsRecord : Obligations.AskWaitClearsRecord := by
  intro p line a s ha hw
  have run : exec (.askWaitExpiry p line) s = .next (s.clearAndHand ⟨p, line⟩).flush := by
    show execAskWaitExpiry p line s = _
    rw [execAskWaitExpiry, ha]
    exact if_pos hw
  have only : Only (handT fun _ => True) s (s.clearAndHand ⟨p, line⟩) :=
    (Only.refl _ s).clearAndHand (le_refl _) trivial
  have hands : HandsLine (s.clearAsk ⟨p, line⟩) (s.clearAndHand ⟨p, line⟩) ⟨p, line⟩ := handLine_hands _ _
  have cleared := clearAsk_asks s ⟨p, line⟩
  have none (b : AskRec) (hb : b ∈ (s.clearAsk ⟨p, line⟩).xu.asks) : b.line ≠ ⟨p, line⟩ := by
    rw [cleared] at hb
    simpa using (List.mem_filter.1 hb).2
  refine ⟨_, run, fun b hb => ?_, fun stopped => ?_, fun b hb => ?_, ?_, ?_, ?_⟩
  · have hm : b ∈ (s.clearAndHand ⟨p, line⟩).xu.asks := by
      have := List.mem_of_find?_eq_some hb
      rwa [State.flush_xu] at this
    have hl : b.line = ⟨p, line⟩ := by simpa using List.find?_some hb
    obtain e | ⟨x, -, q, e⟩ := hands.asks <;> rw [e] at hm
    · exact absurd hl (none b hm)
    · obtain hm | hm := List.mem_append.1 hm
      · exact absurd hl (none b hm)
      · rw [List.mem_singleton.1 hm]
  · rw [State.askOf, State.flush_xu, State.clearAndHand, handLine_stopped (s := s.clearAsk ⟨p, line⟩) stopped]
    exact List.find?_eq_none.2 fun b hb => by simpa using none b hb
  · rw [State.flush_xu]
    have stays : b ∈ (s.clearAsk ⟨p, line⟩).xu.asks ↔ b ∈ s.xu.asks := by
      rw [cleared, List.mem_filter]
      simp [hb]
    obtain e | ⟨x, -, q, e⟩ := hands.asks <;> rw [e, ← stays]
    rw [List.mem_append, List.mem_singleton]
    refine ⟨fun h => h.resolve_right fun e => hb (by rw [e]), .inl⟩
  · rw [State.flush_su]
    exact only.su_eq (by simp [handT])
  · rw [State.flush_cu]
    exact only.cu_eq id id
  · rw [State.flush_xu]
    exact only .expected id

/-! ### WANTs that are tried again (R152) -/

/-- A WANT goes out for a line. -/
def wantT : Part → Prop
  | .queue => True
  | .absent f => f.kind = .want
  | .build .lines _ => True
  | _ => False

theorem Only.wantLine {T : Part → Prop} {a s : State} (h : Only T a s) (hT : wantT ≤ T) (r : LineRef) (l : LineRec) :
    Only T a (s.wantFor r l) := by
  have lines := hT (.build .lines r.p) trivial
  unfold State.wantFor
  split
  · exact (h.transmit (hT .queue trivial) (.want _ _) (hT (.absent _) rfl) fun _ => nofun).noteLine r.p r.line _ lines
      fun l => ⟨l.pendingAsk, true, false, rfl⟩
  · exact h.noteLine r.p r.line _ lines fun l => ⟨l.pendingAsk, l.wantSent, true, rfl⟩

theorem retryLine_only (s : State) (r : LineRef) : Only wantT s (s.retryLine r) := by
  unfold State.retryLine
  split
  · exact .refl _ s
  · split
    · split
      · exact (Only.refl _ s).wantLine (le_refl _) r _
      · exact (Only.refl wantT s).noteLine r.p r.line _ trivial fun l => ⟨l.pendingAsk, l.wantSent, false, rfl⟩
    · exact .refl _ s

theorem retryLine_wants {s : State} {r : LineRef} {l : LineRec} (hl : s.line? r = some l) (refused : l.wantRefused = true)
    (can : s.canAsk r = true) (quiet : s.askOf r = none) (none : bestOffer l.item.code s.xu.offers = .none)
    (gate : s.gateOpen = true) (unsent : l.wantSent = false) : s.retryLine r = s.wantFor r l := by
  simp [State.retryLine, hl, refused, can, quiet, none, gate, unsent]

/-- Settles O33. -/
theorem wantRetryOffersWant : Obligations.WantRetryOffersWant := by
  intro s
  have only : Only wantT s (s.allLines.foldl State.retryLine s) :=
    (Only.refl _ s).foldl _ (fun t r k => k.trans (retryLine_only t r)) _
  refine ⟨_, rfl, ?_⟩
  rw [State.flush_xu, State.flush_su, State.flush_cu, State.flush_hc, State.flush_pv, State.flush_wf, State.flush_jc]
  refine ⟨only.xu_eq (by simp [wantT]), only.su_eq (by simp [wantT]), only.cu_eq id id, only.hc_eq id id fun _ => id,
    only.pv_eq fun _ => id, only.wf_eq id, only.jc_eq id, fun p => ?_, ?_⟩
  · rw [State.flush_build]
    exact ⟨only (.build .state p) id, only (.build .content p) id⟩
  · intro r l lone hl refused can quiet none gate unsent accepts
    have joined : s.jc.state ≠ .isolated := by
      rw [((gateOpen_iff s).1 gate).1]
      exact nofun
    rw [State.flush_lp, lone, List.foldl_cons, List.foldl_nil,
      retryLine_wants hl refused can quiet none gate unsent, State.wantFor, if_pos accepts, transmit_lp joined]
    refine ⟨rfl, { l with wantSent := true, wantRefused := false }, ?_, rfl⟩
    rw [line?_of_build (State.flush_build _ _), line?_modLine, if_pos rfl]
    exact congrArg (Option.map _) hl

/-! ### Transfers that end (R160 to R164) -/

theorem dropExpected_expected (s : State) (e : Expected) : (s.dropExpected e).xu.expected
    = s.xu.expected.filter (fun x => !(decide (x.source = e.source) && decide (x.seq = e.seq))) := by
  unfold State.dropExpected
  dsimp only
  split <;> rfl

/-- An expected entry goes, with the incoming count of its line. -/
def dropT : Part → Prop
  | .expected => True
  | .build .lines _ | .build .counts _ => True
  | _ => False

theorem Only.setExpected {T : Part → Prop} {a s : State} (h : Only T a s) (hT : T .expected) (es : List Expected) :
    Only T a (s.setXu { s.xu with expected := es }) :=
  h.setXu _ (fun _ => rfl) (fun _ => rfl) (fun _ => rfl) (fun k => absurd hT k) (fun _ => rfl) (fun _ => rfl)
    (fun _ => rfl) fun _ => rfl

theorem Only.setIncoming {T : Part → Prop} {a s : State} (h : Only T a s) (p : Pos) (i : Nat) (f : LineRec → LineRec)
    (hl : T (.build .lines p)) (hc : T (.build .counts p)) (hi : ∀ l, (f l).item = l.item)
    (he : ∀ l, lineEarmarks (f l) = lineEarmarks l) (hu : ∀ l, l.uncovered = 0 → (f l).uncovered = 0) :
    Only T a (s.modLine p i f) := by
  exact h.modLine p i f hl (fun _ => hi) (fun k => absurd hc k) (fun _ => he) fun _ => hu

theorem dropExpected_only (s : State) (e : Expected) : Only dropT s (s.dropExpected e) := by
  have gone := (Only.refl dropT s).setExpected trivial
    (s.xu.expected.filter (fun x => !(decide (x.source = e.source) && decide (x.seq = e.seq))))
  unfold State.dropExpected
  dsimp only
  split
  · exact gone.setIncoming _ _ _ trivial trivial (fun _ => rfl) (fun _ => rfl) fun _ => id
  · exact gone

/-- What changes when a line takes up or loses a transfer. -/
def linkT : Part → Prop
  | .expected => True
  | .build .counts _ => True
  | x => handT (fun _ => True) x

theorem handT_le_linkT : handT (fun _ => True) ≤ linkT := by
  intro x h
  cases x
  case build k q => cases k <;> first | exact h | trivial
  all_goals first | exact h | trivial

/-- XU produces TAKEN; the panel is told; a line is handed on. -/
def lateT : Part → Prop
  | .pl => True
  | x => handT (fun _ => True) x

theorem handT_le_lateT : handT (fun _ => True) ≤ lateT := by
  intro x h
  cases x <;> first | exact h | trivial

theorem panelT_le_lateT : panelT ≤ lateT := by
  intro x h
  cases x <;> trivial

theorem Only.handLink {T : Part → Prop} {a s : State} (h : Only T a s) (hT : handT (fun _ => True) ≤ T)
    (l : Option LineRef) : Only T a (s.handLink l) := by
  cases l with
  | none => exact h
  | some r => exact h.handLine hT trivial

theorem handLink_waiting (s : State) (l : Option LineRef) : ∀ w ∈ s.xu.waiting, w ∈ (s.handLink l).xu.waiting := by
  cases l with
  | none => exact fun _ => id
  | some r => exact (handLine_hands s r).waiting

theorem produceTaken_queued {s : State} (hj : s.jc.state ≠ .isolated) (hs : s.lp.hasSpace = true) (k : Station)
    (n : Seq) (q : Nat) : s.produceTaken k n q = s.setLp (s.lp.enqueue (.taken k n (BitVec.ofNat 8 q))) := by
  rw [State.produceTaken, if_pos (by simp [hs]), transmit_lp hj]

theorem produceTaken_waits {s : State} (hj : s.jc.state ≠ .isolated) (hs : s.lp.hasSpace = false)
    (hw : s.xu.waiting.length < 16) (k : Station) (n : Seq) (q : Nat) : s.produceTaken k n q
      = s.setXu { s.xu with waiting := s.xu.waiting ++ [⟨.taken k n (BitVec.ofNat 8 q), none⟩] } := by
  rw [State.produceTaken, if_neg (by simp [State.isolated, hj, hs]),
    if_pos (show s.xu.waiting.length < Config.maxWaiting from hw)]

/-- How the way from a state to one after a TAKEN went: it is queued, waits, or is discarded; `link` is the line
that is handed on behind it. -/
theorem taken_produced {s : State} (link : Option LineRef) (k : Station) (n : Seq) (q m : Nat) :
    let f := Frame.taken k n (BitVec.ofNat 8 q)
    let t := (((s.produceTaken k n q).transferLate link m).handLink link).flush
    (s.jc.state = .isolated → t.lp = s.lp)
    ∧ (s.jc.state ≠ .isolated → s.lp.hasSpace = true → f ∈ t.lp.queue ∧ (link = none → t.lp = s.lp.enqueue f))
    ∧ (s.jc.state ≠ .isolated → s.lp.hasSpace = false → s.xu.waiting.length < 16 →
        ⟨f, none⟩ ∈ t.xu.waiting ∧ (link = none → t.xu.waiting = s.xu.waiting ++ [⟨f, none⟩])) := by
  intro f t
  have told : Only lateT (s.produceTaken k n q) ((s.produceTaken k n q).transferLate link m) :=
    (Only.refl _ _).benchReport panelT_le_lateT _ _ _
  have later : Only lateT (s.produceTaken k n q) t := (told.handLink handT_le_lateT link).flush panelT_le_lateT
  have toldXu : ((s.produceTaken k n q).transferLate link m).xu = (s.produceTaken k n q).xu :=
    State.benchReport_xu ..
  refine ⟨fun shut => ?_, fun joined space => ?_, fun joined full few => ?_⟩
  · have all : Only lateT s t :=
      (((Only.refl lateT s).produceTaken handT_le_lateT (fun _ => trivial) k n q).benchReport panelT_le_lateT _ _ _
        |>.handLink handT_le_lateT link).flush panelT_le_lateT
    exact (all .shut id shut).2.1
  · have produced := produceTaken_queued joined space k n q
    refine ⟨later .queued id f ?_, fun none => ?_⟩
    · rw [produced]
      exact mem_insertBy.2 (.inl rfl)
    · subst none
      have lp : t.lp = (s.produceTaken k n q).lp := by
        refine (State.flush_lp _).trans ?_
        exact State.benchReport_lp ..
      rw [lp, produced]
      rfl
  · have produced := produceTaken_waits joined full few k n q
    have xu : ((s.produceTaken k n q).transferLate link m).xu.waiting = s.xu.waiting ++ [⟨f, none⟩] := by
      rw [toldXu, produced]
      rfl
    refine ⟨?_, fun none => ?_⟩
    · have waits := handLink_waiting ((s.produceTaken k n q).transferLate link m) link ⟨f, none⟩
        (by rw [xu]; exact List.mem_append_right _ (List.mem_singleton.2 rfl))
      rwa [← State.flush_xu] at waits
    · subst none
      refine (congrArg Exchange.waiting (State.flush_xu _)).trans xu

theorem transferEnds_only (s : State) (e : Expected) : Only lateT (s.dropExpected e) (s.transferEnds e) :=
  ((Only.refl lateT _).produceTaken handT_le_lateT (fun _ => trivial) _ _ _).benchReport panelT_le_lateT _ _ _
    |>.handLink handT_le_lateT e.link

theorem dropExpected_line {s : State} {e : Expected} {r : LineRef} {l : LineRec} (hr : e.link = some r)
    (hl : s.line? r = some l) :
    (s.dropExpected e).line? r = some { l with incoming := l.incoming - e.remaining } := by
  unfold State.dropExpected
  dsimp only
  rw [hr]
  dsimp only
  rw [line?_modLine, if_pos rfl]
  exact congrArg (Option.map _) hl

theorem mem_expectedTag {s : State} {k : Station} {n : Seq} {e : Expected} (h : s.expectedTag k n = some e) :
    e.source = k ∧ e.seq = n := by
  simpa using List.find?_some h

theorem execTransferLimit_late {s : State} {k : Station} {n : Seq} {e : Expected} (h : s.expectedTag k n = some e)
    (late : 180 ≤ e.clock) : exec (.transferLimit k n) s = finish (s.transferEnds e) := by
  show execTransferLimit k n s = _
  rw [execTransferLimit, h]
  exact if_pos late

theorem execWriteOff_late {s : State} {n : Seq} {o : Outbound}
    (h : s.xu.outbound.find? (fun x => decide (x.seq = n)) = some o) (late : 210 ≤ o.time) :
    exec (.writeOff n) s = finish ((s.endOutbound n).benchReport .writeOff none o.units.length) := by
  show execWriteOff n s = _
  rw [execWriteOff, h]
  exact if_pos late

/-- Settles O36. -/
theorem transfersRunOut : Obligations.TransfersRunOut := by
  intro k n s
  refine ⟨fun e he late => ?_, fun o ho late => ?_⟩
  · have run : exec (.transferLimit k n) s = .next (s.transferEnds e).flush := execTransferLimit_late he late
    obtain ⟨source, seq⟩ := mem_expectedTag he
    have dropped := dropExpected_only s e
    have ends := transferEnds_only s e
    refine ⟨_, run, fun x => ?_, fun r l hr hl => ?_, fun f hf => ?_, ?_, ?_, ?_⟩
    · have same : (s.transferEnds e).xu.expected = (s.dropExpected e).xu.expected := ends .expected id
      rw [State.flush_xu, same, dropExpected_expected, List.mem_filter, source, seq]
      simp [← Decidable.not_and_iff_or_not]
    · have counts := line?_counts (r := r) (ends (.build .counts r.p) id)
      rw [dropExpected_line hr hl] at counts
      rw [line?_of_build (State.flush_build _ _)]
      have incoming := congrArg (Option.map (fun c : Nat × Nat × ExactWait => c.2.1)) counts
      rw [Option.map_map, Option.map_map] at incoming
      exact incoming
    · have lp : (s.dropExpected e).lp = s.lp := dropped.lp_eq id id id
      have jc : (s.dropExpected e).jc = s.jc := dropped.jc_eq id
      have waiting : (s.dropExpected e).xu.waiting = s.xu.waiting := dropped .xuWaiting id
      have produced := taken_produced (s := s.dropExpected e) e.link e.source e.seq (e.granted - e.remaining) e.remaining
      rw [lp, jc, waiting, source, seq] at produced
      rw [hf]
      have same : s.transferEnds e = (((s.dropExpected e).produceTaken k n (e.granted - e.remaining)).transferLate e.link
          e.remaining).handLink e.link := by
        rw [← source, ← seq]
        rfl
      rw [same]
      exact produced
    · rw [State.flush_su, ends.su_eq (by simp [lateT, handT]), dropped.su_eq (by simp [dropT])]
    · rw [State.flush_cu, ends.cu_eq id id, dropped.cu_eq id id]
    · rw [State.flush_xu]
      exact Eq.trans (ends .outbound id) (dropped .outbound id)
  · have run : exec (.writeOff n) s = .next ((s.endOutbound n).benchReport .writeOff none o.units.length).flush :=
      execWriteOff_late ho late
    obtain ⟨v, hv⟩ := endOutbound_eq s n
    refine ⟨_, run, fun x => ?_, ?_, ?_, ?_, ?_⟩
    · rw [State.flush_xu, State.benchReport_xu, hv]
      show x ∈ s.xu.outbound.filter _ ↔ _
      simp
    · rw [State.flush_su, State.benchReport_su, hv]
      rfl
    · rw [State.flush_be, State.benchReport_be, hv]
      rfl
    · rw [State.flush_cu, State.benchReport_cu, hv]
      rfl
    · rw [State.flush_xu, State.benchReport_xu, hv]
      rfl

/-! ### GRANT (R158) -/

theorem expectGrant_expected (s : State) (k : Station) (n : Seq) (c : ItemCode) (es : List Nat) :
    (s.expectGrant k n c es).xu.expected = s.xu.expected ++ [{
      source := k, seq := n, code := c, granted := es.length, remaining := es.length, exposures := es, clock := 0
      link := (s.answered k c).map (·.line) }] := by
  unfold State.expectGrant
  dsimp only
  split
  case h_1 none => rw [none]; rfl
  case h_2 a some =>
    have handed {t : State} : (t.handLine a.line).xu.expected = t.xu.expected :=
      (Only.refl _ t).handLine (le_refl (handT fun _ => True)) trivial .expected id
    rw [handed, some]
    rfl

theorem expectGrant_only (s : State) (k : Station) (n : Seq) (c : ItemCode) (es : List Nat) :
    Only linkT s (s.expectGrant k n c es) := by
  unfold State.expectGrant
  dsimp only
  split
  case h_1 => exact (Only.refl linkT s).setExpected trivial _
  case h_2 a _ =>
    have cleared : Only linkT s (s.clearAsk a.line) := (Only.refl linkT s).clearAsk trivial trivial trivial
    have raised := cleared.setIncoming a.line.p a.line.line (fun l => { l with incoming := l.incoming + es.length })
      trivial trivial (fun _ => rfl) (fun _ => rfl) fun _ => id
    exact (raised.setExpected trivial _).handLine handT_le_linkT trivial

/-- Settles O41. -/
theorem grantMakesExpected : Obligations.GrantMakesExpected := by
  intro h k n c es u s hh hb other mine joined some few fresh room
  have taken : exec .grant s = .next (u.takeGrant h.sender n c (es.map BitVec.toNat)).flush := by
    have accepted : (u.exchangeTakes h && decide (k = u.jc.station) && decide (es.length ≤ 4)) = true := by
      obtain ⟨-, station, state, -⟩ := handed_cu hh
      simp [State.exchangeTakes, other, station, state, joined, mine, few]
    rw [execGrant_handed hh hb, if_pos accepted]
    rfl
  have xu : u.xu = s.xu := (handed_cu hh).2.2.2.2.2.2.2.1
  have tag : u.expectedTag h.sender n = none := by rw [State.expectedTag, xu]; exact fresh
  have answered : u.answered h.sender c = s.answered h.sender c := by rw [State.answered, xu]; rfl
  have grant : u.takeGrant h.sender n c (es.map BitVec.toNat) = u.expectGrant h.sender n c (es.map BitVec.toNat) := by
    rw [State.takeGrant, if_neg (by simpa using some), tag]
    exact if_pos (by rw [xu]; exact room)
  rw [grant] at taken
  have only := expectGrant_only u h.sender n c (es.map BitVec.toNat)
  refine ⟨_, taken, ?_, ?_, ?_, ?_⟩
  · rw [State.flush_xu, expectGrant_expected, xu, answered, List.length_map]
  · rw [State.flush_su, only.su_eq (by simp [linkT, handT])]
    obtain ⟨-, rest, peers, rfl⟩ := handOver_eq hh
    rfl
  · rw [State.flush_cu, only.cu_eq id id, (handed_cu hh).1]
  · rw [State.flush_xu]
    exact Eq.trans (only .outbound id) (congrArg Exchange.outbound xu)

/-! ### OFFER (R150, R151) -/

/-- The state in which an OFFER has joined the list. -/
def offeredState (s : State) (k : Station) (c : ItemCode) (q : Nat) : State :=
  s.setXu { s.xu with offers := joinOffers s.xu.offers k c q }

/-- The lines of a code, in claim order and line order. -/
def linesOfCode (s : State) (c : ItemCode) : List LineRef :=
  s.allLines.filter (fun x => decide ((s.line? x).map (·.item.code) = some c))

theorem takeOffer_eq (s : State) (k : Station) (c : ItemCode) (q : Nat) : s.takeOffer k c q
    = if s.gateOpen then (linesOfCode s c).foldl State.takeLine (offeredState s k c q) else offeredState s k c q := by
  have lines : ∀ r, (offeredState s k c q).line? r = s.line? r := fun _ => rfl
  unfold State.takeOffer
  refine if_congr Iff.rfl ?_ rfl
  refine congrArg (fun rs => List.foldl State.takeLine (offeredState s k c q) rs) ?_
  refine List.filter_congr fun r _ => ?_
  show _ = decide ((s.line? r).map (·.item.code) = some c)
  rw [← lines r]
  show (match (offeredState s k c q).line? r with
    | some l => decide (l.item.code = c)
    | none => false) = _
  cases (offeredState s k c q).line? r <;> simp

theorem takeOffer_of_none {s : State} {c : ItemCode}
    (h : s.hc.stopped = true ∨ ∀ r ∈ s.allLines, ∀ l, s.line? r = some l → l.item.code ≠ c) (k : Station) (q : Nat) :
    s.takeOffer k c q = offeredState s k c q := by
  rw [takeOffer_eq]
  obtain stopped | other := h
  · rw [if_neg (by simp [State.gateOpen, stopped])]
  · have none : linesOfCode s c = [] := by
      refine List.filter_eq_nil_iff.2 fun r hr => ?_
      cases hl : s.line? r with
      | none => simp
      | some l => simpa using other r hr l hl
    rw [none]
    exact ite_self _

/-- One line of the code asks at the best entry. -/
theorem takeOffer_of_one {s : State} {c : ItemCode} {r : LineRef} {l : LineRec} {e : OfferEntry} {k : Station} {q : Nat}
    (gate : s.gateOpen = true) (lone : linesOfCode s c = [r])
    (hl : s.line? r = some l) (can : s.canAsk r = true) (quiet : s.askOf r = none) (few : s.xu.waiting.length < 16)
    (best : bestOffer c (joinOffers s.xu.offers k c q) = some e) :
    s.takeOffer k c q = (offeredState s k c q).askAt r l e := by
  have code : l.item.code = c := by
    have here : r ∈ linesOfCode s c := lone ▸ List.mem_singleton.2 rfl
    simpa [hl] using (List.mem_filter.1 here).2
  have line : (offeredState s k c q).line? r = some l := hl
  have go : ((offeredState s k c q).gateOpen && (offeredState s k c q).canAsk r
      && ((offeredState s k c q).askOf r).isNone) = true := by
    rw [Bool.and_eq_true, Bool.and_eq_true]
    exact ⟨⟨gate, can⟩, by rw [Option.isNone_iff_eq_none]; exact quiet⟩
  have best' : bestOffer l.item.code (offeredState s k c q).xu.offers = some e := code ▸ best
  have room : (offeredState s k c q).xu.waiting.length < Config.maxWaiting := few
  rw [takeOffer_eq, if_pos gate, lone, List.foldl_cons, List.foldl_nil, State.takeLine]
  simp only [line, go, if_true, best', room]

theorem joinOffers_last (os : List OfferEntry) (k : Station) (c : ItemCode) (q : Nat) :
    (joinOffers os k c q).getLast? = some ⟨k, c, min q 255, 0⟩ := by
  simp [joinOffers]

theorem askAt_line (s : State) (r : LineRef) (l : LineRec) (e : OfferEntry) : (s.askAt r l e).line? r
    = (s.line? r).map (fun x => { x with pendingAsk := min l.uncommitted (min e.quantity 4) }) := by
  have noted : ∀ t : State, t.be = s.be → (t.modLine r.p r.line
      (fun x => { x with pendingAsk := min l.uncommitted (min e.quantity 4) })).line? r
      = (s.line? r).map (fun x => { x with pendingAsk := min l.uncommitted (min e.quantity 4) }) := by
    intro t ht
    rw [line?_modLine, if_pos rfl, State.line?, State.line?, State.build, State.build, ht]
  unfold State.askAt
  dsimp only
  split
  · unfold State.transmit
    split <;> exact noted _ rfl
  · exact noted _ rfl

theorem askAt_lp {s : State} (joined : s.jc.state ≠ .isolated) (r : LineRef) (l : LineRec) (e : OfferEntry) :
    let f := Frame.ask e.station e.code (BitVec.ofNat 8 (min l.uncommitted (min e.quantity 4)))
    (s.lp.hasSpace = true → (s.askAt r l e).lp = s.lp.enqueue f ∧ (s.askAt r l e).xu.waiting = s.xu.waiting)
    ∧ (s.lp.hasSpace = false → (s.askAt r l e).lp = s.lp
      ∧ (s.askAt r l e).xu.waiting = s.xu.waiting ++ [⟨f, some r⟩]) := by
  intro f
  unfold State.askAt
  dsimp only
  split
  case isTrue room =>
    have room : s.lp.hasSpace = true := room
    refine ⟨fun _ => ?_, fun full => absurd (room.symm.trans full) nofun⟩
    rw [transmit_lp]
    · exact ⟨rfl, rfl⟩
    · exact joined
  case isFalse full =>
    have full : ¬ s.lp.hasSpace = true := full
    exact ⟨fun room => absurd room full, fun _ => ⟨rfl, rfl⟩⟩

theorem askAt_only (s : State) (r : LineRef) (l : LineRec) (e : OfferEntry) :
    Only (handT fun _ => True) s (s.askAt r l e) := (Only.refl _ s).askAt (le_refl _) trivial l e

/-- Settles O37. -/
theorem offerEntersList : Obligations.OfferEntersList := by
  intro h c q u s hh hb other some active
  obtain ⟨hcu, hst, hjs, -, hbe, hhc, hpv, hxu, -⟩ := handed_cu hh
  have su : u.su = s.su := by
    obtain ⟨-, rest, peers, rfl⟩ := handOver_eq hh
    rfl
  have lines : u.allLines = s.allLines ∧ ∀ r, u.line? r = s.line? r ∧ u.canAsk r = s.canAsk r
      ∧ u.askOf r = s.askOf r := by
    obtain ⟨-, rest, peers, rfl⟩ := handOver_eq hh
    exact ⟨rfl, fun _ => ⟨rfl, rfl, rfl⟩⟩
  obtain ⟨allLines, perLine⟩ := lines
  have run : exec .offer s = .next (u.takeOffer h.sender c q.toNat).flush := by
    rw [execOffer_handed hh hb, if_pos]
    · rfl
    · simp [State.exchangeTakes, other, hjs, active, State.isolated, some]
  refine ⟨fun none => ?_, fun r l e xs ys a f moving lone hl can quiet few joined code hx hy ha hf => ?_⟩
  · have none' : u.hc.stopped = true ∨ ∀ r ∈ u.allLines, ∀ l, u.line? r = .some l → l.item.code ≠ c := by
      rw [hhc, allLines]
      exact none.imp_right fun k r hr l hl => k r hr l ((perLine r).1 ▸ hl)
    rw [takeOffer_of_none none'] at run
    refine ⟨_, run, ?_, ?_, ?_, ?_, ?_, ?_⟩
    · rw [State.flush_xu]
      show joinOffers u.xu.offers _ _ _ = _
      rw [hxu]
    · rw [State.flush_xu]
      exact joinOffers_last u.xu.offers h.sender c q.toNat
    · exact (State.flush_be _).trans hbe
    · exact (State.flush_cu _).trans hcu
    · exact (State.flush_su _).trans su
    · exact (State.flush_hc _).trans hhc
  · have gate : u.gateOpen = true := (gateOpen_iff u).2 ⟨hjs.trans active, hhc ▸ moving⟩
    have lone' : linesOfCode u c = [r] := by
      rw [linesOfCode, allLines, ← lone]
      exact List.filter_congr fun x _ => by rw [(perLine x).1]
    have best : bestOffer c (joinOffers u.xu.offers h.sender c q.toNat) = .some e := by
      rw [hxu, joined]
      exact bestOffer_append code hx hy
    obtain ⟨hline, hcan, hask⟩ := perLine r
    rw [takeOffer_of_one gate lone' (hline.trans hl) (hcan.trans can) (hask.trans quiet) (hxu ▸ few) best] at run
    obtain ⟨asks, offers, -⟩ := askAt_xu (offeredState u h.sender c q.toNat) r l e
    have line := askAt_line (offeredState u h.sender c q.toNat) r l e
    have lp := askAt_lp (s := offeredState u h.sender c q.toNat) (show u.jc.state ≠ _ by rw [hjs, active]; exact nofun) r l e
    have only := askAt_only (offeredState u h.sender c q.toNat) r l e
    rw [code, ← ha] at asks offers
    rw [← ha] at line
    rw [code, ← ha, ← hf] at lp
    have space : u.lp.hasSpace = s.lp.hasSpace := by
      obtain ⟨rest, e⟩ := handed_lp hh
      rw [e]
      rfl
    refine ⟨_, run, ?_, ?_, ?_, fun room => ?_, fun full => ?_, ?_, ?_, ?_, ?_⟩
    · rw [State.flush_xu, asks, ← hxu]
      rfl
    · rw [line?_of_build (State.flush_build _ _), line]
      show (u.line? r).map _ = _
      rw [hline, hl]
      rfl
    · rw [State.flush_xu, offers, ← joined, ← hxu]
      rfl
    · rw [State.flush_lp, State.flush_xu, ← hxu]
      exact lp.1 (space.trans room)
    · rw [State.flush_lp, State.flush_xu, ← hxu]
      exact lp.2 (space.trans full)
    · rw [State.flush_cu, only.cu_eq id id, ← hcu]
      rfl
    · rw [State.flush_su, only.su_eq (by simp [handT]), ← su]
      rfl
    · rw [State.flush_hc, only.hc_eq id id fun _ => id, ← hhc]
      rfl
    · rw [State.flush_pv, only.pv_eq fun _ => id, ← hpv]
      rfl

/-! ### A peer's ROLL (R140, R150, R154, R155, R207) -/

theorem execRoll_handed {s u : State} {h : Handed} {fresh : Bool} {n : Byte} (hh : s.handOver .roll = some (h, u))
    (hb : Frame.ofBody h.kind h.body = some (.roll fresh n)) (other : h.own = false) :
    exec .roll s = finish (u.takeRoll h.sender fresh) := by
  show execRoll s = _
  rw [execRoll, hh]
  simp only [hb, other]
  rfl

theorem rolled_cases (n : Notice) (k : Station) : (n.state = .others k ∧ n.rolled k = n.reopen)
    ∨ (n.state ≠ .others k ∧ n.rolled k = n) := by
  unfold Notice.rolled
  split
  case isTrue h => exact .inl ⟨h, rfl⟩
  case isFalse h => exact .inr ⟨h, rfl⟩

theorem rolled_order (n : Notice) (k : Station) : (n.rolled k).order = n.order := by
  obtain ⟨-, e⟩ | ⟨-, e⟩ := rolled_cases n k <;> rw [e]
  rfl

/-- The notices after a fresh ROLL, some of them marked. -/
theorem reopenOrders_marks (s : State) (k : Station) :
    Marks (s.setCu { s.cu with notices := s.cu.notices.map (fun n => n.rolled k) }) (s.reopenOrders k) := by
  unfold State.reopenOrders
  dsimp only
  split
  · exact lookAll_marks _
  · exact .of_eq rfl

theorem not_others_openAt (c : Nat) (k : Station) : openAt c ≠ .others k := by
  obtain ⟨-, e⟩ | ⟨-, e⟩ := openAt_cases c <;> rw [e] <;> exact nofun

theorem not_others_rolled (n : Notice) (k : Station) : (n.rolled k).state ≠ .others k := by
  obtain ⟨-, e⟩ | ⟨h, e⟩ := rolled_cases n k <;> rw [e]
  · exact not_others_openAt _ k
  · exact h

/-- XU forgets a station: no offer of it, no ask of it and no record naming it is left. -/
def Forgotten (s : State) (k : Station) : Prop :=
  (∀ e ∈ s.xu.offers, e.station ≠ k) ∧ ∀ a ∈ s.xu.askQueue, a.asker ≠ k

theorem clearAndHand_forgotten {s : State} {k : Station} (h : Forgotten s k) (r : LineRef) :
    Forgotten (s.clearAndHand r) k ∧ ∀ a ∈ (s.clearAndHand r).xu.asks, a.offerer = k → a ∈ s.xu.asks ∧ a.line ≠ r := by
  obtain ⟨offers, asks⟩ := h
  have hands : HandsLine (s.clearAsk r) (s.clearAndHand r) r := handLine_hands _ r
  have askQueue : (s.clearAndHand r).xu.askQueue = s.xu.askQueue :=
    (Only.refl (handT fun _ => True) s).clearAndHand (le_refl _) trivial .askQueue id
  refine ⟨⟨fun e he => ?_, by rwa [askQueue]⟩, fun a ha hk => ?_⟩
  · obtain ⟨x, hx, station, -⟩ := hands.offers e he
    rw [← station]
    exact offers x hx
  · have old : a ∈ (s.clearAsk r).xu.asks := by
      obtain e | ⟨x, hx, q, e⟩ := hands.asks <;> rw [e] at ha
      · exact ha
      · refine (List.mem_append.1 ha).resolve_right fun hm => ?_
        rw [List.mem_singleton.1 hm] at hk
        exact offers x hx hk
    rw [clearAsk_asks, List.mem_filter] at old
    exact ⟨old.1, by simpa using old.2⟩

theorem foldl_clearAndHand_forgotten {k : Station} (rs : List LineRef) {s : State} (h : Forgotten s k)
    (ha : ∀ a ∈ s.xu.asks, a.offerer = k → a.line ∈ rs) :
    Forgotten (rs.foldl State.clearAndHand s) k ∧ ∀ a ∈ (rs.foldl State.clearAndHand s).xu.asks, a.offerer ≠ k := by
  induction rs generalizing s with
  | nil => exact ⟨h, fun a hm hk => by simpa using ha a hm hk⟩
  | cons r rs ih =>
    obtain ⟨forgotten, asks⟩ := clearAndHand_forgotten h r
    refine ih forgotten fun a hm hk => ?_
    obtain ⟨old, other⟩ := asks a hm hk
    exact (List.mem_cons.1 (ha a old hk)).resolve_left other

theorem forgetStation_forgets (s : State) (k : Station) :
    Forgotten (s.forgetStation k) k ∧ (∀ a ∈ (s.forgetStation k).xu.asks, a.offerer ≠ k)
      ∧ (s.forgetStation k).cu = s.cu := by
  let u := (s.dropOffers k).setXu { (s.dropOffers k).xu with
    askQueue := (s.dropOffers k).xu.askQueue.filter (fun a => decide (a.asker ≠ k)) }
  let rs := (u.xu.asks.filter (fun a => decide (a.offerer = k))).map (·.line)
  have eq : s.forgetStation k = rs.foldl State.clearAndHand u := rfl
  have forgotten : Forgotten u k :=
    ⟨fun e he => by simpa using (List.mem_filter.1 he).2, fun a ha => by simpa using (List.mem_filter.1 ha).2⟩
  obtain ⟨last, asks⟩ := foldl_clearAndHand_forgotten rs forgotten fun a ha hk =>
    List.mem_map_of_mem (List.mem_filter.2 ⟨ha, decide_eq_true hk⟩)
  have only : Only (handT fun _ => True) u (rs.foldl State.clearAndHand u) :=
    (Only.refl _ u).foldl _ (fun _ _ h => h.clearAndHand (le_refl _) trivial) rs
  rw [eq]
  exact ⟨last, asks, only.cu_eq id id⟩

/-- Settles O58. -/
theorem rollFromAnother : Obligations.RollFromAnother := by
  intro h fresh n u s hh hb other
  have run := execRoll_handed hh hb other
  obtain ⟨hcu, hst, hjs, -⟩ := handed_cu hh
  refine ⟨fun own joined => ?_, fun notOwn stale => ?_, fun notOwn isFresh => ?_⟩
  · have clash : u.takeRoll h.sender fresh = u.enterIsolated.benchReport .numberClash none 2 := by
      rw [State.takeRoll, if_pos (own.trans hst.symm), if_neg (by simp [State.isolated, hjs, joined])]
    obtain ⟨silent, -, -⟩ := enterIsolated_silent u
    obtain ⟨v, told⟩ := State.benchReport_only_pl u.enterIsolated .numberClash none 2
    rw [clash, told] at run
    refine ⟨_, run, ?_⟩
    rw [State.flush_jc, State.flush_lp, State.flush_xu]
    exact ⟨silent.isolated, silent.queue, silent.askQueue, silent.asks⟩
  · have stands : u.takeRoll h.sender fresh = u := by
      rw [State.takeRoll, if_neg (by rw [hst]; exact notOwn), stale]
      rfl
    rw [stands] at run
    obtain ⟨t, ht, same⟩ := finish_handed hh
    exact ⟨t, run.trans ht, same⟩
  · have taken : u.takeRoll h.sender fresh = (u.reopenOrders h.sender).forgetStation h.sender := by
      rw [State.takeRoll, if_neg (by rw [hst]; exact notOwn), isFresh]
      rfl
    rw [taken] at run
    obtain ⟨⟨offers, askQueue⟩, asks, cu⟩ := forgetStation_forgets (u.reopenOrders h.sender) h.sender
    have marks := reopenOrders_marks u h.sender
    have reopened : (u.setCu { u.cu with notices := u.cu.notices.map (fun n => n.rolled h.sender) }).cu.notices
        = s.cu.notices.map (fun n => n.rolled h.sender) := by
      rw [← hcu]
      rfl
    refine ⟨_, run, ?_⟩
    rw [State.flush_cu, State.flush_xu, cu]
    refine ⟨?_, fun n hn hs lone => ?_, fun m hm => ?_, offers, askQueue, asks⟩
    · have facts := marks.facts noticeFacts fun _ _ => rfl
      rw [reopened, List.map_map] at facts
      refine facts.trans (List.map_congr_left fun n _ => ?_)
      obtain ⟨hs, e⟩ | ⟨hs, e⟩ := rolled_cases n h.sender
      · rw [Function.comp_apply, e, if_pos hs]
        rfl
      · rw [Function.comp_apply, e, if_neg hs]
        rfl
    · have e : n.rolled h.sender = n.reopen := ((rolled_cases n h.sender).resolve_right fun k => k.1 hs).2
      have count : countUp n.count = min (n.count + 1) 3 := rfl
      have here : n.reopen ∈ s.cu.notices.map (fun n => n.rolled h.sender) := List.mem_map.2 ⟨n, hn, e⟩
      have ones : ∀ m ∈ s.cu.notices.map (fun n => n.rolled h.sender), m.order = n.order → m = n.reopen := by
        intro m hm ho
        obtain ⟨x, hx, rfl⟩ := List.mem_map.1 hm
        rw [lone x hx ((rolled_order x h.sender).symm.trans ho), e]
      obtain ⟨g, hg, hgm⟩ := marks
      rw [reopened] at hg hgm
      refine ⟨g n.reopen, hg ▸ List.mem_map_of_mem here, ?_, fun many => ?_, fun few => ?_⟩
      · exact (MarkedFrom.order ((hgm n.reopen).imp_right And.left)).trans rfl
      · have stranded : n.reopen.state = .stranded :=
          ((openAt_cases (countUp n.count)).resolve_right fun k => by omega).2
        obtain same | ⟨-, x, hx, ho, hq⟩ := hgm n.reopen
        · rw [same, stranded]
        · rw [ones x hx ho, qualifies_iff, stranded] at hq
          simp at hq
      · have opened : n.reopen.state = .opened :=
          ((openAt_cases (countUp n.count)).resolve_left fun k => by omega).2
        obtain same | ⟨⟨p, same⟩, -⟩ := hgm n.reopen
        · rw [same]
          exact .inl opened
        · rw [same]
          exact .inr ⟨p, rfl⟩
    · obtain ⟨g, hg, hgm⟩ := marks
      rw [hg, reopened] at hm
      obtain ⟨x, hx, rfl⟩ := List.mem_map.1 hm
      obtain ⟨y, -, rfl⟩ := List.mem_map.1 hx
      obtain same | ⟨⟨p, same⟩, -⟩ := hgm (y.rolled h.sender)
      · rw [same]
        exact not_others_rolled y h.sender
      · rw [same]
        exact nofun

end Sys2Proof.Proofs
end


section
/-! Slot requests (R14) and granting (R16, R156, R157). -/

namespace Sys2Proof.Proofs

open Sys2Proof.Machine

/-! ### Slots that are given to waiting requests (R14) -/

/-- The state in which one request has been given a slot. -/
def givenState (s : State) (p : Pos) (i : Nat) : State :=
  let t := s.setSlot i (.reserved p)
  let u := t.setSu { t.su with requests := t.su.requests.filter (fun q => decide (q ≠ p)) }
  (u.showShelf.showPositionLamp p).tryRemoval p

theorem tryRemoval_su (s : State) (p : Pos) : (s.tryRemoval p).su = s.su :=
  ((Only.refl _ s).tryRemoval (le_refl (removalT (fun _ => True))) trivial).su_eq (by simp [removalT])

theorem givenState_su (s : State) (p : Pos) (i : Nat) : (givenState s p i).su = { s.su with
    slots := s.su.slots.set i (.reserved p), requests := s.su.requests.filter (fun q => decide (q ≠ p)) } := by
  unfold givenState
  dsimp only
  rw [tryRemoval_su, State.showPositionLamp_su, State.showShelf_su]
  rfl

theorem giveTo_cons (p : Pos) (ps : List Pos) (s : State) : State.giveTo (p :: ps) s
    = match s.su.lowestEmpty with
      | none => s
      | some i => State.giveTo ps (givenState s p i) := rfl

theorem giveTo_none {p : Pos} {ps : List Pos} {s : State} (h : s.su.lowestEmpty = none) :
    State.giveTo (p :: ps) s = s := by rw [giveTo_cons, h]

theorem giveTo_some {p : Pos} {ps : List Pos} {s : State} {i : Nat} (h : s.su.lowestEmpty = some i) :
    State.giveTo (p :: ps) s = State.giveTo ps (givenState s p i) := by rw [giveTo_cons, h]

theorem slot_isEmpty_of_lowestEmpty {su : Stock} {i : Nat} (h : su.lowestEmpty = some i) :
    i < su.slots.length ∧ ∃ g, su.slot i = .empty g := by
  obtain ⟨hi, ht⟩ := slot_of_findIdx h
  refine ⟨hi, ?_⟩
  cases hs : su.slot i with
  | empty g => exact ⟨g, rfl⟩
  | reserved q => simp [hs, Slot.isEmpty] at ht
  | occupied u st => simp [hs, Slot.isEmpty] at ht

theorem givenState_slot (s : State) (p : Pos) {i : Nat} (hi : i < s.su.slots.length) (j : Nat) :
    (givenState s p i).su.slot j = if j = i then .reserved p else s.su.slot j := by
  rw [givenState_su]
  refine (slot_set _ _ _ _).trans ?_
  by_cases h : j = i <;> simp [h, hi]

/-- A slot as it was, or an empty one that has been given to a request. -/
theorem giveTo_slot (ps : List Pos) (s : State) (i : Nat) : (State.giveTo ps s).su.slot i = s.su.slot i
    ∨ ((∃ g, s.su.slot i = .empty g) ∧ ∃ q ∈ ps, (State.giveTo ps s).su.slot i = .reserved q) := by
  induction ps generalizing s with
  | nil => exact .inl rfl
  | cons p ps ih =>
    cases h : s.su.lowestEmpty with
    | none => exact .inl (by rw [giveTo_none h])
    | some k =>
      obtain ⟨hk, g, hg⟩ := slot_isEmpty_of_lowestEmpty h
      have given := givenState_slot s p hk i
      rw [giveTo_some h]
      by_cases e : i = k
      · subst e
        rw [if_pos rfl] at given
        refine .inr ⟨⟨g, hg⟩, ?_⟩
        obtain same | ⟨⟨g', hg'⟩, -⟩ := ih (givenState s p i)
        · exact ⟨p, List.mem_cons_self, same.trans given⟩
        · rw [given] at hg'
          cases hg'
      · rw [if_neg e] at given
        obtain same | ⟨hg, q, hq, res⟩ := ih (givenState s p k)
        · exact .inl (same.trans given)
        · exact .inr ⟨by rwa [given] at hg, q, List.mem_cons_of_mem p hq, res⟩

theorem giveTo_reserved {ps : List Pos} {s : State} {i : Nat} {q : Pos} (h : s.su.slot i = .reserved q) :
    (State.giveTo ps s).su.slot i = .reserved q := by
  obtain same | ⟨⟨g, hg⟩, -⟩ := giveTo_slot ps s i
  · exact same.trans h
  · rw [h] at hg
    cases hg

theorem giveTo_length (ps : List Pos) (s : State) : (State.giveTo ps s).su.slots.length = s.su.slots.length := by
  induction ps generalizing s with
  | nil => rfl
  | cons p ps ih =>
    cases h : s.su.lowestEmpty with
    | none => rw [giveTo_none h]
    | some k => rw [giveTo_some h, ih, givenState_su, List.length_set]

theorem giveTo_serves (ps : List Pos) (s : State) (q : Pos) (hq : q ∈ s.su.requests) :
    q ∈ (State.giveTo ps s).su.requests ∨ ∃ i, (State.giveTo ps s).su.slot i = .reserved q := by
  induction ps generalizing s with
  | nil => exact .inl hq
  | cons p ps ih =>
    cases h : s.su.lowestEmpty with
    | none =>
      rw [giveTo_none h]
      exact .inl hq
    | some k =>
      obtain ⟨hk, -⟩ := slot_isEmpty_of_lowestEmpty h
      rw [giveTo_some h]
      by_cases e : q = p
      · subst e
        have given := givenState_slot s q hk k
        rw [if_pos rfl] at given
        exact .inr ⟨k, giveTo_reserved given⟩
      · refine ih (givenState s p k) ?_
        rw [givenState_su]
        exact List.mem_filter.2 ⟨hq, decide_eq_true e⟩

theorem giveTo_ends (ps : List Pos) (s : State) (h : ∀ q ∈ s.su.requests, q ∈ ps) :
    (State.giveTo ps s).su.requests = [] ∨ (State.giveTo ps s).su.lowestEmpty = none := by
  induction ps generalizing s with
  | nil => exact .inl (List.eq_nil_iff_forall_not_mem.2 fun q hq => by simpa using h q hq)
  | cons p ps ih =>
    cases hl : s.su.lowestEmpty with
    | none => exact .inr (by rw [giveTo_none hl]; exact hl)
    | some k =>
      rw [giveTo_some hl]
      refine ih _ fun q hq => ?_
      rw [givenState_su] at hq
      obtain ⟨hq, hn⟩ := List.mem_filter.1 hq
      exact (List.mem_cons.1 (h q hq)).resolve_left (of_decide_eq_true hn)

/-- Settles O13. -/
theorem slotReservedServesRequests : Obligations.SlotReservedServesRequests := by
  intro s
  have only : Only (giveT fun _ => True) s s.giveSlots := (Only.refl _ s).giveSlots (le_refl _) fun _ _ => trivial
  refine ⟨_, rfl, ?_⟩
  rw [State.flush_su, State.flush_be, State.flush_cu, State.flush_xu, State.flush_lp, State.flush_jc, State.flush_wf]
  refine ⟨fun p ps i hr hl => ?_, fun p hp => giveTo_serves _ s p hp, giveTo_ends _ s fun _ => id, only .units id,
    only .lastNumber id, only .earmarkOrder id, only .intakeLamp id, only .chuteLamp id, only .amber id,
    only.be_eq fun _ _ => id, only.cu_eq id id, only.xu_eq (by simp [giveT]), only.lp_eq id id id, only.jc_eq id,
    only.wf_eq id⟩
  obtain ⟨hi, -⟩ := slot_isEmpty_of_lowestEmpty hl
  have given := givenState_slot s p hi i
  rw [if_pos rfl] at given
  rw [State.giveSlots, hr, giveTo_some hl]
  exact giveTo_reserved given

/-! ### Sorting -/

theorem sortBy_perm {α : Type} (b : α → α → Bool) (xs : List α) : (sortBy b xs).Perm xs := by
  have fold (acc : List α) : (xs.foldl (fun acc x => insertBy b x acc) acc).Perm (acc ++ xs) := by
    induction xs generalizing acc with
    | nil => simp
    | cons x xs ih =>
      rw [List.foldl_cons]
      refine (ih _).trans ?_
      refine ((insertBy_perm b x acc).append_right xs).trans ?_
      exact (List.perm_middle (a := x) (l₁ := acc) (l₂ := xs)).symm
  exact fold []

theorem insertBy_pairwise {α : Type} {b : α → α → Bool} {R : α → α → Prop} (hR : ∀ x y z, R x y → R y z → R x z)
    (before : ∀ x y, b x y = true → R x y) (after : ∀ x y, b x y = false → R y x) (x : α) {xs : List α}
    (h : xs.Pairwise R) : (insertBy b x xs).Pairwise R := by
  induction xs with
  | nil => simp [insertBy]
  | cons y ys ih =>
    rw [List.pairwise_cons] at h
    obtain ⟨hy, hys⟩ := h
    rw [insertBy]
    split
    case isTrue hb =>
      refine List.pairwise_cons.2 ⟨fun z hz => ?_, List.pairwise_cons.2 ⟨hy, hys⟩⟩
      obtain rfl | hz := List.mem_cons.1 hz
      · exact before _ _ hb
      · exact hR _ _ _ (before _ _ hb) (hy z hz)
    case isFalse hb =>
      refine List.pairwise_cons.2 ⟨fun z hz => ?_, ih hys⟩
      obtain rfl | hz := mem_insertBy.1 hz
      · exact after _ _ (by simpa using hb)
      · exact hy z hz

theorem sortBy_pairwise {α : Type} {b : α → α → Bool} {R : α → α → Prop} (hR : ∀ x y z, R x y → R y z → R x z)
    (before : ∀ x y, b x y = true → R x y) (after : ∀ x y, b x y = false → R y x) (xs : List α) :
    (sortBy b xs).Pairwise R := by
  have fold (acc : List α) (h : acc.Pairwise R) : (xs.foldl (fun acc x => insertBy b x acc) acc).Pairwise R := by
    induction xs generalizing acc with
    | nil => exact h
    | cons x xs ih => exact ih _ (insertBy_pairwise hR before after x h)
  exact fold [] .nil

theorem length_filterMap_numbered {α β : Type} (f : Nat × α → Option β) (test : α → Bool)
    (h : ∀ i x, (f (i, x)).isSome = test x) (n : Nat) (xs : List α) :
    ((numbered n xs).filterMap f).length = xs.countP test := by
  induction xs generalizing n with
  | nil => rfl
  | cons x xs ih =>
    rw [numbered, List.filterMap_cons, List.countP_cons, ← ih (n + 1), ← h n x]
    cases f (n, x) <;> simp

/-! ### The units an ask is granted (R16, R156) -/

/-- The order of choosing, units of one slot included. -/
def NotLater (x y : Grantable) : Prop :=
  match x.unit.exposure, y.unit.exposure with
  | some a, some b => b < a ∨ (a = b ∧ x.slot ≤ y.slot)
  | some _, none => True
  | none, some _ => False
  | none, none => x.slot ≤ y.slot

theorem notLater_trans (x y z : Grantable) (h : NotLater x y) (h' : NotLater y z) : NotLater x z := by
  unfold NotLater at *
  cases hx : x.unit.exposure <;> cases hy : y.unit.exposure <;> cases hz : z.unit.exposure <;>
    simp only [hx, hy, hz] at h h' ⊢ <;> omega

theorem notLater_of_before (x y : Grantable) (h : grantBefore x y = true) : NotLater x y := by
  unfold grantBefore at h
  unfold NotLater
  cases hx : x.unit.exposure <;> cases hy : y.unit.exposure <;> simp only [hx, hy] at h ⊢
  · have := of_decide_eq_true h
    omega
  · cases h
  · split at h
    · have := of_decide_eq_true h
      omega
    · have := of_decide_eq_true h
      omega

theorem notLater_of_not_before (x y : Grantable) (h : grantBefore x y = false) : NotLater y x := by
  unfold grantBefore at h
  unfold NotLater
  cases hx : x.unit.exposure <;> cases hy : y.unit.exposure <;> simp only [hx, hy] at h ⊢
  · have := of_decide_eq_false h
    omega
  · cases h
  · split at h
    · have := of_decide_eq_false h
      omega
    · have := of_decide_eq_false h
      omega

theorem sooner_of_notLater {x y : Grantable} (h : NotLater x y) (hs : x.slot ≠ y.slot) : x.Sooner y := by
  unfold NotLater at h
  unfold Grantable.Sooner
  cases hx : x.unit.exposure <;> cases hy : y.unit.exposure <;> simp only [hx, hy] at h ⊢ <;> omega

theorem freeUnit_eq_some {x : Slot} {u : UnitRec} : x.freeUnit = some u ↔ ∃ age, x = .occupied u (.free age) := by
  cases x with
  | empty g => simp [Slot.freeUnit]
  | reserved q => simp [Slot.freeUnit]
  | occupied v st => cases st <;> simp [Slot.freeUnit]

theorem occupied_lt {su : Stock} {i : Nat} {u : UnitRec} {st : ShelfState} (h : su.slot i = .occupied u st) :
    i < su.slots.length := by
  by_contra hl
  rw [slot_beyond (Nat.le_of_not_lt hl)] at h
  cases h

theorem mem_numbered_slot {su : Stock} {i : Nat} {x : Slot} :
    (i, x) ∈ numbered 0 su.slots ↔ i < su.slots.length ∧ su.slot i = x := by
  rw [mem_numbered, Nat.sub_zero, Stock.slot]
  by_cases h : i < su.slots.length <;> simp [h]

theorem mem_grantable {s : State} {c : ItemCode} {g : Grantable} : g ∈ s.grantable c ↔ g.unit.label.code = c
    ∧ ∃ age, s.su.slot g.slot = .occupied g.unit (.free age) := by
  rw [State.grantable, (sortBy_perm _ _).mem_iff, List.mem_filterMap]
  constructor
  · rintro ⟨⟨i, x⟩, hx, hg⟩
    obtain ⟨-, slot⟩ := mem_numbered_slot.1 hx
    dsimp only at hg
    split at hg
    case h_1 u hu =>
      obtain ⟨age, rfl⟩ := freeUnit_eq_some.1 hu
      split at hg
      case isTrue hc =>
        obtain rfl := Option.some.inj hg
        exact ⟨hc, age, slot⟩
      case isFalse => cases hg
    case h_2 => cases hg
  · rintro ⟨hc, age, slot⟩
    refine ⟨(g.slot, .occupied g.unit (.free age)), mem_numbered_slot.2 ⟨occupied_lt slot, slot⟩, ?_⟩
    simp [Slot.freeUnit, hc]

theorem grantable_length (s : State) (c : ItemCode) : (s.grantable c).length = s.su.freeCount c := by
  rw [State.grantable, (sortBy_perm _ _).length_eq, Stock.freeCount]
  refine length_filterMap_numbered _ _ (fun i x => ?_) 0 _
  unfold Slot.isFreeOf
  dsimp only
  cases x.freeUnit with
  | none => rfl
  | some u => by_cases hc : u.label.code = c <;> simp [hc]

theorem numbered_pairwise {α : Type} (n : Nat) (xs : List α) : (numbered n xs).Pairwise (fun x y => x.1 ≠ y.1) := by
  induction xs generalizing n with
  | nil => exact .nil
  | cons x xs ih =>
    refine List.pairwise_cons.2 ⟨fun y hy => ?_, ih (n + 1)⟩
    obtain ⟨hn, -⟩ := mem_numbered.1 (show (y.1, y.2) ∈ numbered (n + 1) xs from hy)
    dsimp only
    omega

theorem grantable_slots (s : State) (c : ItemCode) : (s.grantable c).Pairwise (fun x y => x.slot ≠ y.slot) := by
  refine ((sortBy_perm _ _).symm.pairwise ?_ fun {x y} h => Ne.symm h)
  refine List.Pairwise.filterMap _ (fun x y hne g hg g' hg' => ?_) (numbered_pairwise 0 _)
  have slot {z : Nat × Slot} {k : Grantable} (hk : k ∈ (match z.2.freeUnit with
      | some u => if u.label.code = c then some (⟨z.1, u⟩ : Grantable) else none
      | none => none)) : k.slot = z.1 := by
    cases hu : z.2.freeUnit with
    | none => simp [hu] at hk
    | some u =>
      by_cases hc : u.label.code = c
      · simp [hu, hc] at hk
        rw [← hk]
      · simp [hu, hc] at hk
  rw [slot hg, slot hg']
  exact hne

theorem grantable_sorted (s : State) (c : ItemCode) : (s.grantable c).Pairwise Grantable.Sooner := by
  have sorted : (s.grantable c).Pairwise NotLater :=
    sortBy_pairwise notLater_trans notLater_of_before notLater_of_not_before _
  exact (sorted.and (grantable_slots s c)).imp fun ⟨h, hs⟩ => sooner_of_notLater h hs

theorem chosenFor_room {s : State} {a : AskEntry} (h : s.xu.outbound.length < 8) :
    s.chosenFor a = (s.grantable a.code).take a.quantity := if_pos h

theorem chosenFor_full {s : State} {a : AskEntry} (h : ¬ s.xu.outbound.length < 8) : s.chosenFor a = [] := if_neg h

theorem chosenFor_mem {s : State} {a : AskEntry} {g : Grantable} (h : g ∈ s.chosenFor a) : g ∈ s.grantable a.code := by
  unfold State.chosenFor at h
  split at h
  · exact List.mem_of_mem_take h
  · cases h

/-! ### The sequence number of a GRANT (R157) -/

/-- A free number is reached from the start over held ones alone. -/
theorem freeSeq_steps (held : List Seq) (fuel : List Seq) (n : Seq) : ∃ j : Nat, j ≤ fuel.length
    ∧ freeSeq held fuel n = n + BitVec.ofNat 8 j ∧ (∀ i < j, n + BitVec.ofNat 8 i ∈ held)
    ∧ (j < fuel.length → n + BitVec.ofNat 8 j ∉ held) := by
  induction fuel generalizing n with
  | nil => exact ⟨0, Nat.le_refl 0, by simp [freeSeq], fun i hi => absurd hi (Nat.not_lt_zero i),
      fun h => absurd h (Nat.lt_irrefl 0)⟩
  | cons x fuel ih =>
    rw [freeSeq]
    split
    case isTrue hh =>
      obtain ⟨j, hj, e, below, stop⟩ := ih (n + 1#8)
      have shift (i : Nat) : n + 1#8 + BitVec.ofNat 8 i = n + BitVec.ofNat 8 (i + 1) := by
        rw [BitVec.add_assoc, ← BitVec.ofNat_add, Nat.add_comm 1 i]
      refine ⟨j + 1, Nat.succ_le_succ hj, e.trans (shift j), fun i hi => ?_, fun h => ?_⟩
      · cases i with
        | zero => simpa using hh
        | succ i =>
          rw [← shift]
          exact below i (Nat.lt_of_succ_lt_succ hi)
      · rw [← shift]
        exact stop (Nat.lt_of_succ_lt_succ h)
    case isFalse hh =>
      exact ⟨0, Nat.zero_le _, by simp, fun i hi => absurd hi (Nat.not_lt_zero i), fun _ => by simpa using hh⟩

theorem add_ofNat_inj {n : Seq} {i j : Nat} (hi : i < 256) (hj : j < 256)
    (h : n + BitVec.ofNat 8 i = n + BitVec.ofNat 8 j) : i = j := by
  have := congrArg BitVec.toNat (BitVec.add_right_inj n |>.1 h)
  simp only [BitVec.toNat_ofNat] at this
  omega

/-- Fewer than 256 numbers are held, so one of as many and one more is free. -/
theorem freeSeq_free {held : List Seq} (h : held.length < 256) (n : Seq) : freeSeq held held n ∉ held := by
  obtain ⟨j, hj, e, below, stop⟩ := freeSeq_steps held held n
  rw [e]
  by_cases hlt : j < held.length
  · exact stop hlt
  · obtain rfl : j = held.length := Nat.le_antisymm hj (Nat.le_of_not_lt hlt)
    intro here
    have sub : (List.range (held.length + 1)).map (fun i => n + BitVec.ofNat 8 i) ⊆ held := by
      intro x hx
      obtain ⟨i, hi, rfl⟩ := List.mem_map.1 hx
      obtain hi | rfl := Nat.lt_succ_iff_lt_or_eq.1 (List.mem_range.1 hi)
      · exact below i hi
      · exact here
    have nodup : ((List.range (held.length + 1)).map (fun i => n + BitVec.ofNat 8 i)).Nodup := by
      refine List.Nodup.map_on (fun i hi j hj e => ?_) List.nodup_range
      have := List.mem_range.1 hi
      have := List.mem_range.1 hj
      exact add_ofNat_inj (by omega) (by omega) e
    have := (List.subperm_of_subset nodup sub).length_le
    rw [List.length_map, List.length_range] at this
    omega

theorem freeSeq_first {held : List Seq} (h : held.length < 256) (n m : Seq)
    (hm : (m - n).toNat < (freeSeq held held n - n).toNat) : m ∈ held := by
  obtain ⟨j, hj, e, below, -⟩ := freeSeq_steps held held n
  have steps : (freeSeq held held n - n).toNat = j := by
    have : n + BitVec.ofNat 8 j - n = BitVec.ofNat 8 j := by rw [BitVec.add_comm, BitVec.add_sub_cancel]
    rw [e, this, BitVec.toNat_ofNat, Nat.mod_eq_of_lt (by omega)]
  have here : n + BitVec.ofNat 8 (m - n).toNat = m := by
    rw [BitVec.ofNat_toNat, BitVec.setWidth_eq, BitVec.add_comm, BitVec.sub_add_cancel]
  rw [← here]
  exact below _ (by omega)

/-! ### The head of the ask queue is served (R156) -/

theorem emptySlot_slot (s : State) {i : Nat} (hi : i < s.su.slots.length) (g : Option Seq) (j : Nat) :
    (s.emptySlot i g).su.slot j = (if j = i then .empty g else s.su.slot j)
    ∨ ((∃ k, (if j = i then .empty g else s.su.slot j) = .empty k)
      ∧ ∃ q ∈ s.su.requests, (s.emptySlot i g).su.slot j = .reserved q) := by
  have base : ((s.setSlot i (.empty g)).setSu { (s.setSlot i (.empty g)).su with
      amberSlot := if (s.setSlot i (.empty g)).su.amberSlot = some i then none
        else (s.setSlot i (.empty g)).su.amberSlot }).showShelf.su.slot j = if j = i then .empty g else s.su.slot j := by
    rw [State.showShelf_su]
    refine (slot_set s.su i j (.empty g)).trans ?_
    by_cases h : j = i <;> simp [h, hi]
  rw [← base]
  exact giveTo_slot s.su.requests _ j

theorem emptySlot_length (s : State) (i : Nat) (g : Option Seq) :
    (s.emptySlot i g).su.slots.length = s.su.slots.length :=
  (giveTo_length _ _).trans (by rw [State.showShelf_su]; exact List.length_set)

theorem emptySlot_requests (s : State) (i : Nat) (g : Option Seq) :
    ∀ q ∈ (s.emptySlot i g).su.requests, q ∈ s.su.requests := by
  intro q hq
  have hq := giveTo_requests _ _ q hq
  rwa [State.showShelf_su] at hq

theorem emptySlot_alone {s : State} (h : s.su.requests = []) {i : Nat} (hi : i < s.su.slots.length) (g : Option Seq)
    (j : Nat) : (s.emptySlot i g).su.slot j = if j = i then .empty g else s.su.slot j := by
  refine (emptySlot_slot s hi g j).resolve_right fun ⟨_, q, hq, _⟩ => ?_
  rw [h] at hq
  cases hq

/-- A slot emptied by a GRANT, or reserved for a request that waited. -/
def Granted (n : Seq) (rs : List Pos) (x : Slot) : Prop := x = .empty (some n) ∨ ∃ q ∈ rs, x = .reserved q

theorem foldl_emptySlot_granted (n : Seq) (rs : List Pos) (gs : List Grantable) (s : State)
    (hr : ∀ q ∈ s.su.requests, q ∈ rs) (hg : ∀ g ∈ gs, g.slot < s.su.slots.length) (i : Nat)
    (h : Granted n rs (s.su.slot i) ∨ ∃ g ∈ gs, g.slot = i) :
    Granted n rs ((gs.foldl (fun v g => v.emptySlot g.slot (some n)) s).su.slot i) := by
  induction gs generalizing s with
  | nil => exact h.resolve_right fun ⟨_, hg, _⟩ => nomatch hg
  | cons x gs ih =>
    have hx := hg x List.mem_cons_self
    refine ih (s.emptySlot x.slot (some n)) (fun q hq => hr q (emptySlot_requests _ _ _ q hq))
      (fun g hm => by rw [emptySlot_length]; exact hg g (List.mem_cons_of_mem x hm)) ?_
    obtain same | ⟨-, q, hq, res⟩ := emptySlot_slot s hx (some n) i
    · by_cases e : i = x.slot
      · exact .inl (.inl (same.trans (if_pos e)))
      · rw [if_neg e] at same
        refine h.imp (fun h => by rwa [same]) fun ⟨g, hm, hgi⟩ => ⟨g, ?_, hgi⟩
        exact (List.mem_cons.1 hm).resolve_left fun e' => e (by rw [← hgi, e'])
    · exact .inl (.inr ⟨q, hr q hq, res⟩)

theorem foldl_emptySlot_alone (n : Seq) (gs : List Grantable) (s : State) (hr : s.su.requests = [])
    (hg : ∀ g ∈ gs, g.slot < s.su.slots.length) (i : Nat) (h : ∀ g ∈ gs, g.slot ≠ i) :
    (gs.foldl (fun v g => v.emptySlot g.slot (some n)) s).su.slot i = s.su.slot i := by
  induction gs generalizing s with
  | nil => rfl
  | cons x gs ih =>
    have none : (s.emptySlot x.slot (some n)).su.requests = [] :=
      List.eq_nil_iff_forall_not_mem.2 fun q hq => by
        have := emptySlot_requests _ _ _ q hq
        rw [hr] at this
        cases this
    rw [List.foldl_cons, ih _ none (fun g hm => by rw [emptySlot_length]; exact hg g (List.mem_cons_of_mem x hm))
      fun g hm => h g (List.mem_cons_of_mem x hm), emptySlot_alone hr (hg x List.mem_cons_self), if_neg]
    exact fun e => h x List.mem_cons_self e.symm

/-- The state in which the units of an ask have been taken, before its GRANT is queued. -/
def chosenState (s : State) (a : AskEntry) (rest : List AskEntry) : State :=
  (s.chosenFor a).foldl (fun v g => v.emptySlot g.slot (some s.nextSeq)) (s.setXu { s.xu with
    askQueue := rest
    seq := s.nextSeq + 1#8
    outbound := if ((s.chosenFor a).map (·.unit)).isEmpty then s.xu.outbound
      else s.xu.outbound ++ [⟨s.nextSeq, a.asker, (s.chosenFor a).map (·.unit), 0⟩] })

theorem serve_eq (s : State) (a : AskEntry) (rest : List AskEntry) : s.serve a rest
    = (chosenState s a rest).pruneClocks.transmit (.grant a.asker s.nextSeq a.code
        (((s.chosenFor a).map (·.unit)).map (fun u => BitVec.ofNat 16 (u.exposure.getD 0)))) := rfl

theorem chosenState_only (s : State) (a : AskEntry) (rest : List AskEntry) :
    Only (emptyT fun _ => True) (s.setXu { s.xu with
      askQueue := rest
      seq := s.nextSeq + 1#8
      outbound := if ((s.chosenFor a).map (·.unit)).isEmpty then s.xu.outbound
        else s.xu.outbound ++ [⟨s.nextSeq, a.asker, (s.chosenFor a).map (·.unit), 0⟩] }) (chosenState s a rest) :=
  (Only.refl _ _).foldl _ (fun _ _ k => k.emptySlot (giveT_le_emptyT _) trivial (fun _ _ => trivial) _ _
    (.inl ⟨trivial, fun _ => trivial⟩)) _

/-- What serving the head of the ask queue leaves. -/
structure Serves (s t : State) (a : AskEntry) (rest : List AskEntry) : Prop where
  askQueue : t.xu.askQueue = rest
  seq : t.xu.seq = s.nextSeq + 1#8
  lp : t.lp = s.lp.enqueue (.grant a.asker s.nextSeq a.code
    ((s.chosenFor a).map (fun g => BitVec.ofNat 16 (g.unit.exposure.getD 0))))
  outbound : t.xu.outbound = (if s.chosenFor a = [] then s.xu.outbound
    else s.xu.outbound ++ [⟨s.nextSeq, a.asker, (s.chosenFor a).map (·.unit), 0⟩])
  be : t.be = s.be
  cu : t.cu = s.cu
  jc : t.jc = s.jc
  slots : ∀ i, t.su.slot i = (chosenState s a rest).su.slot i

theorem serve_serves {s : State} (joined : s.jc.state ≠ .isolated) (a : AskEntry) (rest : List AskEntry) :
    Serves s (s.serve a rest) a rest := by
  have only := chosenState_only s a rest
  have jc := only.jc_eq id
  have lp := only.lp_eq id id id
  have sent : s.serve a rest = (chosenState s a rest).pruneClocks.setLp (s.lp.enqueue (.grant a.asker s.nextSeq a.code
      ((s.chosenFor a).map (fun g => BitVec.ofNat 16 (g.unit.exposure.getD 0))))) := by
    rw [serve_eq, transmit_lp]
    · rw [List.map_map]
      exact congrArg (fun l => State.setLp _ (LinePort.enqueue l _)) lp
    · show (chosenState s a rest).jc.state ≠ _
      rw [jc]
      exact joined
  rw [sent]
  have outbound : (chosenState s a rest).xu.outbound = _ := only .outbound id
  refine ⟨only .askQueue id, only .seq id, rfl, ?_, only.be_eq fun _ _ => id, only.cu_eq id id, jc, fun _ => rfl⟩
  refine Eq.trans outbound ?_
  by_cases h : s.chosenFor a = [] <;> simp [h]

theorem serveAsks_succ {s : State} {a : AskEntry} {rest : List AskEntry} (hq : s.xu.askQueue = a :: rest)
    (hc : s.canServe = true) (n : Nat) : State.serveAsks (n + 1) s = State.serveAsks n (s.serve a rest) := by
  rw [State.serveAsks, if_pos (by simp [hc, hq]), State.serveOne, hq]
  simp only [hc, if_true]

/-- As much fuel as there are asks is enough. -/
theorem serveAsks_fuel (n : Nat) (s : State) (h : s.xu.askQueue.length ≤ n) :
    State.serveAsks (n + 1) s = State.serveAsks n s := by
  induction n generalizing s with
  | zero =>
    have none : s.xu.askQueue = [] := List.length_eq_zero_iff.1 (Nat.le_zero.1 h)
    rw [serveAsks_of_empty none, serveAsks_of_empty none]
  | succ n ih =>
    cases hc : s.canServe with
    | false => rw [serveAsks_of_cannot hc, serveAsks_of_cannot hc]
    | true =>
      cases hq : s.xu.askQueue with
      | nil => rw [serveAsks_of_empty hq, serveAsks_of_empty hq]
      | cons a rest =>
        have joined : s.jc.state ≠ .isolated := fun e => by rw [canServe_of_isolated e] at hc; cases hc
        rw [serveAsks_succ hq hc, serveAsks_succ hq hc]
        refine ih _ ?_
        rw [(serve_serves joined a rest).askQueue]
        rw [hq, List.length_cons] at h
        omega

theorem execAskServe_eq (s : State) : exec .askServe s = .next (servedState s) := rfl

/-- Settles O40. -/
theorem askServeGrants : Obligations.AskServeGrants := by
  refine ⟨fun a s hq hc => ?_, fun a rest s hq hc => ?_⟩
  · have joined : s.jc.state ≠ .isolated := fun e => by rw [canServe_of_isolated e] at hc; cases hc
    have serves := serve_serves joined a []
    have served : servedState s = (s.serve a []).flush := by
      rw [servedState, show Config.maxAsks = 7 + 1 from rfl, serveAsks_succ hq hc, serveAsks_of_empty serves.askQueue]
    refine ⟨_, execAskServe_eq s, ?_⟩
    rw [served, State.flush_xu, State.flush_lp, State.flush_be, State.flush_cu]
    exact ⟨serves.askQueue, serves.seq, serves.lp, serves.outbound, serves.be, serves.cu⟩
  · have joined : s.jc.state ≠ .isolated := fun e => by rw [canServe_of_isolated e] at hc; cases hc
    have serves := serve_serves joined a rest
    have inRange : ∀ g ∈ s.chosenFor a, g.slot < s.su.slots.length := fun g hg => by
      obtain ⟨-, age, slot⟩ := mem_grantable.1 (chosenFor_mem hg)
      exact occupied_lt slot
    have step : State.serveAsks Config.maxAsks s = State.serveAsks 7 (s.serve a rest) := serveAsks_succ hq hc 7
    refine ⟨s.serve a rest, serves.askQueue, serves.seq, serves.lp, serves.outbound, serves.be, serves.cu, serves.jc,
      fun g hg => ?_, fun alone i hi => ?_, fun last => ?_, fun few => ?_, ?_, fun g hg => mem_grantable.1 (chosenFor_mem hg),
      ?_, fun room j v age slot code none g hg => ?_, fun few => ⟨fun o ho e => ?_, fun n hn => ?_⟩⟩
    · rw [serves.slots]
      have granted : Granted s.nextSeq s.su.requests ((chosenState s a rest).su.slot g.slot) := by
        refine foldl_emptySlot_granted s.nextSeq s.su.requests (s.chosenFor a) _ ?_ ?_ g.slot (.inr ⟨g, hg, rfl⟩)
        · exact fun _ => id
        · exact inRange
      exact granted.imp id fun ⟨q, hq, res⟩ => ⟨fun e => (by rw [e] at hq; cases hq), q, hq, res⟩
    · rw [serves.slots]
      refine (foldl_emptySlot_alone s.nextSeq (s.chosenFor a) _ ?_ ?_ i hi).trans rfl
      · exact alone
      · exact inRange
    · refine ⟨_, execAskServe_eq s, ?_⟩
      rw [servedState, step, serveAsks_of_empty (serves.askQueue.trans last), State.flush_setPl]
      rfl
    · rw [execAskServe_eq, execAskServe_eq, servedState, step, servedState,
        ← serveAsks_fuel 7 (s.serve a rest) (by rw [serves.askQueue]; omega)]
      rfl
    · by_cases room : s.xu.outbound.length < 8
      · rw [chosenFor_room room, if_pos room, List.length_take, grantable_length]
      · rw [chosenFor_full room, if_neg room]
        rfl
    · by_cases room : s.xu.outbound.length < 8
      · rw [chosenFor_room room]
        exact (grantable_sorted s a.code).sublist (List.take_sublist _ _)
      · rw [chosenFor_full room]
        exact .nil
    · rw [chosenFor_room room] at hg none
      have here : (⟨j, v⟩ : Grantable) ∈ s.grantable a.code := mem_grantable.2 ⟨code, age, slot⟩
      rw [← List.take_append_drop a.quantity (s.grantable a.code)] at here
      have later := (List.mem_append.1 here).resolve_left fun h => none _ h rfl
      have sorted := grantable_sorted s a.code
      rw [← List.take_append_drop a.quantity (s.grantable a.code), List.pairwise_append] at sorted
      exact sorted.2.2 g hg _ later
    · have free : s.nextSeq ∉ s.xu.outbound.map (·.seq) := freeSeq_free (by rwa [List.length_map]) s.xu.seq
      exact free (List.mem_map.2 ⟨o, ho, e⟩)
    · have first : n ∈ s.xu.outbound.map (·.seq) := freeSeq_first (by rwa [List.length_map]) s.xu.seq n hn
      exact List.mem_map.1 first

end Sys2Proof.Proofs
end


section
/-! Removals that start (R85), UNDO (R176), bands and substitutes (R98, R99), and the check with its seal and
dispatch (R44 to R46). -/

namespace Sys2Proof.Proofs

open Sys2Proof.Machine

/-! ### Removals that start (R85) -/

theorem startRemoval_put (s : State) (p : Pos) (pu : Purpose) (x : Placed) :
    (s.startRemoval p pu x).put p = some (removalRecord pu x (s.baseline p)) := by
  rw [State.startRemoval, State.showTray_put, State.setPut_put_same]

theorem startRemoval_hold (s : State) (p : Pos) (pu : Purpose) (x : Placed) (q : Pos) :
    (s.startRemoval p pu x).hold q = s.hold q := State.showTray_hold ..

theorem tryRemoval_stands {s : State} {p : Pos} (h : s.hc.stopped = true ∨ s.put p ≠ none ∨ s.removalDue p = none) :
    s.tryRemoval p = s := by
  unfold State.tryRemoval
  split
  case isTrue => rfl
  case isFalse free =>
    obtain ⟨going, idle⟩ : s.hc.stopped = false ∧ s.put p = none := by simpa using free
    obtain h | h | h := h
    · simp [going] at h
    · exact absurd idle h
    · rw [h]

section
variable {s : State} {p : Pos} {x : Placed} (going : s.hc.stopped = false) (idle : s.put p = none)
include going idle

theorem tryRemoval_starts {pu : Purpose} (hpu : pu ≠ .chill) (due : s.removalDue p = some (pu, x)) :
    s.tryRemoval p = s.startRemoval p pu x := by
  rw [State.tryRemoval, going, idle, due, if_neg (by simp)]
  cases pu
  case chill => exact absurd rfl hpu
  all_goals rfl

theorem tryRemoval_chill {h : Hold} (due : s.removalDue p = some (.chill, x)) (hh : s.hold p = some h) :
    s.tryRemoval p = (s.setHold p (some { h with resolving := .chill })).startRemoval p .chill x := by
  rw [State.tryRemoval, going, idle, due, if_neg (by simp)]
  simp only [hh]

end

section
variable {s : State} {p : Pos} {x : Placed}

theorem removalDue_undo {h : Hold} (held : (s.build p).state = .held) (hh : s.hold p = some h) (hr : h.resolving = .undo)
    (given : s.su.reservedSlot p ≠ none) (hx : (s.build p).lastPlaced = some x) :
    s.removalDue p = some (.undo, x) := by
  simp [State.removalDue, held, hh, hr, hx, Option.isSome_iff_ne_none.2 given]

theorem removalDue_chill {h : Hold} {n : UnitNo} {ns : List UnitNo} (held : (s.build p).state = .held)
    (hh : s.hold p = some h) (hr : h.resolving ≠ .undo) (hc : h.primary.cause = .chillExpired) (hn : h.named = n :: ns)
    (hx : (s.build p).content.find? (fun y => decide (y.unit.number = n)) = some x) :
    s.removalDue p = some (.chill, x) := by
  simp [State.removalDue, held, hh, hr, hc, hn, hx]

theorem removalDue_unload (unloading : (s.build p).state = .unloading) (given : s.su.reservedSlot p ≠ none)
    (hx : (s.build p).lastPlaced = some x) : s.removalDue p = some (.unload, x) := by
  simp [State.removalDue, unloading, hx, Option.isSome_iff_ne_none.2 given]

end

theorem requestSlot_lowest {s : State} {p : Pos} {i : Nat} (hr : s.su.reservedSlot p = none)
    (hq : s.su.requests.contains p = false) (hi : s.su.lowestEmpty = some i) :
    s.requestSlot p = (s.setSlot i (.reserved p)).showShelf := by
  simp [State.requestSlot, hr, hi, show p ∉ s.su.requests by simpa using hq]

theorem reservedSlot_setSlot {s : State} {p : Pos} {i : Nat} (hi : i < s.su.slots.length) :
    (s.setSlot i (.reserved p)).su.reservedSlot p ≠ none := by
  intro none
  have none : ∀ x ∈ s.su.slots.set i (.reserved p), Slot.isReservedFor p x = false := List.findIdx?_eq_none_iff.1 none
  have here : Slot.reserved p ∈ s.su.slots.set i (.reserved p) := List.mem_set hi _
  simpa [Slot.isReservedFor] using none _ here

/-! ### UNDO (R176) -/

theorem going_of_not_shut {s : State} {p : Pos} (h : s.keysShut p = false) : s.hc.stopped = false := by
  rw [← Bool.not_eq_true, keysShut_iff, not_or] at h
  simpa using h.1

/-- Settles O19. -/
theorem undoReservesAndStarts : Obligations.UndoReservesAndStarts := by
  intro p h x i s shut open_ accepted hx idle hr hq hi
  obtain ⟨held, hh, -⟩ := keyHoldOpen_eq_some_iff.1 open_
  have going := going_of_not_shut shut
  have placed : (s.build p).content.isEmpty = false := by
    cases hc : (s.build p).content with
    | nil => simp [Build.lastPlaced, hc] at hx
    | cons => rfl
  have run : exec (.undo p) s = finish (s.undoKey p h) := by
    show execUndo p s = _
    simp only [execUndo, shut, open_, accepted, placed, idle]
    rfl
  have asked : (s.setHold p (some { h with resolving := .undo })).requestSlot p
      = ((s.setHold p (some { h with resolving := .undo })).setSlot i (.reserved p)).showShelf :=
    requestSlot_lowest hr hq hi
  have starts := tryRemoval_starts (s := ((s.setHold p (some { h with resolving := .undo })).setSlot i (.reserved p)).showShelf)
    (p := p) (x := x) (pu := .undo) (by rw [State.showShelf_hc]; exact going) (by rw [State.showShelf_put]; exact idle)
    nofun (removalDue_undo (h := { h with resolving := .undo }) (by rw [State.showShelf_build]; exact held)
      (by rw [State.showShelf_hold]; exact State.setHold_hold_same ..) rfl
      (by rw [State.showShelf_su]; exact reservedSlot_setSlot (slot_isEmpty_of_lowestEmpty hi).1)
      (by rw [State.showShelf_build]; exact hx))
  rw [State.undoKey, asked, starts] at run
  refine ⟨_, run, ?_, ?_, ?_, ?_, ?_, ?_, ?_⟩
  · simp [State.startRemoval, State.setSlot]
  · rw [State.flush_hold, startRemoval_hold, State.showShelf_hold]
    exact State.setHold_hold_same ..
  · rw [State.flush_put, startRemoval_put]
    simp [State.baseline, State.stable, State.setSlot]
  all_goals simp [State.startRemoval, State.setSlot]

/-! ### Bands and substitutes (R98, R99) -/

theorem bandLow_le_iff (v d n : Nat) : bandLow v d ≤ n ↔ v * (100 - min d 50) ≤ 100 * n := by
  unfold bandLow usedPercent
  generalize v * (100 - min d 50) = x
  omega

theorem le_bandHigh_iff (v u n : Nat) : n ≤ bandHigh v u ↔ 100 * n ≤ v * (100 + min u 50) := by
  unfold bandHigh usedPercent
  generalize v * (100 + min u 50) = x
  omega

/-- The estimate of a substitute, in numbers. -/
theorem estimate_eq (m : Rounding) (l : Label) : estimate m l = match l.pricing with
    | .fixed => l.value
    | .byWeight => if l.value = 0 ∨ l.weight = 0 then 0 else
        min 999999 (roundValue m (l.value * l.weight / 1000) (l.value * l.weight % 1000)) := by
  unfold estimate valueUnit
  cases l.pricing with
  | fixed => rfl
  | byWeight =>
    by_cases free : l.value = 0 ∨ l.weight = 0
    · have worthless : l.value = 0 ∨ (l.weight : Int) ≤ 0 := free.imp_right (by omega)
      simp only [valueByWeight_of_invalid m worthless, if_pos free]
    · obtain ⟨rate, weight⟩ := not_or.1 free
      simp only [valueByWeight_of_pos m (Nat.pos_of_ne_zero rate) (Nat.pos_of_ne_zero weight), if_neg free]
      exact min_comm _ _

/-- Settles O28. -/
theorem bandIsExactRange : Obligations.BandIsExactRange := by
  refine ⟨fun v d u n => and_congr (bandLow_le_iff v d n) (le_bandHigh_iff v u n), fun s r u l i n hl hi hn => ?_⟩
  have worth : estimate s.jc.setup.mode u.label = n :=
    (estimate_eq s.jc.setup.mode u.label).trans hn.symm
  unfold State.acceptable
  rw [hl, hi]
  simp only [Bool.and_eq_true, decide_eq_true_eq, worth, bandLow_le_iff, le_bandHigh_iff, and_assoc]
  refine and_congr_left fun _ => ?_
  cases l.item.rule <;> simp

/-! ### Sealing (R45) -/

/-- The parts a build that is sealed changes. -/
def sealT (p : Pos) : Part → Prop
  | .pl | .queue | .cuWaiting | .absent _ => True
  | .build .state q | .build .trayWanted q => q = p
  | _ => False

theorem seal_only (s : State) (p : Pos) (total : Nat) (weight : Int) : Only (sealT p) s (s.seal p total weight) := by
  have sealed : Only (sealT p) s
      ((s.setBuild p { s.build p with state := .sealed, trayWanted := false }).showBuild p) := by
    refine ((Only.refl _ s).setBuild p _ fun k hk => ?_).showBuild ?_ p
    · have same := BuildPart.Same.refl (s.build p) k
      cases k
      case state => exact absurd rfl hk
      case trayWanted => exact absurd rfl hk
      all_goals exact same
    · intro x h
      cases x <;> first | exact h | exact h.elim
  unfold State.seal
  dsimp only
  split
  · exact sealed.produceCu trivial trivial _ trivial fun _ => nofun
  · exact sealed

theorem seal_state (s : State) (p : Pos) (total : Nat) (weight : Int) :
    ((s.seal p total weight).build p).state = .sealed := by
  unfold State.seal
  dsimp only
  split
  · rw [produceCu_build, State.showBuild_build, State.setBuild_build_same]
  · rw [State.showBuild_build, State.setBuild_build_same]

/-- DONE is queued where the queue has space. -/
theorem seal_lp {s : State} {p : Pos} {o : OrderId} (hl : (s.build p).link = some o) (hj : s.jc.state ≠ .isolated)
    (hs : s.lp.hasSpace = true) (total : Nat) (weight : Int) : (s.seal p total weight).lp
      = s.lp.enqueue (.done o (s.vu.get p).sticky (BitVec.ofNat 24 total) (BitVec.ofNat 16 weight.toNat)) := by
  have linked : (((s.setBuild p { s.build p with state := .sealed, trayWanted := false }).showBuild p).build p).link
      = some o := by
    rw [State.showBuild_build, State.setBuild_build_same]
    exact hl
  unfold State.seal
  simp only [linked]
  rw [produceCu_queued (by rw [State.showBuild_jc]; exact hj) (by rw [State.showBuild_lp]; exact hs), State.setLp_lp,
    State.showBuild_lp, State.showBuild_vu]
  rfl

/-! ### The check (R44, R102) -/

/-- What a check finds where the totals do not saturate. -/
theorem checkOf_exact {s : State} {p : Pos} {i : NoticeInfo} (hi : s.infoOf p = some i)
    (ho : (s.build p).ordered ≤ 16777215) (hp : (s.build p).placedValue ≤ 16777215) :
    (s.checkOf p).total = (s.build p).placedValue
      ∧ (s.checkOf p).causes = { CauseSet.none with
          bandLow := decide ((s.build p).placedValue < bandLow (s.build p).ordered i.down)
          bandHigh := decide (bandHigh (s.build p).ordered i.up < (s.build p).placedValue) } := by
  have ordered : saturate (s.build p).ordered = (s.build p).ordered := min_eq_left ho
  have placed : saturate (s.build p).placedValue = (s.build p).placedValue := min_eq_left hp
  unfold State.checkOf
  rw [hi]
  simp only [checkTotals, ordered, placed]
  refine ⟨trivial, ?_⟩
  have h : ¬ Config.maxTotal < (s.build p).ordered := not_lt.2 ho
  have h' : ¬ Config.maxTotal < (s.build p).placedValue := not_lt.2 hp
  simp [h, h', CauseSet.none]

theorem lt_bandLow_iff (v d n : Nat) : n < bandLow v d ↔ 100 * n < v * (100 - min d 50) := by
  rw [← not_le, bandLow_le_iff, not_le]

theorem bandHigh_lt_iff (v u n : Nat) : bandHigh v u < n ↔ v * (100 + min u 50) < 100 * n := by
  rw [← not_le, le_bandHigh_iff, not_le]

/-- No total is both below and above a band. -/
theorem not_below_and_above {v d u n : Nat} (h : n < bandLow v d) : ¬ bandHigh v u < n := by
  rw [lt_bandLow_iff] at h
  rw [bandHigh_lt_iff, not_lt]
  have low : v * (100 - min d 50) ≤ v * 100 := Nat.mul_le_mul_left v (by omega)
  have high : v * 100 ≤ v * (100 + min u 50) := Nat.mul_le_mul_left v (by omega)
  omega

/-- A cause of the check that stands in its order where a condition holds. -/
def causeIf (b : Bool) (c : Raised) : List Raised := if b then [c] else []

theorem checkCauses_sorted {a b c d : Bool} (v w x y : Nat) :
    sortBy (fun x y : Raised => decide (x.cause.code < y.cause.code))
      (causeIf a ⟨.overweight, none, v, true⟩ ++ (causeIf b ⟨.clamped, none, w, true⟩
        ++ (causeIf c ⟨.bandLow, none, x, true⟩ ++ causeIf d ⟨.bandHigh, none, y, true⟩)))
    = causeIf a ⟨.overweight, none, v, true⟩ ++ (causeIf b ⟨.clamped, none, w, true⟩
        ++ (causeIf c ⟨.bandLow, none, x, true⟩ ++ causeIf d ⟨.bandHigh, none, y, true⟩)) := by
  cases a <;> cases b <;> cases c <;> cases d <;> rfl

theorem filter_causeIf (test : Raised → Bool) (b : Bool) (c : Raised) :
    (causeIf b c).filter test = causeIf (b && test c) c := by
  cases b <;> cases h : test c <;> simp [causeIf, h]

/-- The causes of a check, in code order. -/
theorem checkCauses_eq (s : State) (p : Pos) (resumed : List Cause) : s.checkCauses p resumed
    = causeIf (decide (((s.trayOf p).limit : Int) < (s.build p).weight))
        ⟨.overweight, none, ((s.build p).weight - ((s.trayOf p).limit : Int)).toNat, true⟩
      ++ (causeIf (((s.checkOf p).causes.inter s.jc.setup.holdMask).clamped && !resumed.contains .clamped)
          ⟨.clamped, none, Config.maxTotal, true⟩
        ++ (causeIf (((s.checkOf p).causes.inter s.jc.setup.holdMask).bandLow && !resumed.contains .bandLow)
            ⟨.bandLow, none, (s.checkOf p).low - (s.checkOf p).total, true⟩
          ++ causeIf (((s.checkOf p).causes.inter s.jc.setup.holdMask).bandHigh && !resumed.contains .bandHigh)
            ⟨.bandHigh, none, (s.checkOf p).total - (s.checkOf p).high, true⟩)) := by
  unfold State.checkCauses
  dsimp only
  have piece (b : Bool) (c : Raised) : (if b = true then [c] else []).filter (fun c => !resumed.contains c.cause)
      = causeIf (b && !resumed.contains c.cause) c := filter_causeIf _ b c
  rw [List.append_assoc, List.filter_append, List.filter_append, piece, piece, piece]
  simp only [causeIf, decide_eq_true_eq]

theorem runCheck_seals {s : State} {p : Pos} {resumed : List Cause} (h : s.checkCauses p resumed = []) :
    s.runCheck p resumed = (s.setVal p ⟨(s.checkOf p).causes, (s.vu.get p).sticky.union (s.checkOf p).causes⟩).seal p
      (s.checkOf p).total (s.build p).weight := by
  unfold State.runCheck
  dsimp only
  rw [h]
  rfl

/-- A check that finds a cause holds the build, the lowest one primary. -/
theorem runCheck_holds {s : State} {p : Pos} {resumed : List Cause} {c : Raised} {rest : List Raised}
    (h : s.checkCauses p resumed = c :: rest) (hn : s.hold p = none) :
    ((s.runCheck p resumed).build p) = { s.build p with state := .held }
      ∧ ∃ k, (s.runCheck p resumed).hold p = some k ∧ k.primary = ⟨c.cause, c.byCheck⟩ ∧ k.saved = .check
        ∧ k.next = .check := by
  have sorted : sortBy (fun x y : Raised => decide (x.cause.code < y.cause.code)) (s.checkCauses p resumed)
      = c :: rest := by
    rw [← h, checkCauses_eq]
    exact checkCauses_sorted ..
  unfold State.runCheck
  dsimp only
  rw [if_neg (by simp [h])]
  obtain ⟨hb, r, hk⟩ := raiseAt_held (s := s.setVal p ⟨(s.checkOf p).causes, (s.vu.get p).sticky.union (s.checkOf p).causes⟩)
    (saved := .check) (idx := (s.setVal p ⟨(s.checkOf p).causes, (s.vu.get p).sticky.union
      (s.checkOf p).causes⟩).standIndex p) sorted hn
  obtain ⟨hp, hs, hn⟩ := foldl_join_keeps rest (Hold.first .check ((s.setVal p ⟨(s.checkOf p).causes,
    (s.vu.get p).sticky.union (s.checkOf p).causes⟩).standIndex p) c)
  exact ⟨hb, _, hk, hp, hs, hn⟩

/-- The valuation record of a check. -/
theorem runCheck_val (s : State) (p : Pos) (resumed : List Cause) : (s.runCheck p resumed).vu.get p
    = ⟨(s.checkOf p).causes, (s.vu.get p).sticky.union (s.checkOf p).causes⟩ := by
  unfold State.runCheck
  dsimp only
  split
  · exact Eq.trans (seal_only _ p _ _ (.val p) id) (PerPos_get_set_same _ p _)
  · exact Eq.trans ((Only.refl _ _).raiseAt (le_refl (raiseT (· = p))) rfl _ _ _ (.val p) id) (PerPos_get_set_same _ p _)

/-! ### Dispatch (R46) -/

theorem look_state {s : State} {p : Pos} (h : (s.build p).state = .empty ∨ (s.build p).state = .claiming) (q : Pos) :
    ((s.look q).build p).state = .empty ∨ ((s.look q).build p).state = .claiming := by
  obtain e | ⟨n, -, -, -, -, e⟩ := look_cases s q
  · rwa [e]
  · rw [e]
    by_cases hq : p = q
    · subst hq
      rw [mark_build_same]
      exact .inr rfl
    · rwa [mark_build_other _ _ hq]

theorem enterEmpty_state (s : State) (p : Pos) :
    ((s.enterEmpty p).build p).state = .empty ∨ ((s.enterEmpty p).build p).state = .claiming := by
  have settled : (settledState s p).build p = .cleared := by
    rw [(settledOf_only s p).build_eq, clearedOf_build]
    intro k
    cases k <;> exact fun h => by first | exact h rfl | exact h
  have looks (qs : List Pos) : ∀ t : State, ((t.build p).state = .empty ∨ (t.build p).state = .claiming) →
      ((qs.foldl State.look t).build p).state = .empty ∨ ((qs.foldl State.look t).build p).state = .claiming := by
    induction qs with
    | nil => exact fun _ h => h
    | cons q qs ih => exact fun t h => ih _ (look_state h q)
  exact looks _ (settledState s p) (.inl (by rw [settled]; rfl))

theorem enterEmpty_content (s : State) (p : Pos) : ((s.enterEmpty p).build p).content = [] :=
  Eq.trans (settle_only s p (.build .content p) fun h => h.elim) (congrArg Build.content (clearedOf_build s p))

/-- The order of a notice that is removed is in the list no more when the position has looked. -/
theorem removed_enterEmpty {s : State} {o : OrderId} (p : Pos) :
    ∀ n ∈ ((s.removeNotice o).enterEmpty p).cu.notices, n.order ≠ o := by
  intro n hn ho
  have stays := (enterEmpty_marks (s.removeNotice o) p).mem_of_order qualifies_removeNotice ho
  exact (mem_removeNotice.1 (stays.1 hn)).2 ho

theorem dispatch_empties {s : State} {p : Pos} {g : Nat} (sealed : (s.build p).state = .sealed)
    (hg : s.stable p = some g) (light : g < 100) :
    (∃ o, (s.build p).link = some o ∧ s.dispatch p = (s.removeNotice o).enterEmpty p)
      ∨ ((s.build p).link = none ∧ s.dispatch p = s.enterEmpty p) := by
  unfold State.dispatch
  rw [if_pos sealed, hg]
  dsimp only
  rw [if_pos (show g < Config.trayMark from light)]
  cases hl : (s.build p).link with
  | none => exact .inr ⟨rfl, rfl⟩
  | some o => exact .inl ⟨o, rfl, rfl⟩

theorem dispatch_stands {s : State} {p : Pos} {g : Nat} (hg : s.stable p = some g) (heavy : 100 ≤ g) :
    s.dispatch p = s := by
  unfold State.dispatch
  rw [hg]
  dsimp only
  rw [if_neg (show ¬ g < Config.trayMark from not_lt.2 heavy)]
  split <;> rfl

/-- Settles O26. -/
theorem checkSealDispatch : Obligations.CheckSealDispatch := by
  intro p s
  refine ⟨?_, fun g sealed hg => ⟨fun light => ?_, dispatch_stands hg⟩⟩
  · rintro i resumed T S w t hi hn rfl eT eS ew hT hS
    obtain rfl : T = (s.build p).ordered := eT
    obtain rfl : S = (s.build p).placedValue := eS
    obtain rfl : w = (s.build p).weight := ew
    obtain ⟨total, causes⟩ := checkOf_exact hi hT hS
    have low : (s.checkOf p).causes.bandLow = true
        ↔ 100 * (s.build p).placedValue < (s.build p).ordered * (100 - min i.down 50) := by
      rw [causes, decide_eq_true_iff, lt_bandLow_iff]
    have high : (s.checkOf p).causes.bandHigh = true
        ↔ (s.build p).ordered * (100 + min i.up 50) < 100 * (s.build p).placedValue := by
      rw [causes, decide_eq_true_iff, bandHigh_lt_iff]
    have notBoth : (s.checkOf p).causes.bandHigh = true → (s.checkOf p).causes.bandLow = false := by
      rw [causes, ← Bool.not_eq_true]
      simp only [decide_eq_true_iff]
      exact fun h h' => not_below_and_above h' h
    have clamped : (s.checkOf p).causes.clamped = false := by rw [causes]; rfl
    have tray : s.trayOf p = i.tray := by rw [State.trayOf, hi]
    have found := checkCauses_eq s p resumed
    simp only [CauseSet.inter, clamped, Bool.false_and, causeIf, Bool.false_eq_true, if_false, List.nil_append, tray]
      at found
    rw [runCheck_val]
    refine ⟨low, high, by rw [causes], rfl, fun heavy => ?_, fun light masked fresh => ?_, fun light masked fresh => ?_,
      fun light hlow hhigh => ?_⟩
    · rw [if_pos (decide_eq_true heavy)] at found
      obtain ⟨hb, k, hk, primary, saved, next⟩ := runCheck_holds found hn
      exact ⟨k, hk, primary, saved, next, by rw [hb]⟩
    · rw [if_neg (by simpa using light), if_pos (by simpa [fresh] using masked)] at found
      obtain ⟨hb, k, hk, primary, saved, next⟩ := runCheck_holds found hn
      exact ⟨k, hk, primary, saved, next, by rw [hb]⟩
    · have lowClear := notBoth (Bool.and_eq_true_iff.1 masked).1
      rw [if_neg (by simpa using light), if_neg (by simp [lowClear]), if_pos (by simpa [fresh] using masked)] at found
      obtain ⟨hb, k, hk, primary, saved, next⟩ := runCheck_holds found hn
      exact ⟨k, hk, primary, saved, next, by rw [hb]⟩
    · rw [if_neg (by simpa using light), if_neg (by simpa using hlow), if_neg (by simpa using hhigh)] at found
      have only := seal_only (s.setVal p ⟨(s.checkOf p).causes, (s.vu.get p).sticky.union (s.checkOf p).causes⟩) p
        (s.checkOf p).total (s.build p).weight
      rw [runCheck_seals found]
      refine ⟨seal_state .., Eq.trans (only (.hold p) id) hn, only (.build .content p) id, fun joined space o hl => ?_⟩
      have done := seal_lp (s := s.setVal p ⟨(s.checkOf p).causes, (s.vu.get p).sticky.union (s.checkOf p).causes⟩) hl
        joined space (s.checkOf p).total (s.build p).weight
      rw [done, total, State.setVal_vu, PerPos_get_set_same]
      rfl
  · obtain ⟨o, hl, e⟩ | ⟨hl, e⟩ := dispatch_empties sealed hg light
    · rw [e]
      refine ⟨enterEmpty_content _ p, enterEmpty_hold _ p, enterEmpty_put _ p, enterEmpty_val _ p, enterEmpty_state _ p,
        fun o' ho' => ?_⟩
      obtain rfl := Option.some.inj (ho'.symm.trans hl)
      exact removed_enterEmpty p
    · rw [e]
      exact ⟨enterEmpty_content _ p, enterEmpty_hold _ p, enterEmpty_put _ p, enterEmpty_val _ p, enterEmpty_state _ p,
        fun o ho => absurd (hl ▸ ho) nofun⟩

end Sys2Proof.Proofs
end


section
/-! Frames and their bytes (R189, R193, R202). -/

namespace Sys2Proof.Proofs

open Sys2Proof.Machine

/-! ### Numbers in bytes -/

theorem word2_bytes2 (x : BitVec 16) : word2 (x.extractLsb' 8 8) (x.extractLsb' 0 8) = x := by
  refine BitVec.eq_of_getLsbD_eq fun i hi => ?_
  unfold word2
  simp only [BitVec.getLsbD_append, BitVec.getLsbD_extractLsb']
  split <;> grind

theorem word3_bytes3 (x : BitVec 24) :
    word3 (x.extractLsb' 16 8) (x.extractLsb' 8 8) (x.extractLsb' 0 8) = x := by
  refine BitVec.eq_of_getLsbD_eq fun i hi => ?_
  unfold word3
  simp only [BitVec.getLsbD_append, BitVec.getLsbD_extractLsb']
  grind

theorem word4_bytes4 (x : BitVec 32) : word4 (x.extractLsb' 24 8) (x.extractLsb' 16 8) (x.extractLsb' 8 8)
    (x.extractLsb' 0 8) = x := by
  refine BitVec.eq_of_getLsbD_eq fun i hi => ?_
  unfold word4
  simp only [BitVec.getLsbD_append, BitVec.getLsbD_extractLsb']
  grind

theorem codeOf_codeBytes (c : ItemCode) :
    codeOf ((c.family ++ c.variant).extractLsb' 8 8) ((c.family ++ c.variant).extractLsb' 0 8) = c := by
  obtain ⟨family, variant⟩ := c
  unfold codeOf
  rw [word2_bytes2, ItemCode.mk.injEq]
  have bit (i : Nat) : (family ++ variant : BitVec (10 + 6)).getLsbD i
      = if i < 6 then variant.getLsbD i else family.getLsbD (i - 6) := BitVec.getLsbD_append
  constructor
  · refine BitVec.eq_of_getLsbD_eq fun i hi => ?_
    rw [BitVec.getLsbD_extractLsb', bit, if_neg (by omega), Nat.add_sub_cancel_left]
    simp [hi]
  · refine BitVec.eq_of_getLsbD_eq fun i hi => ?_
    rw [BitVec.getLsbD_extractLsb', bit, Nat.zero_add, if_pos hi]
    simp [hi]

theorem ofByte_toByte (c : CauseSet) : CauseSet.ofByte c.toByte = c := by
  have all : ∀ a b c d e : Bool, CauseSet.ofByte (CauseSet.toByte ⟨a, b, c, d, e⟩) = ⟨a, b, c, d, e⟩ := by decide
  exact all ..

theorem stationOf_stationByte {k : Station} (hk : k ≠ 0#5) : stationOf (stationByte k) = some k := by
  have range : 1 ≤ k.toNat ∧ k.toNat ≤ 31 := by
    constructor
    · exact Nat.pos_of_ne_zero fun h => hk (BitVec.eq_of_toNat_eq h)
    · exact Nat.le_of_lt_succ k.isLt
  have value : (stationByte k).toNat = k.toNat := BitVec.toNat_setWidth_of_le (by decide)
  rw [stationOf, if_pos (by rwa [value])]
  congr 1
  refine BitVec.eq_of_toNat_eq ?_
  rw [BitVec.toNat_setWidth, value, Nat.mod_eq_of_lt k.isLt]

theorem ofCode_code (k : Kind) : Kind.ofCode k.code = some k := by cases k <;> rfl

theorem readExposures_bytes (es : List (BitVec 16)) : readExposures (es.flatMap bytes2) = some es := by
  induction es with
  | nil => rfl
  | cons e es ih =>
    rw [List.flatMap_cons, bytes2, List.cons_append, List.cons_append, List.nil_append, readExposures, ih, word2_bytes2]
    rfl

theorem readLines_bytes (ls : List WireLine) : readLines (ls.flatMap WireLine.bytes) = some ls := by
  induction ls with
  | nil => rfl
  | cons l ls ih =>
    have step : (l :: ls).flatMap WireLine.bytes = (l.code.family ++ l.code.variant).extractLsb' 8 8
        :: (l.code.family ++ l.code.variant).extractLsb' 0 8 :: l.quantity :: l.value.extractLsb' 16 8
        :: l.value.extractLsb' 8 8 :: l.value.extractLsb' 0 8 :: l.rule :: ls.flatMap WireLine.bytes := rfl
    rw [step, readLines, ih, codeOf_codeBytes, word3_bytes3]
    rfl

theorem toNat_count {n : Nat} (h : n < 256) : (BitVec.ofNat 8 n).toNat = n := by
  rw [BitVec.toNat_ofNat, Nat.mod_eq_of_lt h]

/-! ### Bodies -/

/-- A body gives its frame. -/
theorem ofBody_body {f : Frame} (hf : f.wellFormed = true) : Frame.ofBody f.kind f.body = some f := by
  cases f with
  | halt => rfl
  | go => rfl
  | claim o => exact congrArg (fun x => some (Frame.claim x)) (word4_bytes4 o)
  | prior o h =>
    show (stationOf (stationByte h)).map (Frame.prior (word4 _ _ _ _)) = _
    rw [stationOf_stationByte (of_decide_eq_true hf), word4_bytes4]
    rfl
  | release o => exact congrArg (fun x => some (Frame.release x)) (word4_bytes4 o)
  | done o fl t w =>
    show some (Frame.done (word4 _ _ _ _) (.ofByte fl.toByte) (word3 _ _ _) (word2 _ _)) = _
    rw [word4_bytes4, ofByte_toByte, word3_bytes3, word2_bytes2]
  | ask k c q =>
    show (stationOf (stationByte k)).map (Frame.ask · (codeOf _ _) q) = _
    rw [stationOf_stationByte (of_decide_eq_true hf), codeOf_codeBytes]
    rfl
  | grant k n c es =>
    obtain ⟨hk, few⟩ := Bool.and_eq_true_iff.1 hf
    have count : es.length = (BitVec.ofNat 8 es.length).toNat := (toNat_count (by
      have := of_decide_eq_true few
      omega)).symm
    show (match stationOf (stationByte k), readExposures (es.flatMap bytes2) with
      | some k, some xs =>
        if xs.length = (BitVec.ofNat 8 es.length).toNat then some (Frame.grant k n (codeOf _ _) xs) else none
      | _, _ => none) = _
    rw [stationOf_stationByte (of_decide_eq_true hk), readExposures_bytes]
    dsimp only
    rw [if_pos count, codeOf_codeBytes]
  | taken k n r =>
    show (stationOf (stationByte k)).map (Frame.taken · n r) = _
    rw [stationOf_stationByte (of_decide_eq_true hf)]
    rfl
  | notice b =>
    obtain ⟨-, few⟩ := Bool.and_eq_true_iff.1 hf
    have count : b.lines.length = (BitVec.ofNat 8 b.lines.length).toNat := (toNat_count (by
      have := of_decide_eq_true few
      omega)).symm
    show (match readLines (b.lines.flatMap WireLine.bytes) with
      | some ls => if ls.length = (BitVec.ofNat 8 b.lines.length).toNat then
          some (Frame.notice ⟨word4 _ _ _ _, b.rank, b.tray, b.down, b.up, b.round, ls⟩) else none
      | none => none) = _
    rw [readLines_bytes]
    dsimp only
    rw [if_pos count, word4_bytes4]
  | offer c q =>
    show some (Frame.offer (codeOf _ _) (word2 _ _)) = _
    rw [codeOf_codeBytes, word2_bytes2]
  | want c q => exact congrArg (fun x => some (Frame.want x q)) (codeOf_codeBytes c)
  | roll fresh n => cases fresh <;> rfl
  | setup b =>
    show some (Frame.setup ⟨b.target, b.mode, word2 _ _, word2 _ _, b.exact, word2 _ _, .ofByte b.mask.toByte, b.auto⟩) = _
    rw [word2_bytes2, word2_bytes2, word2_bytes2, ofByte_toByte]

/-- A body has at most 72 bytes. -/
theorem body_length {f : Frame} (hf : f.wellFormed = true) : f.body.length ≤ 72 := by
  cases f with
  | grant k n c es =>
    obtain ⟨-, few⟩ := Bool.and_eq_true_iff.1 hf
    have few := of_decide_eq_true few
    have exposures : (es.flatMap bytes2).length = 2 * es.length := by
      simp [List.length_flatMap, bytes2, Nat.mul_comm]
    have whole : (Frame.grant k n c es).body.length = 5 + (es.flatMap bytes2).length := by
      simp [Frame.body, codeBytes, bytes2]
      omega
    omega
  | notice b =>
    obtain ⟨-, few⟩ := Bool.and_eq_true_iff.1 hf
    have few := of_decide_eq_true few
    have lines : (b.lines.flatMap WireLine.bytes).length = 7 * b.lines.length := by
      simp [List.length_flatMap, WireLine.bytes, codeBytes, bytes2, bytes3, Nat.mul_comm]
    have whole : (Frame.notice b).body.length = 10 + (b.lines.flatMap WireLine.bytes).length := by
      simp [Frame.body, bytes4]
      omega
    omega
  | roll fresh n => exact show 2 ≤ 72 by decide
  | _ => simp [Frame.body, bytes4, bytes3, bytes2, codeBytes]

/-! ### The whole frame -/

theorem cls_lt (k : Kind) : k.cls < 4 := by cases k <;> decide

theorem contentionByte_bit (cls : Nat) (k : Station) (i : Nat) : (contentionByte cls k).getLsbD i
    = if i < 5 then k.getLsbD i else (BitVec.ofNat 2 cls ++ 0#1).getLsbD (i - 5) := BitVec.getLsbD_append

theorem sender_contentionByte (cls : Nat) (k : Station) : (contentionByte cls k).extractLsb' 0 5 = k := by
  refine BitVec.eq_of_getLsbD_eq fun i hi => ?_
  rw [BitVec.getLsbD_extractLsb', contentionByte_bit, Nat.zero_add, if_pos hi]
  simp [hi]

theorem cls_contentionByte {cls : Nat} (h : cls < 4) (k : Station) :
    ((contentionByte cls k).extractLsb' 6 2).toNat = cls := by
  have field : (contentionByte cls k).extractLsb' 6 2 = BitVec.ofNat 2 cls := by
    refine BitVec.eq_of_getLsbD_eq fun i hi => ?_
    rw [BitVec.getLsbD_extractLsb', contentionByte_bit, if_neg (by omega), show 6 + i - 5 = i + 1 by omega,
      BitVec.getLsbD_append, if_neg (by omega)]
    simp [hi]
  rw [field, BitVec.toNat_ofNat, Nat.mod_eq_of_lt h]

/-- Settles O50. -/
theorem frameRoundTrip : Obligations.FrameRoundTrip := by
  intro k f hk hf
  refine ⟨?_, ofBody_body hf⟩
  have short := body_length hf
  have count : (BitVec.ofNat 8 f.body.length).toNat = f.body.length := toNat_count (by omega)
  unfold Frame.wire Frame.header bytes2
  rw [List.append_assoc]
  show readFrame (contentionByte f.cls k :: f.kind.code :: BitVec.ofNat 8 f.body.length :: (f.body ++ _)) = _
  unfold readFrame
  simp only [count, List.drop_left, List.take_left, ofCode_code, sender_contentionByte, List.take_succ_cons,
    List.take_nil, word2_bytes2]
  rw [if_pos ⟨short, hk, cls_contentionByte (cls_lt f.kind) k, rfl⟩]

end Sys2Proof.Proofs
end


section
/-! How a build goes on: its next put (R40, R41), a plan (R38), a regather (R31), and HC's way from one cause to the
next (R178, R179). -/

namespace Sys2Proof.Proofs

open Sys2Proof.Machine

/-! ### Puts that start (R75) -/

theorem startPut_eq {s : State} {p : Pos} {e : PlanEntry} {i k : Nat} {u : UnitRec} (hi : s.su.slotOf e.unit = some i)
    (hs : s.su.slot i = .occupied u (.earmarked p k)) : s.startPut p e
      = (((((s.setSlot i (.occupied u (.putting p k))).modLine p k
          (fun x => { x with earmarked := x.earmarked - 1, putting := x.putting + 1 })).showShelf.setPut p
            (some (putRecord u e (s.baseline p)))).showTray p).showBuild p) := by
  unfold State.startPut
  simp only [hi, hs, if_true]

/-- A unit's put starts: its record, and the unit in its slot. -/
theorem startPut_starts {s : State} {p : Pos} {e : PlanEntry} {i k : Nat} {u : UnitRec}
    (hi : s.su.slotOf e.unit = some i) (hs : s.su.slot i = .occupied u (.earmarked p k)) :
    (s.startPut p e).put p = some (putRecord u e (s.baseline p))
      ∧ (s.startPut p e).su.slot i = .occupied u (.putting p k) := by
  have here : i < s.su.slots.length := by
    by_contra beyond
    rw [slot_beyond (by omega)] at hs
    simp at hs
  rw [startPut_eq hi hs]
  refine ⟨by rw [State.showBuild_put, State.showTray_put, State.setPut_put_same], ?_⟩
  rw [State.showBuild_su, State.showTray_su]
  show ((State.showShelf _).su).slot i = _
  rw [State.showShelf_su]
  exact (slot_set _ _ _ _).trans (if_pos ⟨rfl, here⟩)

/-- What a put that starts changes. -/
def startT (p : Pos) : Part → Prop
  | .pl | .slots => True
  | .put q | .putPending q | .build .lines q | .build .earmarks q => q = p
  | .shelf R => ¬ R p
  | _ => False

theorem startPut_only {s : State} {p : Pos} (idle : s.put p = none) (e : PlanEntry) :
    Only (startT p) s (s.startPut p e) := by
  have hpl : panelT ≤ startT p := by
    intro x h
    cases x <;> first | exact h | exact h.elim
  unfold State.startPut
  split
  case h_1 => exact .refl _ s
  case h_2 i hi =>
    split
    case h_2 => exact .refl _ s
    case h_1 u q l hs =>
      split
      case isFalse => exact .refl _ s
      case isTrue e' =>
        subst e'
        have put : Only (startT q) s (s.setSlot i (.occupied u (.putting q l))) := by
          refine (Only.refl _ s).setSlot i _ trivial (fun _ => ?_) fun R hR => ?_
          · rw [hs]
            rfl
          · exact .inr (.inr (.inl ⟨u, q, l, hs, not_not.1 hR, rfl⟩))
        have counted : Only (startT q) s ((s.setSlot i (.occupied u (.putting q l))).modLine q l
            (fun x => { x with earmarked := x.earmarked - 1, putting := x.putting + 1 })) := by
          refine put.modLine q l _ rfl (fun _ _ => rfl) (fun _ _ => rfl) (fun k => absurd rfl k) fun _ x hx => ?_
          simp only [LineRec.uncovered, LineRec.heldUnits] at hx ⊢
          omega
        refine (((counted.showShelf hpl).setPut q _ rfl (fun _ => ?_) fun k => absurd rfl k).showTray hpl q).showBuild hpl q
        rw [State.showShelf_put]
        exact idle

theorem nextPut_pending {s : State} {p : Pos} (h : s.put p ≠ none) : s.nextPut p = s := by
  unfold State.nextPut
  dsimp only
  rw [if_neg]
  simp [h]

theorem nextPut_not_putting {s : State} {p : Pos} (h : (s.build p).state ≠ .putting) : s.nextPut p = s := by
  unfold State.nextPut
  dsimp only
  rw [if_neg]
  exact fun k => h k.1

/-- A build whose next put may start. -/
structure ReadyToPut (s : State) (p : Pos) : Prop where
  putting : (s.build p).state = .putting
  tare : (s.build p).tare ≠ none
  tray : (s.build p).trayWanted = false
  due : (s.build p).regatherDue = false
  idle : s.put p = none

theorem nextPut_checks {s : State} {p : Pos} (h : ReadyToPut s p) (hp : (s.build p).plan = [])
    (covered : (s.build p).covered = true) : s.nextPut p = s.runCheck p [] := by
  obtain ⟨putting, tare, tray, due, idle⟩ := h
  unfold State.nextPut
  dsimp only
  rw [if_pos ⟨putting, Option.isSome_iff_ne_none.2 tare, by simp [tray], by simp [due], by simp [idle]⟩, hp]
  exact if_pos covered

theorem nextPut_starts {s : State} {p : Pos} {e : PlanEntry} {es : List PlanEntry} (h : ReadyToPut s p)
    (hp : (s.build p).plan = e :: es) (going : s.hc.stopped = false) : s.nextPut p = s.startPut p e := by
  obtain ⟨putting, tare, tray, due, idle⟩ := h
  unfold State.nextPut
  dsimp only
  rw [if_pos ⟨putting, Option.isSome_iff_ne_none.2 tare, by simp [tray], by simp [due], by simp [idle]⟩, hp]
  exact if_neg (by simp [going])

theorem takeTare_stands {s : State} {p : Pos} (h : (s.build p).trayWanted = false ∨ (s.build p).state ≠ .putting) :
    s.takeTare p = s := by
  unfold State.takeTare
  rw [if_neg]
  rintro ⟨putting, wanted, -⟩
  exact h.elim (fun k => by simp [k] at wanted) fun k => k putting

/-! ### Plans (R38) -/

/-- The state in which a build has its plan, before the tare and the first put. -/
def plannedState (s : State) (p : Pos) (plan : List PlanEntry) : State :=
  let b := s.build p
  (s.setBuild p { b with
    state := .putting, plan := plan, trayWanted := b.tare.isNone, regatherDue := false }).showBuild p

theorem enterPutting_eq (s : State) (p : Pos) (plan : List PlanEntry) :
    s.enterPutting p plan = ((plannedState s p plan).takeTare p).nextPut p := rfl

theorem plannedState_build (s : State) (p : Pos) (plan : List PlanEntry) : (plannedState s p plan).build p
    = { s.build p with
        state := .putting, plan := plan, trayWanted := (s.build p).tare.isNone, regatherDue := false } := by
  unfold plannedState
  dsimp only
  rw [State.showBuild_build, State.setBuild_build_same]

theorem plannedState_put (s : State) (p : Pos) (plan : List PlanEntry) (q : Pos) :
    (plannedState s p plan).put q = s.put q := State.showBuild_put ..

theorem plannedState_hold (s : State) (p : Pos) (plan : List PlanEntry) (q : Pos) :
    (plannedState s p plan).hold q = s.hold q := State.showBuild_hold ..

/-- What the tare and the puts that wait on one another change beside the tare while a put is pending. -/
def tareT (p : Pos) : Part → Prop
  | .pl => True
  | .build .tare q | .build .trayWanted q => q = p
  | _ => False

theorem takeTare_pending {s : State} {p : Pos} (h : s.put p ≠ none) : Only (tareT p) s (s.takeTare p) := by
  unfold State.takeTare
  split
  · split
    case h_1 r hr =>
      have tared : Only (tareT p) s ((s.setBuild p { s.build p with tare := some r, trayWanted := false }).showBuild p) := by
        refine ((Only.refl _ s).setBuild p _ fun k hk => ?_).showBuild ?_ p
        · have same := BuildPart.Same.refl (s.build p) k
          cases k
          case tare => exact absurd rfl hk
          case trayWanted => exact absurd rfl hk
          all_goals exact same
        · intro x hx
          cases x <;> first | exact hx | exact hx.elim
      rw [nextPut_pending]
      · exact tared
      · rw [State.showBuild_put]
        exact h
    case h_2 => exact .refl _ s
  · exact .refl _ s

/-- With a put pending a plan that is found leaves the build PUTTING with that plan, and the put as it is. -/
theorem enterPutting_pending {s : State} {p : Pos} (h : s.put p ≠ none) (plan : List PlanEntry) :
    Only (tareT p) (plannedState s p plan) (s.enterPutting p plan) := by
  have tared := takeTare_pending (s := plannedState s p plan) (p := p) (by rwa [plannedState_put])
  have put : ((plannedState s p plan).takeTare p).put p = s.put p :=
    Eq.trans (tared (.put p) id) (plannedState_put s p plan p)
  rw [enterPutting_eq, nextPut_pending (put ▸ h)]
  exact tared

/-- A build that has its tare starts its first put, or runs its check where no unit is left to put. -/
theorem enterPutting_tared {s : State} {p : Pos} (ht : (s.build p).tare ≠ none) (plan : List PlanEntry) :
    s.enterPutting p plan = (plannedState s p plan).nextPut p := by
  rw [enterPutting_eq, takeTare_stands (.inl _)]
  rw [plannedState_build]
  exact Option.isNone_eq_false_iff.2 (Option.isSome_iff_ne_none.2 ht)

theorem readyToPut_planned {s : State} {p : Pos} (ht : (s.build p).tare ≠ none) (idle : s.put p = none)
    (plan : List PlanEntry) : ReadyToPut (plannedState s p plan) p := by
  constructor
  all_goals first | rw [plannedState_build] | rw [plannedState_put]
  · exact ht
  · exact Option.isNone_eq_false_iff.2 (Option.isSome_iff_ne_none.2 ht)
  · exact idle

theorem foldl_join_resolving (cs : List Raised) (h : Hold) : (cs.foldl Hold.join h).resolving = h.resolving := by
  induction cs generalizing h with
  | nil => rfl
  | cons c cs ih =>
    rw [List.foldl_cons, ih]
    unfold Hold.join
    dsimp only
    split <;> rfl

/-- A first fault other than CHILL_EXPIRED starts no removal. -/
theorem raiseAt_first_stands {s : State} {p : Pos} {saved : SavedState} {idx : Nat} {cs : List Raised} {c : Raised}
    {rest : List Raised} (hs : sortBy (fun x y : Raised => decide (x.cause.code < y.cause.code)) cs = c :: rest)
    (hn : s.hold p = none) (hc : c.cause ≠ .chillExpired) : s.raiseAt p saved idx cs = heldFirst s p saved idx c rest := by
  rw [raiseAt_first hs hn]
  refine tryRemoval_stands (.inr (.inr ?_))
  obtain ⟨primary, -, -⟩ := foldl_join_keeps rest (Hold.first saved idx c)
  unfold State.removalDue
  rw [heldFirst_build, heldFirst_hold]
  simp only [foldl_join_resolving, primary]
  rw [if_neg (by simp [Hold.first]), if_neg (by simpa [Hold.first] using hc)]

theorem planFull_put {s : State} {p : Pos} (hn : s.hold p = none) (e : PlanFail) : (s.planFull p e).put p = s.put p := by
  have raises := raiseAt_first_stands (s := s.setBuild p { s.build p with plan := [] }) (p := p) (saved := .gathering)
    (idx := (s.setBuild p { s.build p with plan := [] }).standIndex p) (cs := [e.cause]) (c := e.cause) (rest := []) rfl hn
    (by cases e <;> nofun)
  rw [State.planFull, raises, heldFirst_put]
  rfl

/-- A plan that fails holds the build with PLAN_FULL (R38, R43). -/
theorem planFull_held {s : State} {p : Pos} (hn : s.hold p = none) (e : PlanFail) :
    ((s.planFull p e).build p).state = .held
      ∧ ∃ h, (s.planFull p e).hold p = some h ∧ h.primary = ⟨.planFull, false⟩ ∧ h.saved = .gathering := by
  obtain ⟨hb, r, hh⟩ := raiseAt_held (s := s.setBuild p { s.build p with plan := [] }) (p := p) (saved := .gathering)
    (idx := (s.setBuild p { s.build p with plan := [] }).standIndex p) (cs := [e.cause]) (c := e.cause) (rest := []) rfl hn
  refine ⟨?_, _, hh, ?_, rfl⟩
  · rw [State.planFull, hb]
  · cases e <;> rfl

/-! ### Regathering (R31) -/

/-- The build record with which a regather starts. -/
def regatherBuild (b : Build) (setup : SetupValues) : Build :=
  { b with
    state := .gathering, plan := [], trayWanted := false, regatherDue := false
    gatherLeft := some setup.gatherLimit
    lines := b.lines.map (fun l =>
      { l with exactWait := .running setup.exactWait, wantSent := false, wantRefused := false }) }

/-- The state of a regather before coverage is tested. -/
def gatheringState (s : State) (p : Pos) : State :=
  (((s.setBuild p (regatherBuild (s.build p) s.jc.setup)).showBuild p).exactFill p).handLines p

theorem regather_eq (s : State) (p : Pos) : s.regather p = (gatheringState s p).coverage p := rfl

/-- What filling a build's lines and handing them to XU changes. -/
def gatheringT (p : Pos) : Part → Prop := fun x => x = .pl ∨ fillT (· = p) x ∨ handT (· = p) x

theorem gatheringState_only (s : State) (p : Pos) :
    Only (gatheringT p) (s.setBuild p (regatherBuild (s.build p) s.jc.setup)) (gatheringState s p) := by
  refine (((Only.refl _ _).showBuild ?_ p).exactFill (Q := (· = p)) (fun x h => .inr (.inl h)) rfl).handLines
    (Q := (· = p)) (fun x h => .inr (.inr h)) rfl
  intro x h
  cases x
  case pl => exact .inl rfl
  all_goals exact h.elim

theorem coverage_stands {s : State} {p : Pos} (h : (s.build p).state ≠ .gathering ∨ (s.build p).covered = false) :
    s.coverage p = s := by
  unfold State.coverage
  rw [if_neg]
  rintro ⟨gathering, covered⟩
  exact h.elim (fun k => k gathering) fun k => by simp [k] at covered

/-- A build that is uncovered after the coverage test was so before, and the test changed nothing. -/
theorem coverage_uncovered {s : State} {p : Pos} (h : ((s.coverage p).build p).covered = false) : s.coverage p = s := by
  refine coverage_stands (.inr ?_)
  have keeps : (s.build p).covered = true → ((s.coverage p).build p).covered = true :=
    (Only.refl _ s).coverage (le_refl (worksT (· = p))) rfl (.build .covered p) id
  exact Bool.eq_false_iff.2 fun k => by simp [keeps k] at h

/-- A build that is GATHERING since a regather, with every limit full; its put and hold records are those of `s`. -/
structure Gathers (s t : State) (p : Pos) : Prop where
  state : (t.build p).state = .gathering
  plan : (t.build p).plan = []
  limit : (t.build p).gatherLeft = some s.jc.setup.gatherLimit
  put : t.put p = s.put p
  hold : t.hold p = s.hold p

theorem gatheringState_gathers (s : State) (p : Pos) : Gathers s (gatheringState s p) p := by
  have only := gatheringState_only s p
  have build (k : BuildPart) (hk : k ≠ .lines) (hk' : k ≠ .earmarks) :
      k.Same (regatherBuild (s.build p) s.jc.setup) ((gatheringState s p).build p) := by
    have same := only (.build k p) fun h => by
      obtain h | h | h := h
      · cases h
      · cases k <;> first | exact hk rfl | exact hk' rfl | exact h
      · cases k <;> first | exact hk rfl | exact h
    rwa [Part.Same, State.setBuild_build_same] at same
  exact ⟨build .state nofun nofun, build .plan nofun nofun, build .gatherLeft nofun nofun,
    only (.put p) fun h => h.elim nofun fun h => h.elim id id, only (.hold p) fun h => h.elim nofun fun h => h.elim id id⟩

/-- A build that regathers is GATHERING while a line is uncovered. -/
theorem regather_gathers {s : State} {p : Pos} (h : ((s.regather p).build p).covered = false) :
    Gathers s (s.regather p) p := by
  rw [regather_eq] at h ⊢
  rw [coverage_uncovered h]
  exact gatheringState_gathers s p

/-! ### Matching beside a build that is not GATHERING (R34) -/

theorem earmark_state (s : State) (i : Nat) (r : LineRef) (q : Pos) :
    ((s.earmark i r).build q).state = (s.build q).state :=
  (Only.refl _ s).earmark (le_refl (fillT (fun _ => True))) i (r := r) trivial (.build .state q) id

/-- What matching changes where a position's build is not GATHERING: that build takes up units alone. -/
def besideT (p : Pos) : Part → Prop
  | .build .lines _ | .build .earmarks _ => True
  | .shelf _ => True
  | x => matchT (· ≠ p) x

theorem fillT_le_besideT (p : Pos) : fillT (fun _ => True) ≤ besideT p := by
  intro x h
  cases x
  case build k q => cases k <;> first | exact h | trivial
  all_goals first | exact h | trivial

theorem matchT_le_besideT (p : Pos) : matchT (· ≠ p) ≤ besideT p := by
  intro x h
  cases x
  case build k q => cases k <;> first | exact h | trivial
  all_goals first | exact h | trivial

theorem Only.matchUnit_beside {T : Part → Prop} {a s : State} (h : Only T a s) {p : Pos} (hT : besideT p ≤ T)
    (hp : (s.build p).state ≠ .gathering) (i : Nat) : Only T a (s.matchUnit i) := by
  unfold State.matchUnit
  split
  · exact h
  · split
    case h_1 r hr =>
      have filled : Only T a (s.earmark i r) := h.earmark ((fillT_le_besideT p).trans hT) i trivial
      by_cases e : r.p = p
      · rw [State.takeUnit, coverage_stands (.inl (by rwa [earmark_state, e]))]
        exact filled
      · exact filled.coverage (((worksT_le_matchT _).trans (matchT_le_besideT p)).trans hT) e
    case h_2 => exact h

/-! ### From one cause to the next (R178, R179) -/

/-- The causes that wait behind the primary one, as its resolution finds them. -/
def remaining (h : Hold) : List HeldCause :=
  sortBy (fun x y : HeldCause => decide (x.cause.code < y.cause.code))
    (if h.next = .check then h.secondary else h.secondary.filter (fun c => !c.byCheck))

theorem remaining_of_not_check {h : Hold} (hn : h.next ≠ .check) : remaining h
    = sortBy (fun x y : HeldCause => decide (x.cause.code < y.cause.code)) (h.secondary.filter (fun c => !c.byCheck)) := by
  rw [remaining, if_neg hn]

/-- The state in which a secondary cause has become the primary one, before a removal is tried. -/
def takenUp (s : State) (p : Pos) (h : Hold) : State := (s.setHold p (some h)).showBuild p

section
variable {s : State} {p : Pos} {h : Hold} (hh : s.hold p = some h)
include hh

theorem proceed_leaves (hr : remaining h = []) : s.proceed p = s.leaveHeld p h := by
  unfold remaining at hr
  unfold State.proceed
  rw [hh]
  dsimp only
  rw [hr]

theorem proceed_eq_takenUp {c : HeldCause} {cs : List HeldCause} (hr : remaining h = c :: cs) : s.proceed p
    = (takenUp s p { h with primary := c, secondary := cs, resolving := .none }).tryRemoval p := by
  unfold remaining at hr
  unfold State.proceed
  rw [hh]
  dsimp only
  rw [hr]
  dsimp only [takenUp]

end

/-- The next cause becomes primary; nothing else of the position changes but a removal that starts. -/
theorem proceed_takes {s : State} {p : Pos} {h : Hold} {c : HeldCause} {cs : List HeldCause} (hh : s.hold p = some h)
    (hr : remaining h = c :: cs) : (s.proceed p).build p = s.build p
      ∧ (s.put p ≠ none → (s.proceed p).put p = s.put p)
      ∧ ∃ r, (s.proceed p).hold p = some { h with primary := c, secondary := cs, resolving := r } := by
  have only := (Only.refl _ (takenUp s p { h with primary := c, secondary := cs, resolving := .none })).tryRemoval
    (le_refl (removalT (· = p))) rfl
  have put : (takenUp s p { h with primary := c, secondary := cs, resolving := .none }).put p = s.put p :=
    State.showBuild_put ..
  have hold : (takenUp s p { h with primary := c, secondary := cs, resolving := .none }).hold p
      = some { h with primary := c, secondary := cs, resolving := .none } := by
    rw [takenUp, State.showBuild_hold, State.setHold_hold_same]
  rw [proceed_eq_takenUp hh hr]
  refine ⟨?_, fun busy => Eq.trans (only (.busy p) id (put ▸ busy)) put, (hold_of_causes (only (.causes p) id)).2 _ hold⟩
  rw [tryRemoval_build, takenUp, State.showBuild_build]
  rfl

theorem leaveHeld_gathering {s : State} {p : Pos} {h : Hold} (hn : h.next = .gathering) :
    s.leaveHeld p h = (s.setHold p none).regather p := by
  unfold State.leaveHeld
  rw [hn]

/-- A cause resolved with GATHERING as the next state. -/
theorem resolveToGathering_eq {s : State} {p : Pos} {h : Hold} (hh : s.hold p = some h) : s.resolveToGathering p
    = (s.setHold p (some { h with next := .gathering, resolving := .none })).proceed p := by
  unfold State.resolveToGathering
  rw [hh]

section
variable {s : State} {p : Pos} {h : Hold} (hh : s.hold p = some h)
include hh

/-- A build whose cause is resolved to GATHERING takes up the next cause. -/
theorem resolveToGathering_takes {c : HeldCause} {cs : List HeldCause}
    (hr : sortBy (fun x y : HeldCause => decide (x.cause.code < y.cause.code))
      (h.secondary.filter (fun c => !c.byCheck)) = c :: cs) :
    (s.resolveToGathering p).build p = s.build p
      ∧ ∃ k, (s.resolveToGathering p).hold p = some k ∧ k.primary = c ∧ k.secondary = cs ∧ k.named = h.named
        ∧ k.next = .gathering := by
  rw [resolveToGathering_eq hh]
  obtain ⟨hb, -, r, hk⟩ := proceed_takes (s := s.setHold p (some { h with next := .gathering, resolving := .none }))
    (State.setHold_hold_same ..) ((remaining_of_not_check (show SavedState.gathering ≠ .check by decide)).trans hr)
  exact ⟨hb, _, hk, rfl, rfl, rfl, rfl⟩

/-- With no cause waiting it leaves HELD and regathers. -/
theorem resolveToGathering_leaves (hr : h.secondary.filter (fun c => !c.byCheck) = []) : s.resolveToGathering p
    = ((s.setHold p (some { h with next := .gathering, resolving := .none })).setHold p none).regather p := by
  rw [resolveToGathering_eq hh, proceed_leaves (State.setHold_hold_same ..), leaveHeld_gathering rfl]
  rw [remaining_of_not_check (show SavedState.gathering ≠ .check by decide)]
  exact congrArg (sortBy _) hr

theorem resolveToGathering_gathers (hr : h.secondary.filter (fun c => !c.byCheck) = [])
    (hc : ((s.resolveToGathering p).build p).covered = false) :
    ((s.resolveToGathering p).build p).state = .gathering ∧ (s.resolveToGathering p).hold p = none
      ∧ ((s.resolveToGathering p).build p).plan = [] ∧ (s.resolveToGathering p).put p = s.put p
      ∧ ((s.resolveToGathering p).build p).gatherLeft = some s.jc.setup.gatherLimit := by
  rw [resolveToGathering_leaves hh hr] at hc ⊢
  obtain ⟨state, plan, limit, put, hold⟩ := regather_gathers hc
  exact ⟨state, hold.trans (State.setHold_hold_same _ p none), plan, put, limit⟩

end

end Sys2Proof.Proofs
end


section
/-! REJECT (R80, R175) and RESUME (R174). -/

namespace Sys2Proof.Proofs

open Sys2Proof.Machine

/-! ### A put that is cancelled (R80) -/

/-- The state of a rejected put, before the expiries it held back. -/
def rejectedState (s : State) (p : Pos) (r : PutRec) : State :=
  let t := (s.exclude p r.unit).cancelUnit r
  (match t.su.slotOf r.unit with
    | some i => t.matchUnit i
    | none => t).cancelRecord p r

theorem rejectPut_eq (s : State) (p : Pos) (r : PutRec) : s.rejectPut p r
    = (r.expiries.filter (fun v => decide (v ≠ r.unit))).foldl (State.raiseChill p) (rejectedState s p r) := rfl

theorem Only.cancelUnit {T : Part → Prop} {a s : State} (h : Only T a s) (hpl : panelT ≤ T) (hs : T .slots)
    (hu : T .units) (hf : ∀ R, T (.shelf R)) (he : T .earmarkOrder) (r : PutRec) : Only T a (s.cancelUnit r) := by
  unfold State.cancelUnit
  split
  · exact h
  · split
    · exact h.shelve hpl hs hu hf he _ _
    · exact h

theorem Only.cancelRecord {T : Part → Prop} {a s : State} (h : Only T a s) (hpl : panelT ≤ T) {p : Pos}
    (hl : T (.build .lines p)) (he : T (.build .earmarks p)) (hc : T (.build .covered p)) (hp : T (.put p))
    (hb : T (.busy p)) (hpp : T (.putPending p)) (r : PutRec) : Only T a (s.cancelRecord p r) :=
  ((h.modLine p r.line (fun l => { l with putting := l.putting - 1 }) hl (fun _ _ => rfl) (fun _ _ => rfl) (fun k => absurd he k) fun k => absurd hc k).setPut p none
    hp (fun k => absurd hb k) fun k => absurd hpp k).showTray hpl p

theorem cancelRecord_put (s : State) (p : Pos) (r : PutRec) : (s.cancelRecord p r).put p = none := by
  unfold State.cancelRecord
  rw [State.showTray_put, State.setPut_put_same]

/-- What a put that is cancelled changes while the build is not GATHERING. -/
def cancelT (p : Pos) : Part → Prop
  | .units => True
  | .put q | .busy q | .putPending q => q = p ∨ besideT p (.put q)
  | .build .covered q => q = p
  | x => besideT p x

theorem besideT_le_cancelT (p : Pos) : besideT p ≤ cancelT p := by
  intro x h
  cases x
  case build k q => cases k <;> first | exact h | exact h.elim
  case put => exact .inr h
  case putPending => exact .inr h
  case busy => exact h.elim
  all_goals first | exact h | exact h.elim

theorem panelT_le_cancelT (p : Pos) : panelT ≤ cancelT p := by
  intro x h
  cases x <;> first | exact h | exact h.elim

theorem exclude_state (s : State) (p : Pos) (u : UnitNo) :
    ((s.exclude p u).build p) = { s.build p with exclusion := addExclusion (s.build p).exclusion u } :=
  State.setBuild_build_same ..

/-- A rejected put leaves its build's state, plan and hold as they were. -/
theorem rejectedState_only {s : State} {p : Pos} (hp : (s.build p).state ≠ .gathering) (r : PutRec) :
    Only (cancelT p) (s.exclude p r.unit) (rejectedState s p r) := by
  have cancelled := (Only.refl (cancelT p) (s.exclude p r.unit)).cancelUnit (panelT_le_cancelT p) trivial trivial
    (fun _ => trivial) trivial r
  have state : (((s.exclude p r.unit).cancelUnit r).build p).state ≠ .gathering := by
    have same : (((s.exclude p r.unit).cancelUnit r).build p).state = ((s.exclude p r.unit).build p).state :=
      cancelled (.build .state p) fun h => h rfl
    rwa [same, exclude_state]
  refine Only.cancelRecord ?_ (panelT_le_cancelT p) trivial trivial rfl (.inl rfl) (.inl rfl) (.inl rfl) r
  split
  · exact cancelled.matchUnit_beside (besideT_le_cancelT p) state _
  · exact cancelled

theorem rejectedState_put (s : State) (p : Pos) (r : PutRec) : (rejectedState s p r).put p = none :=
  cancelRecord_put ..

/-! ### REJECT (R80, R175) -/

/-- What the rest of a REJECT changes: neither the exclusion list nor the content list. -/
def restT (p : Pos) : Part → Prop := fun x => x ≠ .build .exclusion p ∧ x ≠ .build .content p

theorem le_restT {T : Part → Prop} {p : Pos} (he : ¬ T (.build .exclusion p)) (hc : ¬ T (.build .content p)) :
    T ≤ restT p := fun x h => ⟨by rintro rfl; exact he h, by rintro rfl; exact hc h⟩

theorem Only.resolveToGathering {T : Part → Prop} {Q : Pos → Prop} {a s : State} (h : Only T a s) (hT : gatherT Q ≤ T)
    {p : Pos} (hp : Q p) : Only T a (s.resolveToGathering p) := by
  have hr : raiseT Q ≤ T := (raiseT_le_worksT Q).trans (((worksT_le_matchT Q).trans (matchT_le_gatherT Q)).trans hT)
  have sets {u : State} (k : Only T a u) (v : Option Hold) : Only T a (u.setHold p v) :=
    k.setHold p v (hr (.hold p) hp) fun n => absurd (hr (.causes p) hp) n
  cases hh : s.hold p with
  | none => rwa [State.resolveToGathering, hh]
  | some k =>
    have hold := State.setHold_hold_same s p (some { k with next := .gathering, resolving := .none })
    rw [resolveToGathering_eq hh]
    cases hm : remaining { k with next := .gathering, resolving := .none } with
    | nil =>
      rw [proceed_leaves hold hm, leaveHeld_gathering rfl]
      exact (sets (sets h _) _).regather hT hp
    | cons c cs =>
      rw [proceed_eq_takenUp hold hm]
      exact ((sets (sets h _) _).showBuild ((panelT_le_raiseT Q).trans hr) p).tryRemoval
        ((removalT_le_raiseT Q).trans hr) hp

theorem rejectedState_rest (s : State) (p : Pos) (r : PutRec) :
    Only (restT p) (s.exclude p r.unit) (rejectedState s p r) := by
  have panel : panelT ≤ restT p := le_restT id id
  refine Only.cancelRecord ?_ panel ⟨nofun, nofun⟩ ⟨nofun, nofun⟩ ⟨nofun, nofun⟩ ⟨nofun, nofun⟩ ⟨nofun, nofun⟩
    ⟨nofun, nofun⟩ r
  have cancelled := (Only.refl (restT p) (s.exclude p r.unit)).cancelUnit panel ⟨nofun, nofun⟩ ⟨nofun, nofun⟩
    (fun _ => ⟨nofun, nofun⟩) ⟨nofun, nofun⟩ r
  split
  · exact cancelled.matchUnit (Q := fun _ => True) (le_restT id id) (fun _ _ _ => trivial) _
  · exact cancelled

theorem rejectPut_rest (s : State) (p : Pos) (r : PutRec) : Only (restT p) (s.exclude p r.unit) (s.rejectPut p r) := by
  have raises : raiseT (fun _ => True) ≤ restT p := le_restT id id
  rw [rejectPut_eq]
  exact Only.foldl (rejectedState_rest s p r) _ (fun _ v k => k.raiseChill raises trivial v) _

theorem rejectPut_lists {s t : State} {p : Pos} {r : PutRec} (h : Only (restT p) (s.rejectPut p r) t) :
    (t.build p).exclusion = addExclusion (s.build p).exclusion r.unit
      ∧ (t.build p).content = (s.build p).content := by
  have only := (rejectPut_rest s p r).trans h
  have exclusion : (t.build p).exclusion = ((s.exclude p r.unit).build p).exclusion :=
    only (.build .exclusion p) fun k => k.1 rfl
  have content : (t.build p).content = ((s.exclude p r.unit).build p).content :=
    only (.build .content p) fun k => k.2 rfl
  rw [exclusion, content, exclude_state]
  exact ⟨rfl, rfl⟩

theorem rejectPut_of_no_expiry {s : State} {p : Pos} {r : PutRec} (h : r.expiries = []) :
    s.rejectPut p r = rejectedState s p r := by
  rw [rejectPut_eq, h]
  rfl

section
variable {s : State} {p : Pos} {r : PutRec}

theorem execReject_putting (shut : s.keysShut p = false) (hr : s.put p = some r) (hk : r.kind = .put)
    (putting : (s.build p).state = .putting) : exec (.reject p) s = finish (s.rejectKey p r) := by
  show execReject p s = _
  simp [execReject, shut, State.keyPut, putting, hr, hk]

theorem execReject_held {h : Hold} (shut : s.keysShut p = false) (hr : s.put p = some r) (hk : r.kind = .put)
    (hh : s.keyHoldOpen p = some h) (accepted : rejectAccepted h.primary.cause h.next = true) :
    exec (.reject p) s = finish ((s.rejectPut p r).resolveToGathering p) := by
  have held := (keyHoldOpen_eq_some_iff.1 hh).1
  show execReject p s = _
  simp [execReject, shut, keyPut_of_held held, hh, accepted, State.rejectHeld, hr, hk]

end

/-- Settles O17. -/
theorem rejectExcludesUnit : Obligations.RejectExcludesUnit := by
  intro p r s shut hr hk state
  obtain putting | ⟨h, hh, accepted⟩ := state
  · have run := execReject_putting shut hr hk putting
    have regathers : s.rejectKey p r = s.rejectPut p r ∨ s.rejectKey p r = (s.rejectPut p r).regather p := by
      unfold State.rejectKey
      dsimp only
      split
      · exact .inr rfl
      · exact .inl rfl
    have rest : Only (restT p) (s.rejectPut p r) (s.rejectKey p r) := by
      obtain e | e := regathers <;> rw [e]
      · exact .refl _ _
      · exact (Only.refl _ _).regather (Q := fun _ => True) (le_restT id id) trivial
    obtain ⟨exclusion, content⟩ := rejectPut_lists rest
    refine ⟨_, run, by rwa [State.flush_build], by rwa [State.flush_build], fun none _ uncovered => ?_, fun h _ hh => ?_⟩
    · have only := rejectedState_only (s := s) (p := p) (by simp [putting]) r
      rw [← rejectPut_of_no_expiry none] at only
      have still : ((s.rejectPut p r).build p).state = .putting := by
        refine Eq.trans (only (.build .state p) fun h => h rfl) ?_
        rwa [exclude_state]
      have e : s.rejectKey p r = (s.rejectPut p r).regather p := if_pos still
      rw [State.flush_build, e] at uncovered
      obtain ⟨state, plan, limit, put, -⟩ := regather_gathers uncovered
      have jc : (s.rejectPut p r).jc = s.jc := only.jc_eq id
      rw [State.flush_build, State.flush_put, e]
      refine ⟨state, plan, put.trans ?_, jc ▸ limit⟩
      rw [rejectPut_of_no_expiry none]
      exact rejectedState_put s p r
    · exact absurd (keyHoldOpen_eq_some_iff.1 hh).1 (by simp [putting])
  · have run := execReject_held shut hr hk hh accepted
    obtain ⟨held, hold, -⟩ := keyHoldOpen_eq_some_iff.1 hh
    have rest : Only (restT p) (s.rejectPut p r) ((s.rejectPut p r).resolveToGathering p) :=
      (Only.refl _ _).resolveToGathering (Q := fun _ => True) (le_restT id id) trivial
    obtain ⟨exclusion, content⟩ := rejectPut_lists rest
    refine ⟨_, run, by rwa [State.flush_build], by rwa [State.flush_build], fun _ putting => ?_, fun h' none hh' => ?_⟩
    · exact absurd (putting.symm.trans held) nofun
    · obtain rfl : h = h' := Option.some.inj (hh.symm.trans hh')
      have only := rejectedState_only (s := s) (p := p) (by simp [held]) r
      rw [← rejectPut_of_no_expiry none] at only
      have hold' : (s.rejectPut p r).hold p = some h := Eq.trans (only (.hold p) fun k => k rfl) hold
      have state : ((s.rejectPut p r).build p).state = .held := by
        refine Eq.trans (only (.build .state p) fun h => h rfl) ?_
        rwa [exclude_state]
      simp only [State.flush_build, State.flush_hold, State.flush_put]
      refine ⟨fun c cs hc => ?_, fun hc uncovered => ?_⟩
      · obtain ⟨hb, k, hk, primary, secondary, -, next⟩ := resolveToGathering_takes hold' hc
        exact ⟨k, by rw [hb, state], hk, primary, secondary, next⟩
      · obtain ⟨state, hold, plan, put, limit⟩ := resolveToGathering_gathers hold' hc uncovered
        have jc : (s.rejectPut p r).jc = s.jc := only.jc_eq id
        refine ⟨state, hold, plan, put.trans ?_, jc ▸ limit⟩
        rw [rejectPut_of_no_expiry none]
        exact rejectedState_put s p r

/-! ### Plans of states that agree (R58) -/

/-- What a plan request reads of a put record. -/
def cargo (r : PutRec) : OpKind × UnitNo × Nat × SizeClass × Nat × Nat × Int :=
  (r.kind, r.unit, r.line, r.size, r.start, r.index, r.refWeight)

theorem plan_eq {s t : State} {p : Pos} (hb : (t.build p).content = (s.build p).content)
    (hs : t.su.slots = s.su.slots) (hi : t.infoOf p = s.infoOf p)
    (hp : (t.put p).map cargo = (s.put p).map cargo) : t.plan p = s.plan p := by
  have units : t.unitsToPlan p = s.unitsToPlan p := by
    unfold State.unitsToPlan
    rw [hs]
  have tray : t.trayOf p = s.trayOf p := by rw [State.trayOf, State.trayOf, hi]
  unfold State.plan State.pendingEntry
  rw [hb, units, tray]
  cases hr : s.put p with
  | none =>
    rw [hr, Option.map_none, Option.map_eq_none_iff] at hp
    rw [hp]
  | some r =>
    rw [hr, Option.map_some] at hp
    obtain ⟨q, hq, e⟩ := Option.map_eq_some_iff.1 hp
    obtain ⟨kind, unit, line, size, start, index, weight⟩ : q.kind = r.kind ∧ q.unit = r.unit ∧ q.line = r.line
        ∧ q.size = r.size ∧ q.start = r.start ∧ q.index = r.index ∧ q.refWeight = r.refWeight := by
      simpa [cargo] using e
    rw [hq]
    dsimp only
    rw [kind, unit, line, size, start, index]
    by_cases put : r.kind = OpKind.put
    · simp only [if_pos put, weight]
    · simp only [if_neg put]

theorem infoOf_eq {s t : State} {p : Pos} (hb : (t.build p).link = (s.build p).link)
    (hn : t.cu.notices = s.cu.notices) : t.infoOf p = s.infoOf p := by
  unfold State.infoOf
  rw [hb]
  cases (s.build p).link with
  | none => rfl
  | some o => simp only [notice?_congr hn]

/-! ### An operation that continues (R88) -/

/-- The put record of an operation that continues, with the baseline of this moment. -/
def resumedPut (base : Option Nat) (r : PutRec) : PutRec :=
  if r.phase = .awaitBase then
    match base with
    | some b => { r with phase := .awaitMove, baseline := some b, failed := false }
    | none => r
  else { r with resuming := true }

theorem cargo_resumedPut (base : Option Nat) (r : PutRec) : cargo (resumedPut base r) = cargo r := by
  unfold resumedPut
  split
  · split <;> rfl
  · rfl

theorem resumedPut_kind (base : Option Nat) (r : PutRec) : (resumedPut base r).kind = r.kind :=
  congrArg Prod.fst (cargo_resumedPut base r)

theorem resumedPut_some {r : PutRec} (h : r.phase = .awaitBase) (b : Nat) : resumedPut (some b) r
    = { r with phase := .awaitMove, baseline := some b, failed := false } := if_pos h

theorem resumedPut_none {r : PutRec} (h : r.phase = .awaitBase) : resumedPut none r = r := if_pos h

theorem resumedPut_on {r : PutRec} (h : r.phase ≠ .awaitBase) (base : Option Nat) :
    resumedPut base r = { r with resuming := true } := if_neg h

theorem resumeOp_put {s : State} {p : Pos} {r : PutRec} (hr : s.put p = some r) :
    (s.resumeOp p).put p = some (resumedPut (s.baseline p) r) := by
  unfold State.resumeOp resumedPut
  rw [hr]
  dsimp only
  split
  · cases s.baseline p with
    | none => exact hr
    | some b => exact State.setPut_put_same ..
  · exact State.setPut_put_same ..

theorem resumeOp_idle {s : State} {p : Pos} (h : s.put p = none) : s.resumeOp p = s := by
  unfold State.resumeOp
  rw [h]

/-- A pending operation that continues changes its put record alone. -/
def resumeT (p : Pos) : Part → Prop
  | .put q | .busy q => q = p
  | _ => False

theorem resumeOp_only (s : State) (p : Pos) : Only (resumeT p) s (s.resumeOp p) :=
  (Only.refl _ s).resumeOp rfl rfl

theorem baseline_none_iff {s : State} {p : Pos} : s.baseline p = none ↔ ∀ g, s.stable p = some g → g < 100 := by
  unfold State.baseline
  cases s.stable p with
  | none => simp
  | some g =>
    dsimp only
    rw [show Config.trayMark = 100 from rfl]
    by_cases h : 100 ≤ g <;> simp [h]
    omega

theorem baseline_eq {s : State} {p : Pos} {g : Nat} (hg : s.stable p = some g) (heavy : 100 ≤ g) :
    s.baseline p = some g := by
  unfold State.baseline
  rw [hg]
  exact if_pos heavy

/-! ### Back to PUTTING (R179) -/

section
variable {s : State} {p : Pos} {r : PutRec} (hn : s.hold p = none) (hr : s.put p = some r)
include hn hr

theorem backToPutting_waits (hk : r.kind = .put) (uncovered : (s.build p).covered = false) :
    (s.backToPutting p).put p = s.put p ∧ ((s.backToPutting p).build p).state = .putting
      ∧ (s.backToPutting p).hold p = none ∧ ((s.backToPutting p).build p).regatherDue = true := by
  have pending : s.putPending p = true := by simp [State.putPending, hr, hk]
  unfold State.backToPutting
  rw [if_neg (by simp [uncovered]), if_pos pending, State.showBuild_put, State.showBuild_build, State.showBuild_hold,
    State.setBuild_build_same]
  exact ⟨rfl, rfl, hn, rfl⟩

theorem backToPutting_plans (covered : (s.build p).covered = true) : (s.backToPutting p).put p = s.put p
    ∧ (∀ es, s.plan p = .ok es → ((s.backToPutting p).build p).state = .putting ∧ (s.backToPutting p).hold p = none
      ∧ ((s.backToPutting p).build p).plan = es)
    ∧ ∀ e, s.plan p = .error e → ((s.backToPutting p).build p).state = .held
      ∧ ∃ h, (s.backToPutting p).hold p = some h ∧ h.primary = ⟨.planFull, false⟩ ∧ h.saved = .gathering := by
  have busy : s.put p ≠ none := by simp [hr]
  unfold State.backToPutting
  rw [if_pos covered]
  cases hp : s.plan p with
  | ok es =>
    have only := enterPutting_pending busy es
    refine ⟨Eq.trans (only (.put p) id) (plannedState_put ..), fun es' e => ?_, fun e h => nomatch h⟩
    obtain rfl := Except.ok.inj e
    have state : ((s.enterPutting p es).build p).state = _ := only (.build .state p) id
    have plan : ((s.enterPutting p es).build p).plan = _ := only (.build .plan p) id
    refine ⟨?_, Eq.trans (only (.hold p) id) ((plannedState_hold ..).trans hn), ?_⟩
    · rw [state, plannedState_build]
    · rw [plan, plannedState_build]
  | error e =>
    refine ⟨?_, fun es h => (nomatch h), fun e' h => ?_⟩
    · have only := Only.raiseAt (T := fun x => x ≠ .busy p)
        (Only.refl _ (s.setBuild p { s.build p with plan := [] })) (Q := (· = p))
        (by rintro x h rfl; exact h) rfl .gathering ((s.setBuild p { s.build p with plan := [] }).standIndex p) [e.cause]
      exact only (.busy p) (fun h => h rfl) busy
    · obtain rfl := Except.error.inj h
      exact planFull_held hn e

end

/-! ### RESUME (R174) -/

/-- The hold record of a cause that a RESUME resolves. -/
def resumedHold (h : Hold) : Hold :=
  if h.primary.byCheck then { h with resumed := h.resumed ++ [h.primary.cause] } else h

theorem resumedHold_keeps (h : Hold) : (resumedHold h).next = h.next ∧ (resumedHold h).secondary = h.secondary
    ∧ (resumedHold h).saved = h.saved := by
  unfold resumedHold
  split <;> exact ⟨rfl, rfl, rfl⟩

theorem remaining_resumedHold (h : Hold) : remaining (resumedHold h) = remaining h := by
  obtain ⟨next, secondary, -⟩ := resumedHold_keeps h
  rw [remaining, remaining, next, secondary]

/-- The state in which a RESUME has acted on the pending operation, its cause still primary. -/
def resumedState (s : State) (p : Pos) (h : Hold) : State :=
  (match s.put p with
    | some r => s.setPut p (some (resumeEffect h.primary.cause r))
    | none => s).setHold p (some (resumedHold h))

theorem resumeKey_eq (s : State) (p : Pos) (h : Hold) : s.resumeKey p h = (resumedState s p h).proceed p := rfl

theorem resumedState_hold (s : State) (p : Pos) (h : Hold) : (resumedState s p h).hold p = some (resumedHold h) :=
  State.setHold_hold_same ..

theorem resumedState_put {s : State} {p : Pos} {r : PutRec} (h : Hold) (hr : s.put p = some r) :
    (resumedState s p h).put p = some (resumeEffect h.primary.cause r) := by
  unfold resumedState
  rw [hr]
  exact State.setPut_put_same ..

/-- What a RESUME does before the next cause: the put record and the hold record of its position. -/
def resumedT (p : Pos) : Part → Prop
  | .put q | .busy q | .putPending q | .hold q | .causes q => q = p
  | _ => False

theorem resumedState_only (s : State) (p : Pos) (h : Hold) : Only (resumedT p) s (resumedState s p h) := by
  refine Only.setHold ?_ p _ rfl fun k => absurd rfl k
  split
  · exact (Only.refl _ s).setPut p _ rfl (fun k => absurd rfl k) fun k => absurd rfl k
  · exact .refl _ s

theorem resumedState_idle {s : State} {p : Pos} {h : Hold} (idle : s.put p = none) :
    resumedState s p h = s.setHold p (some (resumedHold h)) := by
  rw [resumedState, idle]

section
variable {s : State} {p : Pos} {h : Hold}

theorem execResume_accepted (shut : s.keysShut p = false) (hh : s.keyHoldOpen p = some h)
    (accepted : resumeAccepted h.primary.cause h.next = true) : exec (.resume p) s = finish (s.resumeKey p h) := by
  show execResume p s = _
  simp [execResume, shut, hh, accepted]

/-- RESUME with a cause waiting: it becomes primary, and the build stays HELD. -/
theorem resumeKey_takes (held : (s.build p).state = .held) {c : HeldCause} {cs : List HeldCause}
    (hr : remaining h = c :: cs) : ((s.resumeKey p h).build p).state = .held
      ∧ (∀ r, s.put p = some r → (s.resumeKey p h).put p = some (resumeEffect h.primary.cause r))
      ∧ ∃ k, (s.resumeKey p h).hold p = some k ∧ k.primary = c ∧ k.secondary = cs ∧ k.next = h.next
        ∧ k.saved = h.saved ∧ k.resumed = (resumedHold h).resumed := by
  obtain ⟨next, -, saved⟩ := resumedHold_keeps h
  obtain ⟨hb, hp, r, hk⟩ := proceed_takes (resumedState_hold s p h) ((remaining_resumedHold h).trans hr)
  rw [resumeKey_eq, hb]
  refine ⟨?_, fun q hq => ?_, _, hk, rfl, rfl, next, saved, rfl⟩
  · rw [(resumedState_only s p h).build_eq fun _ => id]
    exact held
  · have put := resumedState_put h hq
    rw [hp (by simp [put]), put]

theorem resumeKey_leaves (hr : remaining h = []) :
    s.resumeKey p h = (resumedState s p h).leaveHeld p (resumedHold h) := by
  rw [resumeKey_eq, proceed_leaves (resumedState_hold s p h) ((remaining_resumedHold h).trans hr)]

theorem remaining_nil (hn : h.next ≠ .check) (hr : h.secondary.filter (fun c => !c.byCheck) = []) : remaining h = [] := by
  rw [remaining_of_not_check hn, hr]
  rfl

end

/-- The state in which a build has left HELD, its pending operation continued. -/
def unheldState (s : State) (p : Pos) (h : Hold) : State := ((resumedState s p h).setHold p none).resumeOp p

theorem unheldState_hold (s : State) (p : Pos) (h : Hold) : (unheldState s p h).hold p = none :=
  Eq.trans (resumeOp_only _ p (.hold p) id) (State.setHold_hold_same ..)

/-- A build that has left HELD differs from before in its put and hold records alone. -/
theorem unheldState_only (s : State) (p : Pos) (h : Hold) : Only (resumedT p) s (unheldState s p h) := by
  refine Only.trans ((resumedState_only s p h).setHold p none rfl fun k => absurd rfl k) ((resumeOp_only _ p).mono ?_)
  intro x hx
  cases x <;> first | exact hx | exact hx.elim

theorem unheldState_put {s : State} {p : Pos} {r : PutRec} (h : Hold) (hr : s.put p = some r) :
    (unheldState s p h).put p = some (resumedPut (s.baseline p) (resumeEffect h.primary.cause r)) := by
  have put : ((resumedState s p h).setHold p none).put p = some (resumeEffect h.primary.cause r) :=
    resumedState_put h hr
  have base : ((resumedState s p h).setHold p none).baseline p = s.baseline p := by
    have wf : ((resumedState s p h).setHold p none).wf = s.wf := (resumedState_only s p h).wf_eq id
    rw [State.baseline, State.stable, wf]
    rfl
  rw [unheldState, resumeOp_put put, base]

theorem resumeKey_putting {s : State} {p : Pos} {h : Hold} (hn : h.next = .putting) (hr : remaining h = []) :
    s.resumeKey p h = ((unheldState s p h).backToPutting p).showTray p := by
  rw [resumeKey_leaves hr, State.leaveHeld, (resumedHold_keeps h).1, hn]
  rfl

theorem unheldState_plan {s : State} {p : Pos} {r : PutRec} {h : Hold} (hr : s.put p = some r)
    (hc : cargo (resumeEffect h.primary.cause r) = cargo r) : (unheldState s p h).plan p = s.plan p := by
  have only := unheldState_only s p h
  refine plan_eq (only (.build .content p) id) (only .slots id)
    (infoOf_eq (only (.build .link p) id) (only .notices id)) ?_
  rw [unheldState_put h hr, hr, Option.map_some, Option.map_some, cargo_resumedPut, hc]

/-- RESUME into PUTTING of a build with a put pending: the put continues, and the build plans again, or waits for the
put's end. -/
theorem resumeKey_continues {s : State} {p : Pos} {r : PutRec} {h : Hold} (hr : s.put p = some r) (hk : r.kind = .put)
    (hn : h.next = .putting) (hm : remaining h = []) (hc : cargo (resumeEffect h.primary.cause r) = cargo r) :
    (s.resumeKey p h).put p = some (resumedPut (s.baseline p) (resumeEffect h.primary.cause r))
      ∧ ((s.build p).covered = false → ((s.resumeKey p h).build p).state = .putting ∧ (s.resumeKey p h).hold p = none
        ∧ ((s.resumeKey p h).build p).regatherDue = true)
      ∧ ((s.build p).covered = true →
        (∀ es, s.plan p = .ok es → ((s.resumeKey p h).build p).state = .putting ∧ (s.resumeKey p h).hold p = none
          ∧ ((s.resumeKey p h).build p).plan = es)
        ∧ ∀ e, s.plan p = .error e → ∃ k, ((s.resumeKey p h).build p).state = .held ∧ (s.resumeKey p h).hold p = some k
          ∧ k.primary = ⟨.planFull, false⟩ ∧ k.saved = .gathering) := by
  have put := unheldState_put h hr
  have hold := unheldState_hold s p h
  have build : (unheldState s p h).build p = s.build p := (unheldState_only s p h).build_eq fun _ => id
  have plan := unheldState_plan hr hc
  have kind : (resumedPut (s.baseline p) (resumeEffect h.primary.cause r)).kind = .put := by
    rw [resumedPut_kind]
    exact (congrArg Prod.fst hc).trans hk
  rw [resumeKey_putting hn hm]
  simp only [State.showTray_put, State.showTray_build, State.showTray_hold]
  rw [← put, ← plan, ← build]
  by_cases covered : ((unheldState s p h).build p).covered = true
  · obtain ⟨keeps, found, fails⟩ := backToPutting_plans hold put covered
    refine ⟨keeps, fun k => absurd (k.symm.trans covered) nofun, fun _ => ⟨found, fun e he => ?_⟩⟩
    obtain ⟨state, k, hk, primary, saved⟩ := fails e he
    exact ⟨k, state, hk, primary, saved⟩
  · obtain ⟨keeps, state, hold, due⟩ := backToPutting_waits hold put kind (Bool.not_eq_true _ ▸ covered)
    exact ⟨keeps, fun _ => ⟨state, hold, due⟩, fun k => absurd k covered⟩

theorem setHold_setHold (s : State) (p : Pos) (x y : Option Hold) : (s.setHold p x).setHold p y = s.setHold p y := by
  unfold State.setHold
  cases p <;> rfl

/-- RESUME with no put pending leaves HELD with nothing changed but the hold record. -/
theorem unheldState_idle {s : State} {p : Pos} (h : Hold) (idle : s.put p = none) :
    unheldState s p h = s.setHold p none := by
  rw [unheldState, resumedState_idle idle, setHold_setHold]
  exact resumeOp_idle idle

theorem resumeKey_gathering {s : State} {p : Pos} {h : Hold} (hn : h.next = .gathering) (hr : remaining h = []) :
    s.resumeKey p h = ((resumedState s p h).setHold p none).regather p := by
  rw [resumeKey_leaves hr, leaveHeld_gathering ((resumedHold_keeps h).1.trans hn)]

theorem resumeKey_gathers {s : State} {p : Pos} {h : Hold} (hn : h.next = .gathering) (hr : remaining h = [])
    (uncovered : ((s.resumeKey p h).build p).covered = false) : ((s.resumeKey p h).build p).state = .gathering
      ∧ (s.resumeKey p h).hold p = none
      ∧ ((s.resumeKey p h).build p).gatherLeft = some s.jc.setup.gatherLimit := by
  rw [resumeKey_gathering hn hr] at uncovered ⊢
  obtain ⟨state, -, limit, -, hold⟩ := regather_gathers uncovered
  have jc : (resumedState s p h).jc = s.jc := (resumedState_only s p h).jc_eq id
  exact ⟨state, hold.trans (State.setHold_hold_same ..), jc ▸ limit⟩

/-- RESUME into UNLOADING keeps the pending removal. -/
theorem resumeKey_unloads {s : State} {p : Pos} {h : Hold} (hn : h.next = .unloading) (hr : remaining h = [])
    (placed : (s.build p).content ≠ []) (busy : s.put p ≠ none) : ((s.resumeKey p h).build p).state = .unloading
      ∧ (s.resumeKey p h).hold p = none ∧ ((s.resumeKey p h).build p).content = (s.build p).content
      ∧ (s.resumeKey p h).put p ≠ none := by
  obtain ⟨r, hput⟩ := Option.ne_none_iff_exists'.1 busy
  have build : (resumedState s p h).build p = s.build p := (resumedState_only s p h).build_eq fun _ => id
  have put : (((resumedState s p h).setHold p none).setBuild p { s.build p with state := .unloading }).put p
      = some (resumeEffect h.primary.cause r) := resumedState_put h hput
  have only := resumeOp_only (((resumedState s p h).setHold p none).setBuild p { s.build p with state := .unloading }) p
  have unloading : ((((resumedState s p h).setHold p none).setBuild p { s.build p with state := .unloading }).resumeOp
      p).build p = { s.build p with state := .unloading } :=
    Eq.trans (only.build_eq fun _ => id) (State.setBuild_build_same ..)
  have content : ((((resumedState s p h).setHold p none).setBuild p { s.build p with state := .unloading }).resumeOp
      p |>.showBuild p |>.showTray p).build p = { s.build p with state := .unloading } := by
    rw [State.showTray_build, State.showBuild_build, unloading]
  have pending : ((((resumedState s p h).setHold p none).setBuild p { s.build p with state := .unloading }).resumeOp
      p |>.showBuild p |>.showTray p).put p ≠ none := by
    rw [State.showTray_put, State.showBuild_put, resumeOp_put put]
    nofun
  have stays : s.resumeKey p h = ((((resumedState s p h).setHold p none).setBuild p
      { s.build p with state := .unloading }).resumeOp p |>.showBuild p |>.showTray p) := by
    rw [resumeKey_leaves hr, State.leaveHeld, (resumedHold_keeps h).1, hn]
    dsimp only
    rw [show ((resumedState s p h).setHold p none).build p = s.build p from build, State.unloadOn, content,
      if_neg (by simpa using placed), if_pos (Option.isSome_iff_ne_none.2 pending)]
  rw [stays]
  refine ⟨by rw [content], ?_, by rw [content], pending⟩
  rw [State.showTray_hold, State.showBuild_hold]
  exact Eq.trans (only (.hold p) id) (State.setHold_hold_same ..)

/-- RESUME of a cause of a check, with nothing else waiting, runs the check again. -/
theorem resumeKey_checks {s : State} {p : Pos} {h : Hold} (hn : h.next = .check) (byCheck : h.primary.byCheck = true)
    (idle : s.put p = none) (hr : remaining h = []) : s.resumeKey p h
      = ((s.setHold p none).setBuild p { s.build p with state := .putting }).runCheck p
          (h.resumed ++ [h.primary.cause]) := by
  rw [resumeKey_leaves hr, resumedState_idle idle, State.leaveHeld, (resumedHold_keeps h).1, hn]
  dsimp only
  rw [setHold_setHold, resumedHold, if_pos byCheck]
  rfl

/-! ### RESUME into PUTTING with no put pending -/

theorem plan_unheld (s : State) (p : Pos) : (s.setHold p none).plan p = s.plan p := plan_eq rfl rfl rfl rfl

section
variable {s : State} {p : Pos} {h : Hold} (idle : s.put p = none) (hn : h.next = .putting) (hr : remaining h = [])
include idle hn hr

theorem resumeKey_back : s.resumeKey p h = ((s.setHold p none).backToPutting p).showTray p := by
  rw [resumeKey_putting hn hr, unheldState_idle h idle]

/-- With a line uncovered the build regathers. -/
theorem resumeKey_regathers (uncovered : (s.build p).covered = false)
    (still : ((s.resumeKey p h).build p).covered = false) : ((s.resumeKey p h).build p).state = .gathering
      ∧ (s.resumeKey p h).hold p = none ∧ ((s.resumeKey p h).build p).plan = [] ∧ (s.resumeKey p h).put p = none
      ∧ ((s.resumeKey p h).build p).gatherLeft = some s.jc.setup.gatherLimit := by
  have regathers : (s.setHold p none).backToPutting p = (s.setHold p none).regather p := by
    have pending : (s.setHold p none).putPending p = false := by
      show s.putPending p = false
      rw [State.putPending, idle]
    unfold State.backToPutting
    rw [if_neg, if_neg (by simp [pending])]
    exact fun k => by simp [show (s.build p).covered = true from k] at uncovered
  rw [resumeKey_back idle hn hr, regathers] at still ⊢
  rw [State.showTray_build] at still
  rw [State.showTray_build, State.showTray_hold, State.showTray_put]
  obtain ⟨state, plan, limit, put, hold⟩ := regather_gathers still
  exact ⟨state, hold.trans (State.setHold_hold_same ..), plan, put.trans idle, limit⟩

theorem resumeKey_plans (covered : (s.build p).covered = true) {es : List PlanEntry} (hp : s.plan p = .ok es) :
    s.resumeKey p h = ((s.setHold p none).enterPutting p es).showTray p := by
  rw [resumeKey_back idle hn hr, State.backToPutting, if_pos (by exact covered), plan_unheld, hp]

theorem resumeKey_planFull (covered : (s.build p).covered = true) {e : PlanFail} (hp : s.plan p = .error e) :
    s.resumeKey p h = ((s.setHold p none).planFull p e).showTray p := by
  rw [resumeKey_back idle hn hr, State.backToPutting, if_pos (by exact covered), plan_unheld, hp]

end

/-- With every line covered and the tare taken, the first put of the new plan starts. -/
theorem enterPutting_starts {s : State} {p : Pos} (ht : (s.build p).tare ≠ none) (idle : s.put p = none)
    (going : s.hc.stopped = false) {e : PlanEntry} {es : List PlanEntry} {i k : Nat} {u : UnitRec}
    (hi : s.su.slotOf e.unit = some i) (hs : s.su.slot i = .occupied u (.earmarked p k)) :
    ((s.enterPutting p (e :: es)).build p).state = .putting ∧ (s.enterPutting p (e :: es)).hold p = s.hold p
      ∧ ((s.enterPutting p (e :: es)).build p).plan = e :: es
      ∧ (s.enterPutting p (e :: es)).su.slot i = .occupied u (.putting p k)
      ∧ (s.enterPutting p (e :: es)).put p = some (putRecord u e (s.baseline p)) := by
  have planned := plannedState_build s p (e :: es)
  have su : (plannedState s p (e :: es)).su = s.su := State.showBuild_su ..
  have base : (plannedState s p (e :: es)).baseline p = s.baseline p := by
    rw [State.baseline, State.stable, plannedState, State.showBuild_wf]
    rfl
  have stopped : (plannedState s p (e :: es)).hc.stopped = false := by
    rw [plannedState, State.showBuild_hc]
    exact going
  have starts : s.enterPutting p (e :: es) = (plannedState s p (e :: es)).startPut p e := by
    rw [enterPutting_tared ht, nextPut_starts (readyToPut_planned ht idle _) (by rw [planned]) stopped]
  obtain ⟨put, slot⟩ := startPut_starts (s := plannedState s p (e :: es)) (su ▸ hi) (su ▸ hs)
  have only := startPut_only (s := plannedState s p (e :: es)) (p := p) (by rw [plannedState_put, idle]) e
  have state : (((plannedState s p (e :: es)).startPut p e).build p).state = _ := only (.build .state p) id
  have plan : (((plannedState s p (e :: es)).startPut p e).build p).plan = _ := only (.build .plan p) id
  rw [starts]
  exact ⟨by rw [state, planned], Eq.trans (only (.hold p) id) (plannedState_hold ..), by rw [plan, planned], slot, base ▸ put⟩

/-- Settles O18. -/
theorem resumeTakesUpNextCause : Obligations.ResumeTakesUpNextCause := by
  intro p h s shut hh
  obtain ⟨held, -, -⟩ := keyHoldOpen_eq_some_iff.1 hh
  have run := execResume_accepted shut hh
  refine ⟨fun r hr hk cause next => ?_, fun accepted none => ⟨fun next => ?_, fun next placed busy => ?_⟩,
    fun accepted next idle byCheck => ⟨fun c cs hc => ?_, fun none => ?_⟩, fun r hr hk faulted cause next => ?_,
    fun cause next idle => ?_⟩
  · have accepted : resumeAccepted h.primary.cause h.next = true := by
      obtain cause | cause | cause := cause <;> rw [cause, next] <;> rfl
    have effect : resumeEffect h.primary.cause r = { r with
        phase := .awaitBase, baseline := none, settledDelta := none, confirmMark := false,
        limitLeft := 90, resuming := false, failed := false } := by
      have restart : r.restart = { r with
          phase := .awaitBase, baseline := none, settledDelta := none, confirmMark := false,
          limitLeft := 90, resuming := false, failed := false } := by
        unfold PutRec.restart
        rw [if_pos hk]
        rfl
      obtain cause | cause | cause := cause <;> rw [cause, ← restart] <;> rfl
    have toPutting : h.next ≠ .check := by simp [next]
    refine ⟨fun c cs hc => ?_, fun none => ?_⟩
    · obtain ⟨state, put, k, hk, primary, secondary, knext, saved, -⟩ :=
        resumeKey_takes held ((remaining_of_not_check toPutting).trans hc)
      refine ⟨_, k, run accepted, ?_, ?_, primary, secondary, knext.trans next, saved, ?_⟩
      · rwa [State.flush_build]
      · rwa [State.flush_hold]
      · rw [State.flush_put, put r hr, effect]
    · obtain ⟨put, waits, plans⟩ := resumeKey_continues hr hk next (remaining_nil toPutting none) (by rw [effect]; rfl)
      refine ⟨_, run accepted, ?_, ?_, ?_⟩
      · rw [State.flush_put, put, effect]
        cases hb : s.baseline p with
        | none => rfl
        | some b => rfl
      · simpa only [State.flush_build, State.flush_hold] using waits
      · simpa only [State.flush_build, State.flush_hold] using plans
  · refine ⟨_, run accepted, fun uncovered => ?_⟩
    rw [State.flush_build] at uncovered ⊢
    rw [State.flush_hold]
    exact resumeKey_gathers next (remaining_nil (by simp [next]) none) uncovered
  · obtain ⟨state, hold, content, put⟩ := resumeKey_unloads next (remaining_nil (by simp [next]) none) placed
      (Option.isSome_iff_ne_none.1 busy)
    refine ⟨_, run accepted, ?_, ?_, ?_, ?_⟩
    · rwa [State.flush_build]
    · rwa [State.flush_hold]
    · rwa [State.flush_build]
    · rw [State.flush_put]
      exact Option.isSome_iff_ne_none.2 put
  · have all : remaining h = c :: cs := by rw [remaining, if_pos next, hc]
    obtain ⟨state, -, k, hk, primary, secondary, knext, -, resumed⟩ := resumeKey_takes held all
    refine ⟨_, k, run accepted, ?_, ?_, primary, secondary, knext.trans next, ?_⟩
    · rwa [State.flush_build]
    · rwa [State.flush_hold]
    · rw [resumed, resumedHold, if_pos byCheck]
  · have all : remaining h = [] := by
      rw [remaining, if_pos next, none]
      rfl
    refine ⟨_, run accepted, ?_⟩
    rw [resumeKey_checks next byCheck idle all]
    exact flush_setPl_eq _ _
  · have accepted : resumeAccepted h.primary.cause h.next = true := by rw [cause, next]; rfl
    have effect : resumeEffect h.primary.cause r = { r with phase := r.before } := by
      rw [cause]
      exact if_pos faulted
    have toPutting : h.next ≠ .check := by simp [next]
    refine ⟨fun c cs hc => ?_, fun none => ?_⟩
    · obtain ⟨state, put, k, hk, primary, secondary, knext, -, -⟩ :=
        resumeKey_takes held ((remaining_of_not_check toPutting).trans hc)
      refine ⟨_, k, run accepted, ?_, ?_, primary, secondary, knext.trans next, ?_⟩
      · rwa [State.flush_build]
      · rwa [State.flush_hold]
      · rw [State.flush_put, put r hr, effect]
    · obtain ⟨put, waits, plans⟩ := resumeKey_continues hr hk next (remaining_nil toPutting none) (by rw [effect]; rfl)
      rw [effect] at put
      refine ⟨_, run accepted, fun on => ?_, fun base => ⟨fun g hg heavy => ?_, fun light => ?_⟩, ?_, ?_⟩
      · rw [State.flush_put, put, resumedPut_on on]
      · rw [State.flush_put, put, baseline_eq hg heavy, resumedPut_some base]
      · rw [State.flush_put, put, baseline_none_iff.2 light, resumedPut_none base, base]
      · simpa only [State.flush_build, State.flush_hold] using waits
      · simpa only [State.flush_build, State.flush_hold] using plans
  · have accepted : resumeAccepted h.primary.cause h.next = true := by
      rw [next]
      simp only [List.mem_cons, List.not_mem_nil, or_false] at cause
      obtain cause | cause | cause := cause <;> rw [cause] <;> rfl
    have toPutting : h.next ≠ .check := by simp [next]
    refine ⟨fun c cs hc => ?_, fun none => ?_⟩
    · obtain ⟨state, -, k, hk, primary, secondary, knext, -, -⟩ :=
        resumeKey_takes held ((remaining_of_not_check toPutting).trans hc)
      refine ⟨_, k, run accepted, ?_, ?_, primary, secondary, knext.trans next⟩
      · rwa [State.flush_build]
      · rwa [State.flush_hold]
    · have all := remaining_nil toPutting none
      refine ⟨_, run accepted, fun uncovered still => ?_, fun covered => ⟨fun e es i u k hp tare hi hs => ?_,
        fun hp tare => ?_, fun e hp => ?_⟩⟩
      · simp only [State.flush_build, State.flush_hold, State.flush_put] at still ⊢
        exact resumeKey_regathers idle next all uncovered still
      · obtain ⟨state, hold, plan, slot, put⟩ := enterPutting_starts (s := s.setHold p Option.none) (es := es) tare idle
          (going_of_not_shut shut) hi hs
        rw [resumeKey_plans idle next all covered hp]
        simp only [State.flush_build, State.flush_hold, State.flush_put, State.flush_su, State.showTray_build,
          State.showTray_hold, State.showTray_put, State.showTray_su]
        exact ⟨state, hold.trans (State.setHold_hold_same ..), plan, slot, put⟩
      · have ready := readyToPut_planned (s := s.setHold p Option.none) tare idle []
        have checks : (s.setHold p Option.none).enterPutting p []
            = (plannedState (s.setHold p Option.none) p []).runCheck p [] := by
          have starts := enterPutting_tared (s := s.setHold p Option.none) (p := p) tare []
          rw [starts, nextPut_checks ready (by rw [plannedState_build]) ?_]
          rw [plannedState_build]
          exact covered
        have tray : (s.build p).tare.isNone = false := Option.isNone_eq_false_iff.2 (Option.isSome_iff_ne_none.2 tare)
        refine ⟨plannedState (s.setHold p Option.none) p [], ?_, ?_⟩
        · obtain ⟨v, e⟩ := State.showBuild_only_pl ((s.setHold p Option.none).setBuild p { s.build p with
            state := .putting, plan := [], trayWanted := (s.build p).tare.isNone, regatherDue := false }) p
          refine (congrArg (State.setPl · s.pl) e).trans ?_
          rw [tray]
          rfl
        · obtain ⟨v, e⟩ := State.showTray_only_pl ((s.setHold p Option.none).enterPutting p []) p
          rw [resumeKey_plans idle next all covered hp]
          rw [flush_setPl_eq, e, checks]
          rfl
      · obtain ⟨state, k, hk, primary, saved⟩ := planFull_held (s := s.setHold p Option.none) (p := p)
          (State.setHold_hold_same ..) e
        rw [resumeKey_planFull idle next all covered hp]
        simp only [State.flush_build, State.flush_hold, State.flush_put, State.showTray_build, State.showTray_hold,
          State.showTray_put]
        exact ⟨k, state, hk, primary, saved, (planFull_put (State.setHold_hold_same ..) e).trans idle⟩

end Sys2Proof.Proofs
end


section
/-! The Tray Planner (R53 to R62). -/

namespace Sys2Proof.Proofs

open Sys2Proof.Machine

/-! ### Cells (R53, R54) -/

theorem cellMask_eq (z : SizeClass) (c : Nat) : cellMask z c = List.range' c z.length := by cases z <;> rfl

theorem length_pos (z : SizeClass) : 0 < z.length := by cases z <;> decide

theorem mem_cellMask {z : SizeClass} {c x : Nat} : x ∈ cellMask z c ↔ c ≤ x ∧ x < c + z.length := by
  rw [cellMask_eq, List.mem_range'_1]

theorem mask_below (z : SizeClass) (c k : Nat) :
    (cellMask z c).all (fun x => decide (x < k)) = true ↔ c + z.length ≤ k := by
  have pos := length_pos z
  simp only [List.all_eq_true, mem_cellMask, decide_eq_true_eq]
  refine ⟨fun h => ?_, fun h x hx => by omega⟩
  have last := h (c + z.length - 1) (by omega)
  omega

theorem mask_above (z : SizeClass) (c k : Nat) :
    (cellMask z c).all (fun x => decide (k ≤ x)) = true ↔ k ≤ c := by
  have pos := length_pos z
  simp only [List.all_eq_true, mem_cellMask, decide_eq_true_eq]
  exact ⟨fun h => h c (by omega), fun h x hx => by omega⟩

theorem table_eq {t : TrayType} {cells lower pocket limit : Nat} (h : t.table = (cells, lower, pocket, limit)) :
    cells = t.cells ∧ lower = t.lower ∧ pocket = t.pocket ∧ limit = t.limit := by
  cases t <;> cases h <;> exact ⟨rfl, rfl, rfl, rfl⟩

theorem cells_le (t : TrayType) : t.cells ≤ 8 := by cases t <;> decide

/-- The placements that are permitted (R55, R57). -/
theorem permitted_iff (t : TrayType) (u : PlanUnit) (c : Nat) : permitted t u c = true ↔
    c % u.size.length = 0 ∧ c + u.size.length ≤ t.cells ∧ (c + u.size.length ≤ t.lower ∨ t.lower ≤ c)
      ∧ (u.handling = .chilled → c + u.size.length ≤ t.pocket) ∧ (u.handling = .fragile → t.lower ≤ c)
      ∧ (1500 < u.weight → c + u.size.length ≤ t.lower) := by
  have place : (match u.handling with
      | .chilled => (cellMask u.size c).all (fun x => decide (x < t.pocket))
      | .fragile => (cellMask u.size c).all (fun x => decide (t.lower ≤ x))
      | .ambient => true) = true
      ↔ (u.handling = .chilled → c + u.size.length ≤ t.pocket) ∧ (u.handling = .fragile → t.lower ≤ c) := by
    cases u.handling <;> simp [-List.all_eq_true, mask_below, mask_above]
  have heavy : (!u.heavy || (cellMask u.size c).all (fun x => decide (x < t.lower))) = true
      ↔ (1500 < u.weight → c + u.size.length ≤ t.lower) := by
    rw [Bool.or_eq_true, mask_below, PlanUnit.heavy, ← not_imp_not]
    simp only [Bool.not_eq_true', decide_eq_false_iff_not, show Config.heavyAbove = 1500 from rfl]
    omega
  have layer : fitsLayer t u.size c = true ↔ c % u.size.length = 0 ∧ c + u.size.length ≤ t.cells
      ∧ (c + u.size.length ≤ t.lower ∨ t.lower ≤ c) := by
    simp only [fitsLayer, Bool.and_eq_true, Bool.or_eq_true, mask_below, mask_above, decide_eq_true_eq, and_assoc]
  unfold permitted
  dsimp only
  rw [Bool.and_eq_true, Bool.and_eq_true, layer, heavy]
  exact ⟨fun ⟨⟨⟨a, b, l⟩, p⟩, h⟩ => ⟨a, b, l, (place.1 p).1, (place.1 p).2, h⟩,
    fun ⟨a, b, l, p, q, h⟩ => ⟨⟨⟨a, b, l⟩, place.2 ⟨p, q⟩⟩, h⟩⟩

theorem lt_of_permitted {t : TrayType} {u : PlanUnit} {c : Nat} (h : permitted t u c = true) : c < 8 := by
  obtain ⟨-, inside, -⟩ := (permitted_iff t u c).1 h
  have pos := length_pos u.size
  have cells := cells_le t
  omega

/-! ### The lowest fit (R61) -/

theorem lowestFit_some {t : TrayType} {occupied : List Nat} {u : PlanUnit} {c : Nat}
    (h : lowestFit t occupied u = some c) : permitted t u c = true ∧ (∀ x ∈ cellMask u.size c, x ∉ occupied)
      ∧ ∀ d, d < c → permitted t u d = true → ∃ x ∈ cellMask u.size d, x ∈ occupied := by
  obtain ⟨fits, -, lowest⟩ := List.find?_range_eq_some.1 h
  obtain ⟨perm, free⟩ := Bool.and_eq_true_iff.1 fits
  refine ⟨perm, by simpa using free, fun d hd hp => ?_⟩
  have := lowest d hd
  simpa [hp] using this

theorem lowestFit_none {t : TrayType} {occupied : List Nat} {u : PlanUnit} (h : lowestFit t occupied u = none) (d : Nat)
    (hp : permitted t u d = true) : ∃ x ∈ cellMask u.size d, x ∈ occupied := by
  have := List.find?_range_eq_none.1 h d (lt_of_permitted hp)
  simpa [hp] using this

/-! ### Placement of all units in order (R61) -/

theorem placeAll_cons_ok {t : TrayType} {occupied : List Nat} {u : PlanUnit} {us : List PlanUnit} {fs : List Fitted}
    (h : placeAll t occupied (u :: us) = .ok fs) : ∃ c gs, lowestFit t occupied u = some c
      ∧ placeAll t (cellMask u.size c ++ occupied) us = .ok gs ∧ fs = ⟨u, c⟩ :: gs := by
  rw [placeAll] at h
  split at h
  case h_1 => cases h
  case h_2 c hc =>
    split at h
    case h_1 => cases h
    case h_2 gs hg => exact ⟨c, gs, hc, hg, (Except.ok.inj h).symm⟩

theorem placeAll_cons_error {t : TrayType} {occupied : List Nat} {u : PlanUnit} {us : List PlanUnit} {e : PlanFail}
    (h : placeAll t occupied (u :: us) = .error e) : (lowestFit t occupied u = none ∧ e = .place u.unit)
      ∨ ∃ c, lowestFit t occupied u = some c ∧ placeAll t (cellMask u.size c ++ occupied) us = .error e := by
  rw [placeAll] at h
  split at h
  case h_1 hc => exact .inl ⟨hc, (Except.error.inj h).symm⟩
  case h_2 c hc =>
    split at h
    case h_1 e' he => exact .inr ⟨c, hc, Except.error.inj h ▸ he⟩
    case h_2 => cases h

theorem placeAll_cons_of {t : TrayType} {occupied : List Nat} {u : PlanUnit} {us : List PlanUnit} {c : Nat}
    {gs : List Fitted} (hc : lowestFit t occupied u = some c)
    (hg : placeAll t (cellMask u.size c ++ occupied) us = .ok gs) :
    placeAll t occupied (u :: us) = .ok (⟨u, c⟩ :: gs) := by
  rw [placeAll, hc]
  dsimp only
  rw [hg]

theorem placeAll_units {t : TrayType} {occupied : List Nat} {us : List PlanUnit} {fs : List Fitted}
    (h : placeAll t occupied us = .ok fs) : fs.map (·.unit) = us := by
  induction us generalizing occupied fs with
  | nil => cases h; rfl
  | cons u us ih =>
    obtain ⟨c, gs, -, hg, rfl⟩ := placeAll_cons_ok h
    rw [List.map_cons, ih hg]

theorem placeAll_permitted {t : TrayType} {occupied : List Nat} {us : List PlanUnit} {fs : List Fitted}
    (h : placeAll t occupied us = .ok fs) : ∀ f ∈ fs, permitted t f.unit f.start = true := by
  induction us generalizing occupied fs with
  | nil => cases h; nofun
  | cons u us ih =>
    obtain ⟨c, gs, hc, hg, rfl⟩ := placeAll_cons_ok h
    exact List.forall_mem_cons.2 ⟨(lowestFit_some hc).1, ih hg⟩

theorem placeAll_free {t : TrayType} {occupied : List Nat} {us : List PlanUnit} {fs : List Fitted}
    (h : placeAll t occupied us = .ok fs) : ∀ f ∈ fs, ∀ c ∈ cellMask f.unit.size f.start, c ∉ occupied := by
  induction us generalizing occupied fs with
  | nil => cases h; nofun
  | cons u us ih =>
    obtain ⟨c, gs, hc, hg, rfl⟩ := placeAll_cons_ok h
    refine List.forall_mem_cons.2 ⟨(lowestFit_some hc).2.1, fun g hmem x hx hocc => ?_⟩
    exact ih hg g hmem x hx (List.mem_append_right _ hocc)

theorem placeAll_apart {t : TrayType} {occupied : List Nat} {us : List PlanUnit} {fs : List Fitted}
    (h : placeAll t occupied us = .ok fs) :
    fs.Pairwise (fun f g => ∀ c ∈ cellMask f.unit.size f.start, c ∉ cellMask g.unit.size g.start) := by
  induction us generalizing occupied fs with
  | nil => cases h; exact .nil
  | cons u us ih =>
    obtain ⟨c, gs, hc, hg, rfl⟩ := placeAll_cons_ok h
    refine List.pairwise_cons.2 ⟨fun g hmem x hx hgx => ?_, ih hg⟩
    exact placeAll_free hg g hmem x hgx (List.mem_append_left _ hx)

theorem placeAll_lowest {t : TrayType} {occupied : List Nat} {us : List PlanUnit} {xs : List Fitted} {f : Fitted}
    {ys : List Fitted} (h : placeAll t occupied us = .ok (xs ++ f :: ys)) (d : Nat) (hd : d < f.start)
    (hp : permitted t f.unit d = true) :
    ∃ x ∈ cellMask f.unit.size d, x ∈ occupied ∨ ∃ g ∈ xs, x ∈ cellMask g.unit.size g.start := by
  induction us generalizing occupied xs with
  | nil => cases xs <;> cases h
  | cons u us ih =>
    obtain ⟨c, gs, hc, hg, e⟩ := placeAll_cons_ok h
    cases xs with
    | nil =>
      obtain ⟨rfl, rfl⟩ := List.cons.inj e
      obtain ⟨x, hx, ho⟩ := (lowestFit_some hc).2.2 d hd hp
      exact ⟨x, hx, .inl ho⟩
    | cons k xs =>
      obtain ⟨rfl, rfl⟩ := List.cons.inj e
      obtain ⟨x, hx, ho | ⟨g, hgm, hgx⟩⟩ := ih hg
      · obtain ho | ho := List.mem_append.1 ho
        · exact ⟨x, hx, .inr ⟨_, List.mem_cons_self, ho⟩⟩
        · exact ⟨x, hx, .inl ho⟩
      · exact ⟨x, hx, .inr ⟨g, List.mem_cons_of_mem _ hgm, hgx⟩⟩

theorem placeAll_fails {t : TrayType} {occupied : List Nat} {us : List PlanUnit} {e : PlanFail}
    (h : placeAll t occupied us = .error e) : ∃ xs u ys fs, us = xs ++ u :: ys ∧ e = .place u.unit
      ∧ placeAll t occupied xs = .ok fs ∧ ∀ c, permitted t u c = true → ∃ x ∈ cellMask u.size c,
        x ∈ occupied ∨ ∃ g ∈ fs, x ∈ cellMask g.unit.size g.start := by
  induction us generalizing occupied with
  | nil => cases h
  | cons u us ih =>
    obtain ⟨hc, rfl⟩ | ⟨c, hc, he⟩ := placeAll_cons_error h
    · refine ⟨[], u, us, [], rfl, rfl, rfl, fun d hp => ?_⟩
      obtain ⟨x, hx, ho⟩ := lowestFit_none hc d hp
      exact ⟨x, hx, .inl ho⟩
    · obtain ⟨xs, v, ys, fs, rfl, rfl, hok, hv⟩ := ih he
      refine ⟨u :: xs, v, ys, ⟨u, c⟩ :: fs, rfl, rfl, placeAll_cons_of hc hok, fun d hp => ?_⟩
      obtain ⟨x, hx, ho | ⟨g, hgm, hgx⟩⟩ := hv d hp
      · obtain ho | ho := List.mem_append.1 ho
        · exact ⟨x, hx, .inr ⟨_, List.mem_cons_self, ho⟩⟩
        · exact ⟨x, hx, .inl ho⟩
      · exact ⟨x, hx, .inr ⟨g, List.mem_cons_of_mem _ hgm, hgx⟩⟩

/-! ### Plan order (R60) -/

theorem planBefore_iff (x y : PlanUnit) : planBefore x y = true ↔ x.keys < y.keys := by
  have keys (u : PlanUnit) : u.keys = [u.group, u.size.rank, u.line, u.unit.toNat] := by
    unfold PlanUnit.keys PlanUnit.group PlanUnit.heavy SizeClass.rank
    cases u.handling <;> cases u.size <;> simp [show Config.heavyAbove = 1500 from rfl]
  rw [keys, keys]
  simp only [List.cons_lt_cons_iff, List.not_lt_nil, and_false, or_false]
  unfold planBefore
  split
  case isTrue h => simp [h]
  case isFalse h =>
    rw [not_not] at h
    split
    case isTrue h' => simp [h, h']
    case isFalse h' =>
      rw [not_not] at h'
      split
      case isTrue h'' => simp [h, h', h'']
      case isFalse h'' =>
        rw [not_not] at h''
        simp [h, h', h'']

/-- Units in strictly rising plan order are in plan order. -/
theorem sortBy_planBefore {us vs : List PlanUnit} (h : us.Perm vs) (hv : vs.Pairwise (fun x y => x.keys < y.keys)) :
    sortBy planBefore us = vs := by
  have sorted : (sortBy planBefore us).Pairwise (fun x y => x.keys ≤ y.keys) := by
    refine sortBy_pairwise (R := fun x y : PlanUnit => x.keys ≤ y.keys) (fun _ _ _ => le_trans) (fun x y hb => ((planBefore_iff x y).1 hb).le) (fun x y hb => ?_) us
    rw [← Bool.not_eq_true, planBefore_iff, not_lt] at hb
    exact hb
  have perm : (sortBy planBefore us).Perm vs := (sortBy_perm planBefore us).trans h
  refine perm.eq_of_pairwise (fun x y hx hy hxy hyx => ?_) sorted (hv.imp le_of_lt)
  have same : x.keys = y.keys := le_antisymm hxy hyx
  have apart : (vs.map PlanUnit.keys).Nodup := List.pairwise_map.2 (hv.imp ne_of_lt)
  exact List.inj_on_of_nodup_map apart (perm.mem_iff.1 hx) hy same

/-! ### The plan request (R58 to R62) -/

theorem planEntries_fields (n : Nat) (fs : List Fitted) :
    (planEntries n fs).map (fun e => (e.unit, e.line, e.size, e.start))
      = fs.map (fun f => (f.unit.unit, f.unit.line, f.unit.size, f.start)) := by
  induction fs generalizing n with
  | nil => rfl
  | cons f fs ih => rw [planEntries, List.map_cons, List.map_cons, ih]

theorem planEntries_index (n : Nat) (fs : List Fitted) :
    (planEntries n fs).map (·.index) = List.range' n fs.length := by
  induction fs generalizing n with
  | nil => rfl
  | cons f fs ih => rw [planEntries, List.map_cons, ih, List.length_cons, List.range'_succ]

theorem length_putOrder (t : TrayType) (fs : List Fitted) : (putOrder t fs).length = fs.length := by
  unfold putOrder
  rw [List.length_append, ← List.countP_eq_length_filter, ← List.countP_eq_length_filter]
  have whole := List.length_eq_countP_add_countP (fun f : Fitted => decide (f.start < t.lower)) (l := fs)
  simpa using whole.symm

section
variable {t : TrayType} {w : Int} {occupied : List Nat} {k : Nat} {us : List PlanUnit}

theorem planRequest_heavy (h : (t.limit : Int) < w + (us.map (·.weight)).sum) :
    planRequest t w occupied k us = .error (.weight (w + (us.map (·.weight)).sum)) := by
  unfold planRequest
  exact if_pos h

theorem planRequest_error (h : ¬ (t.limit : Int) < w + (us.map (·.weight)).sum) {e : PlanFail}
    (he : placeAll t occupied (sortBy planBefore us) = .error e) : planRequest t w occupied k us = .error e := by
  unfold planRequest
  dsimp only
  rw [if_neg h, he]

theorem planRequest_ok (h : ¬ (t.limit : Int) < w + (us.map (·.weight)).sum) {fs : List Fitted}
    (hf : placeAll t occupied (sortBy planBefore us) = .ok fs) :
    planRequest t w occupied k us = .ok (planEntries k (putOrder t fs)) := by
  unfold planRequest
  dsimp only
  rw [if_neg h, hf]

/-- The entries of a plan that is found are as many as the units. -/
theorem planRequest_length {es : List PlanEntry} (h : planRequest t w occupied k us = .ok es) :
    es.length = us.length := by
  by_cases heavy : (t.limit : Int) < w + (us.map (·.weight)).sum
  · rw [planRequest_heavy heavy] at h
    cases h
  · cases hp : placeAll t occupied (sortBy planBefore us) with
    | error e =>
      rw [planRequest_error heavy hp] at h
      cases h
    | ok fs =>
      rw [planRequest_ok heavy hp] at h
      obtain rfl := Except.ok.inj h
      have index := congrArg List.length (planEntries_index k (putOrder t fs))
      rw [List.length_map, List.length_range', length_putOrder] at index
      have units := congrArg List.length (placeAll_units hp)
      rw [List.length_map, (sortBy_perm planBefore us).length_eq] at units
      rw [index, units]

/-- A unit that no cell of the tray takes makes every plan fail. -/
theorem planRequest_unplaceable {u : PlanUnit} (hu : u ∈ us) (h : ∀ c, permitted t u c = false) :
    ∃ e, planRequest t w occupied k us = .error e := by
  by_cases heavy : (t.limit : Int) < w + (us.map (·.weight)).sum
  · exact ⟨_, planRequest_heavy heavy⟩
  · cases hp : placeAll t occupied (sortBy planBefore us) with
    | error e => exact ⟨e, planRequest_error heavy hp⟩
    | ok fs =>
      have here : u ∈ fs.map (·.unit) := by
        rw [placeAll_units hp]
        exact (sortBy_perm planBefore us).mem_iff.2 hu
      obtain ⟨f, hf, rfl⟩ := List.mem_map.1 here
      have := placeAll_permitted hp f hf
      simp [h] at this

end

/-! ### The plan of a build (R58) -/

theorem mem_unitsToPlan {s : State} {p : Pos} {v : PlanUnit} : v ∈ s.unitsToPlan p ↔
    ∃ j u l, s.su.slot j = .occupied u (.earmarked p l)
      ∧ v = ⟨u.number, l, u.label.handling, u.label.size, u.label.weight⟩ := by
  rw [State.unitsToPlan, List.mem_filterMap]
  constructor
  · rintro ⟨x, hx, hv⟩
    obtain ⟨j, hj⟩ := List.mem_iff_getElem?.1 hx
    split at hv
    case h_1 u q l =>
      split at hv
      case isTrue e =>
        obtain rfl := Option.some.inj hv
        exact ⟨j, u, l, by rw [Stock.slot, hj, e]; rfl, rfl⟩
      case isFalse => cases hv
    case h_2 => cases hv
  · rintro ⟨j, u, l, hj, rfl⟩
    refine ⟨.occupied u (.earmarked p l), List.mem_of_getElem? (i := j) ?_, ?_⟩
    · have here := occupied_lt hj
      rw [Stock.slot, List.getElem?_eq_getElem here, Option.getD_some] at hj
      rw [List.getElem?_eq_getElem here, hj]
    · simp

theorem plan_idle {s : State} {p : Pos} (h : s.putPending p = false) : s.plan p
    = planRequest (s.trayOf p) ((s.build p).content.map (·.weight)).sum
        ((s.build p).content.map (fun x => cellMask x.unit.label.size x.start)).flatten
        ((s.build p).content.length + 1) (s.unitsToPlan p) := by
  have entry : s.pendingEntry p = none := by
    unfold State.putPending at h
    unfold State.pendingEntry
    cases hp : s.put p with
    | none => rfl
    | some r =>
      rw [hp] at h
      exact if_neg (of_decide_eq_false h)
  unfold State.plan
  rw [entry]
  cases s.put p <;> rfl

theorem plan_pending {s : State} {p : Pos} {r : PutRec} (hr : s.put p = some r) (hk : r.kind = .put) : s.plan p
    = (planRequest (s.trayOf p) (((s.build p).content.map (·.weight)).sum + r.refWeight) (cellMask r.size r.start
        ++ ((s.build p).content.map (fun x => cellMask x.unit.label.size x.start)).flatten)
        ((s.build p).content.length + 2) (s.unitsToPlan p)).map (⟨r.unit, r.line, r.size, r.start, r.index⟩ :: ·) := by
  have entry : s.pendingEntry p = some ⟨r.unit, r.line, r.size, r.start, r.index⟩ := by
    unfold State.pendingEntry
    rw [hr]
    exact if_pos hk
  unfold State.plan
  rw [hr, entry]

/-- Settles O29. -/
theorem planPlacesPermitted : Obligations.PlanPlacesPermitted := by
  refine ⟨fun t occupied us fs h => ⟨placeAll_units h, placeAll_permitted h, placeAll_free h, placeAll_apart h⟩,
    fun t w occupied n us u hu h => planRequest_unplaceable hu h, fun t u c cells lower pocket limit n ht hn => ?_,
    fun t occupied us => ⟨fun xs f ys h => placeAll_lowest h, fun e h => placeAll_fails h⟩,
    fun t w sum occupied k cells lower pocket limit us vs ht hsum => ?_,
    fun p w cells i s hi hw hcells => ⟨fun v => mem_unitsToPlan, fun idle => ?_, fun r hr hk => ?_⟩⟩
  · obtain ⟨rfl, rfl, rfl, rfl⟩ := table_eq ht
    obtain rfl : n = u.size.length := by
      rw [hn]
      cases u.size <;> rfl
    exact ⟨rfl, cellMask_eq _ c, permitted_iff t u c⟩
  · obtain ⟨rfl, rfl, rfl, rfl⟩ := table_eq ht
    subst hsum
    refine ⟨planRequest_heavy, fun light perm order => ?_⟩
    rw [← sortBy_planBefore perm order]
    refine ⟨fun e => planRequest_error (not_lt.2 light), fun fs hf => ⟨_, planRequest_ok (not_lt.2 light) hf, ?_, ?_⟩⟩
    · rw [planEntries_fields]
      rfl
    · rw [planEntries_index, length_putOrder]
  · rw [plan_idle idle, hw, hcells, State.trayOf, hi]
  · rw [plan_pending hr hk, hw, hcells, State.trayOf, hi]

end Sys2Proof.Proofs
end


section
/-! Matching of units that come back to the shelf (R34), the ends of removals (R86), and ABANDON (R180). -/

namespace Sys2Proof.Proofs

open Sys2Proof.Machine

/-! ### A build that takes up a unit runs no check -/

/-- What matching changes: what `matchT` names but for the bench line and the valuations. -/
def quietT (Q : Pos → Prop) : Part → Prop
  | .queue | .cuWaiting | .absent _ | .val _ => False
  | x => matchT Q x

theorem startT_le_quietT {Q : Pos → Prop} {p : Pos} (hp : Q p) : startT p ≤ quietT Q := by
  intro x h
  cases x
  case build k q =>
    cases k
    case lines => exact h ▸ hp
    case earmarks => exact h ▸ hp
    all_goals exact h.elim
  case put => exact h ▸ hp
  case putPending => exact h ▸ hp
  case shelf R => exact fun k => h (k p hp)
  all_goals first | exact h | exact h.elim

theorem tareT_le_quietT {Q : Pos → Prop} {p : Pos} (hp : Q p) : tareT p ≤ quietT Q := by
  intro x h
  cases x
  case build k q =>
    cases k
    case tare => exact h ▸ hp
    case trayWanted => exact h ▸ hp
    all_goals exact h.elim
  all_goals first | exact h | exact h.elim

theorem raiseT_le_quietT (Q : Pos → Prop) : raiseT Q ≤ quietT Q := by
  intro x h
  cases x
  case build k q => cases k <;> first | exact h | exact h.elim
  all_goals first | exact h | exact h.elim

theorem fillT_le_quietT (Q : Pos → Prop) : fillT Q ≤ quietT Q := by
  intro x h
  cases x
  case build k q => cases k <;> first | exact h | exact h.elim
  all_goals first | exact h | exact trivial | exact h.elim

theorem panelT_le_quietT (Q : Pos → Prop) : panelT ≤ quietT Q := (panelT_le_raiseT Q).trans (raiseT_le_quietT Q)

/-- With a plan that holds a unit the next put starts, or waits: no check runs. -/
theorem nextPut_quiet {s : State} {p : Pos} (h : (s.build p).plan ≠ []) : Only (startT p) s (s.nextPut p) := by
  unfold State.nextPut
  dsimp only
  split
  case isFalse => exact .refl _ s
  case isTrue ready =>
    split
    case h_1 none => exact absurd none h
    case h_2 e es _ =>
      split
      · refine (Only.refl _ s).showBuild ?_ p
        intro x hx
        cases x <;> first | exact hx | exact hx.elim
      · exact startPut_only (Option.isNone_iff_eq_none.1 ready.2.2.2.2) e

/-- What the tare of a planned build and its first put change. -/
def tareStartT (p : Pos) : Part → Prop := fun x => tareT p x ∨ startT p x

theorem takeTare_quiet {s : State} {p : Pos} (h : (s.build p).plan ≠ []) : Only (tareStartT p) s (s.takeTare p) := by
  unfold State.takeTare
  split
  · split
    case h_1 r _ =>
      refine Only.trans (t := (s.setBuild p { s.build p with tare := some r, trayWanted := false }).showBuild p) ?_
        ((nextPut_quiet ?_).mono fun x hx => .inr hx)
      · refine ((Only.refl _ s).setBuild p _ fun k hk => ?_).showBuild ?_ p
        · have same := BuildPart.Same.refl (s.build p) k
          cases k
          case tare => exact absurd (.inl rfl) hk
          case trayWanted => exact absurd (.inl rfl) hk
          all_goals exact same
        · intro x hx
          cases x <;> first | exact .inl hx | exact hx.elim
      · rw [State.showBuild_build, State.setBuild_build_same]
        exact h
    case h_2 => exact .refl _ s
  · exact .refl _ s

theorem Only.enterPutting_quiet {Q : Pos → Prop} {a s : State} (h : Only (quietT Q) a s) {p : Pos} (hp : Q p)
    {plan : List PlanEntry} (hn : plan ≠ []) : Only (quietT Q) a (s.enterPutting p plan) := by
  have planned : Only (quietT Q) a (plannedState s p plan) := by
    refine (h.setBuild p _ fun k hk => ?_).showBuild (panelT_le_quietT Q) p
    have same := BuildPart.Same.refl (s.build p) k
    cases k
    case state => exact absurd hp hk
    case plan => exact absurd hp hk
    case trayWanted => exact absurd hp hk
    case regatherDue => exact absurd hp hk
    all_goals exact same
  have has : ((plannedState s p plan).build p).plan ≠ [] := by
    rw [plannedState_build]
    exact hn
  have tared := takeTare_quiet has
  have still : (((plannedState s p plan).takeTare p).build p).plan ≠ [] := by
    have same : (((plannedState s p plan).takeTare p).build p).plan = ((plannedState s p plan).build p).plan :=
      tared (.build .plan p) fun k => k.elim id id
    rwa [same]
  rw [enterPutting_eq]
  refine planned.trans ((tared.mono fun x hx => ?_).trans ((nextPut_quiet still).mono (startT_le_quietT hp)))
  exact hx.elim (tareT_le_quietT hp x) (startT_le_quietT hp x)

/-- A plan for a unit EARMARKED for the build has an entry. -/
theorem plan_ne_nil {s : State} {p : Pos} {i l : Nat} {u : UnitRec} (hs : s.su.slot i = .occupied u (.earmarked p l))
    {es : List PlanEntry} (h : s.plan p = .ok es) : es ≠ [] := by
  have some : s.unitsToPlan p ≠ [] := List.ne_nil_of_mem (mem_unitsToPlan.2 ⟨i, u, l, hs, rfl⟩)
  have positive : 0 < (s.unitsToPlan p).length := List.length_pos_iff.2 some
  cases hp : s.putPending p with
  | false =>
    rw [plan_idle hp] at h
    have := planRequest_length h
    exact List.length_pos_iff.1 (by omega)
  | true =>
    have pending : ∃ r, s.put p = .some r ∧ r.kind = .put := by
      unfold State.putPending at hp
      cases hr : s.put p with
      | none => simp [hr] at hp
      | some r => exact ⟨r, rfl, by simpa [hr] using hp⟩
    obtain ⟨r, hr, hk⟩ := pending
    rw [plan_pending hr hk] at h
    cases hq : planRequest (s.trayOf p) (((s.build p).content.map (·.weight)).sum + r.refWeight) (cellMask r.size r.start
        ++ ((s.build p).content.map (fun x => cellMask x.unit.label.size x.start)).flatten)
        ((s.build p).content.length + 2) (s.unitsToPlan p) with
    | error e =>
      rw [hq] at h
      cases h
    | ok fs =>
      rw [hq] at h
      obtain rfl := Except.ok.inj h
      nofun

theorem Only.planFull_quiet {Q : Pos → Prop} {a s : State} (h : Only (quietT Q) a s) {p : Pos} (hp : Q p)
    (e : PlanFail) : Only (quietT Q) a (s.planFull p e) := by
  refine Only.raiseAt ?_ (raiseT_le_quietT Q) hp _ _ _
  refine h.setBuild p _ fun k hk => ?_
  have same := BuildPart.Same.refl (s.build p) k
  cases k
  case plan => exact absurd hp hk
  all_goals exact same

theorem earmark_slot {s : State} {i age : Nat} {u : UnitRec} (hs : s.su.slot i = .occupied u (.free age)) (r : LineRef)
    (j : Nat) : (s.earmark i r).su.slot j = if j = i then .occupied u (.earmarked r.p r.line) else s.su.slot j := by
  have here := occupied_lt hs
  unfold State.earmark
  rw [hs]
  dsimp only
  refine (slot_set s.su i j _).trans ?_
  by_cases h : j = i <;> simp [h, here]

/-- The line that takes a FREE unit up, with the plan and the put that follow. -/
theorem Only.takeUnit_quiet {Q : Pos → Prop} {a s : State} (h : Only (quietT Q) a s) {i age : Nat} {u : UnitRec}
    (hs : s.su.slot i = .occupied u (.free age)) {r : LineRef} (hr : Q r.p) :
    Only (quietT Q) a (s.takeUnit i r) := by
  have taken : Only (quietT Q) a (s.earmark i r) := h.earmark (fillT_le_quietT Q) i hr
  have here : (s.earmark i r).su.slot i = .occupied u (.earmarked r.p r.line) := by
    rw [earmark_slot hs, if_pos rfl]
  unfold State.takeUnit State.coverage
  split
  · split
    case h_1 es hp => exact taken.enterPutting_quiet hr (plan_ne_nil here hp)
    case h_2 e _ => exact taken.planFull_quiet hr e
  · exact taken

theorem Only.matchUnit_quiet {Q : Pos → Prop} {a s : State} (h : Only (quietT Q) a s)
    (hQ : ∀ q, (s.build q).claimOrder ≠ none → (s.build q).eligible = true → Q q) (i : Nat) :
    Only (quietT Q) a (s.matchUnit i) := by
  unfold State.matchUnit
  split
  case h_1 => exact h
  case h_2 u hu =>
    obtain ⟨age, hs⟩ := freeUnit_eq_some.1 hu
    split
    case h_1 r hr =>
      obtain ⟨hm, hl⟩ := And.intro (List.find?_some hr) (List.mem_of_find?_eq_some hr)
      rw [Bool.and_eq_true] at hm
      exact h.takeUnit_quiet hs (hQ _ (mem_byClaimOrder (mem_allLines hl).1) hm.1)
    case h_2 => exact h

/-- Units are matched to other positions where a position's build cannot take them. -/
theorem matchUnit_elsewhere {s : State} {p : Pos} (hp : (s.build p).eligible = false) (i : Nat) :
    Only (quietT (· ≠ p)) s (s.matchUnit i) :=
  (Only.refl _ s).matchUnit_quiet (fun q _ he e => by simp [e ▸ he] at hp) i

theorem quietT_build {p : Pos} (k : BuildPart) : ¬ quietT (· ≠ p) (.build k p) := by
  cases k <;> first | exact fun h => h rfl | exact id

theorem matchUnits_elsewhere {s : State} {p : Pos} (hp : (s.build p).eligible = false) (is : List Nat) :
    Only (quietT (· ≠ p)) s (s.matchUnits is) := by
  induction is generalizing s with
  | nil => exact .refl _ s
  | cons i is ih =>
    have first := matchUnit_elsewhere hp i
    have same : (s.matchUnit i).build p = s.build p := first.build_eq quietT_build
    exact first.trans (ih (same ▸ hp))

/-! ### A unit that is handed back to its slot (R14) -/

/-- What a unit that comes back to the shelf changes: its slot, and what matching it to positions of `Q` changes. -/
def backT (Q : Pos → Prop) : Part → Prop
  | .units | .shelf _ => True
  | x => quietT Q x

theorem quietT_le_backT (Q : Pos → Prop) : quietT Q ≤ backT Q := by
  intro x h
  cases x <;> first | exact h | trivial

theorem panelT_le_backT (Q : Pos → Prop) : panelT ≤ backT Q := (panelT_le_quietT Q).trans (quietT_le_backT Q)

theorem shelve_only (s : State) (i : Nat) (u : UnitRec) (Q : Pos → Prop) : Only (backT Q) s (s.shelve i u) :=
  (Only.refl _ s).shelve (panelT_le_backT Q) trivial trivial (fun _ => trivial) trivial i u

theorem shelve_build (s : State) (i : Nat) (u : UnitRec) (q : Pos) : (s.shelve i u).build q = s.build q :=
  (shelve_only s i u (fun _ => False)).build_eq fun k => by cases k <;> exact id

theorem shelve_slot (s : State) (i j : Nat) (u : UnitRec) : (s.shelve i u).su.slot j
    = if j = i ∧ i < s.su.slots.length then
        if s.overLimit u then .occupied { u with expired := true } .returned else .occupied u (.free 0)
      else s.su.slot j := by
  unfold State.shelve
  dsimp only
  show ((State.showShelf _).su).slot j = _
  rw [State.showShelf_su]
  exact slot_set s.su i j _

theorem handBack_only {s : State} {p : Pos} {u : UnitRec} {Q : Pos → Prop}
    (hQ : ∀ q, (s.build q).claimOrder ≠ none → (s.build q).eligible = true → Q q) :
    Only (backT Q) s (s.handBack p u) := by
  unfold State.handBack
  split
  case h_1 i _ =>
    refine (shelve_only s i u Q).trans (((Only.refl _ _).matchUnit_quiet (fun q ho he => ?_) i).mono (quietT_le_backT Q))
    rw [shelve_build] at ho he
    exact hQ q ho he
  case h_2 => exact .refl _ s

theorem handBack_all (s : State) (p : Pos) (u : UnitRec) : Only (backT (fun _ => True)) s (s.handBack p u) :=
  handBack_only fun _ _ _ => trivial

theorem handBack_elsewhere {s : State} {p : Pos} (hp : (s.build p).eligible = false) (u : UnitRec) :
    Only (backT (· ≠ p)) s (s.handBack p u) :=
  handBack_only fun q _ he e => by simp [e ▸ he] at hp

theorem backT_build {p : Pos} (k : BuildPart) : ¬ backT (· ≠ p) (.build k p) := quietT_build k

/-- The unit that is handed back is in its reserved slot. -/
theorem handBack_unit {s : State} {p : Pos} {i : Nat} (hi : s.su.reservedSlot p = some i) (u : UnitRec) :
    ((s.handBack p u).su.slot i).unit?.map (·.number) = some u.number := by
  have here : i < s.su.slots.length := (slot_of_findIdx hi).1
  have matched : (((s.shelve i u).matchUnit i).su.slot i).unit? = ((s.shelve i u).su.slot i).unit? :=
    (Only.refl _ (s.shelve i u)).matchUnit_quiet (Q := fun _ => True) (fun _ _ _ => trivial) i .units id i
  unfold State.handBack
  rw [hi]
  dsimp only
  rw [matched, shelve_slot, if_pos ⟨rfl, here⟩]
  split <;> rfl

/-- A unit EARMARKED for the position stays so. -/
theorem handBack_earmarked {s : State} {p : Pos} (hp : (s.build p).eligible = false) {i l : Nat} {v : UnitRec}
    (hs : s.su.slot i = .occupied v (.earmarked p l)) (u : UnitRec) :
    (s.handBack p u).su.slot i = .occupied v (.earmarked p l) := by
  unfold State.handBack
  split
  case h_2 => exact hs
  case h_1 j hj =>
    have other : ¬ i = j := by
      rintro rfl
      rw [slot_of_reservedSlot hj] at hs
      cases hs
    have kept : (s.shelve j u).su.slot i = .occupied v (.earmarked p l) := by
      rw [shelve_slot, if_neg fun k => other k.1, hs]
    have step := matchUnit_elsewhere (s := s.shelve j u) (p := p) (by rwa [shelve_build]) j (.shelf (· ≠ p))
      (fun k => k fun _ => id) i
    rw [kept] at step
    obtain e | ⟨w, age, q, k, e, -⟩ | ⟨w, q, k, e, hq, -⟩ | ⟨e, -⟩ := step
    · exact e
    · simp at e
    · simp only [Slot.occupied.injEq, ShelfState.earmarked.injEq] at e
      exact absurd e.2.1.symm hq
    · simp [Slot.unit?] at e

/-! ### A unit that is taken out of its tray (R86) -/

/-- What taking a unit out changes. -/
def takeOutT (p : Pos) : Part → Prop
  | .pl => True
  | .put q | .busy q | .putPending q => q = p
  | .build .content q | .build .lines q | .build .counts q | .build .covered q => q = p
  | _ => False

theorem takeOut_only (s : State) (p : Pos) (r : PutRec) : Only (takeOutT p) s (s.takeOut p r) := by
  have taken : Only (takeOutT p) s (s.setBuild p { s.build p with
      content := (s.build p).content.filter (fun x => decide (x.unit.number ≠ r.unit)) }) := by
    refine (Only.refl _ s).setBuild p _ fun k hk => ?_
    have same := BuildPart.Same.refl (s.build p) k
    cases k
    case content => exact absurd rfl hk
    all_goals exact same
  have panel : panelT ≤ takeOutT p := by
    intro x h
    cases x <;> first | exact h | exact h.elim
  exact ((taken.modLine p r.line (fun l => { l with placed := l.placed - 1 }) rfl (fun _ _ => rfl)
    (fun k => absurd rfl k) (fun _ _ => rfl) fun k => absurd rfl k).setPut p none rfl (fun k => absurd rfl k)
    fun k => absurd rfl k).showTray panel p

theorem takeOut_content (s : State) (p : Pos) (r : PutRec) : ((s.takeOut p r).build p).content
    = (s.build p).content.filter (fun x => decide (x.unit.number ≠ r.unit)) := by
  unfold State.takeOut
  rw [State.showTray_build]
  show (((s.setBuild p _).modLine p r.line _).build p).content = _
  rw [State.modLine, State.setBuild_build_same, State.setBuild_build_same]

theorem takeOut_put (s : State) (p : Pos) (r : PutRec) : (s.takeOut p r).put p = none := by
  unfold State.takeOut
  rw [State.showTray_put, State.setPut_put_same]

theorem takeOut_eligible {s : State} {p : Pos} (h : (s.build p).state = .held ∨ (s.build p).state = .unloading)
    (r : PutRec) : ((s.takeOut p r).build p).eligible = false := by
  have state : ((s.takeOut p r).build p).state = (s.build p).state := takeOut_only s p r (.build .state p) id
  rw [Build.eligible, state]
  obtain h | h := h <;> rw [h]

/-! ### Unloading goes on (R49) -/

theorem enterEmpty_unit (s : State) (p : Pos) (i : Nat) :
    ((s.enterEmpty p).su.slot i).unit? = (s.su.slot i).unit? := by
  have settled : ((s.enterEmpty p).su.slot i).unit? = ((clearedState s p).su.slot i).unit? :=
    settle_only s p .units id i
  have cleared : (clearedState s p).su.slot i = ((s.unlinkBuild p).freeEarmarks p).su.slot i := rfl
  rw [settled, cleared]
  obtain ⟨freed, stands⟩ := freeEarmarks_slot (s.unlinkBuild p) p i
  rw [← unlinkBuild_slots s p]
  by_cases h : ∃ u l, (s.unlinkBuild p).su.slot i = .occupied u (.earmarked p l)
  · obtain ⟨u, l, h⟩ := h
    rw [freed u l h, h]
    rfl
  · rw [stands fun u l e => h ⟨u, l, e⟩]

/-- The end of an unloading, by the order it has and its reason. -/
theorem endUnloading_cases (s : State) (p : Pos) : ((s.build p).link = none ∧ s.endUnloading p = s.enterEmpty p)
    ∨ ∃ o, (s.build p).link = some o
      ∧ ((s.build p).unloadReason = some .silent → s.endUnloading p = (s.removeNotice o).enterEmpty p)
      ∧ ((s.build p).unloadReason ≠ some .silent → s.endUnloading p = (s.releaseOrder o).enterEmpty p) := by
  unfold State.endUnloading
  cases (s.build p).link with
  | none => exact .inl ⟨rfl, rfl⟩
  | some o =>
    refine .inr ⟨o, rfl, fun h => by rw [h], fun h => ?_⟩
    cases hr : (s.build p).unloadReason with
    | none => rfl
    | some reason =>
      cases reason with
      | silent => exact absurd hr h
      | release => rfl

theorem endUnloading_enters (s : State) (p : Pos) :
    ∃ t : State, t.su = s.su ∧ s.endUnloading p = t.enterEmpty p := by
  obtain ⟨-, e⟩ | ⟨o, -, silent, gives⟩ := endUnloading_cases s p
  · exact ⟨s, rfl, e⟩
  · by_cases h : (s.build p).unloadReason = some .silent
    · exact ⟨s.removeNotice o, rfl, silent h⟩
    · refine ⟨s.releaseOrder o, ?_, gives h⟩
      exact ((Only.refl _ s).releaseOrder (le_refl _) o).su_eq (by simp [releaseT])

theorem unloadOn_ends {s : State} {p : Pos} (h : (s.build p).content = []) : s.unloadOn p = s.endUnloading p := by
  unfold State.unloadOn
  rw [if_pos (by simp [h])]

/-- A build with a unit placed goes on unloading: its slot is asked for, or its removal is pending. -/
theorem unloadOn_only {s : State} {p : Pos} (h : (s.build p).content ≠ []) :
    Only (giveT (· = p)) s (s.unloadOn p) := by
  unfold State.unloadOn
  rw [if_neg (by simp [h])]
  split
  · exact .refl _ s
  · exact ((Only.refl _ s).requestSlot (le_refl _) p).tryRemoval (removalT_le_giveT _) rfl

theorem unloadOn_content (s : State) (p : Pos) : ((s.unloadOn p).build p).content = (s.build p).content := by
  by_cases h : (s.build p).content = []
  · obtain ⟨t, -, e⟩ := endUnloading_enters s p
    rw [unloadOn_ends h, e, enterEmpty_content, h]
  · exact unloadOn_only h (.build .content p) id

theorem unloadOn_unit (s : State) (p : Pos) (i : Nat) :
    ((s.unloadOn p).su.slot i).unit? = (s.su.slot i).unit? := by
  by_cases h : (s.build p).content = []
  · obtain ⟨t, su, e⟩ := endUnloading_enters s p
    rw [unloadOn_ends h, e, enterEmpty_unit, su]
  · exact unloadOn_only h .units id i

/-! ### Verified removals (R86) -/

/-- The state of a verified UNDO removal, its cause not yet resolved. -/
def undoneState (s : State) (p : Pos) (r : PutRec) (x : Placed) : State :=
  let u := (s.takeOut p r).exclude p r.unit
  (match u.hold p with
    | some h => u.setHold p (some (h.dropNamed r.unit))
    | none => u).handBack p x.unit

section
variable {s : State} {p : Pos} {r : PutRec} {x : Placed}
  (hx : (s.build p).content.find? (fun y => decide (y.unit.number = r.unit)) = some x)
include hx

theorem verifyRemoval_unload : s.verifyRemoval p r .unload
    = (((s.takeOut p r).handBack p x.unit).showBuild p).unloadOn p := by
  unfold State.verifyRemoval
  rw [hx]

theorem verifyRemoval_undo : s.verifyRemoval p r .undo = (undoneState s p r x).resolveToGathering p := by
  unfold State.verifyRemoval
  rw [hx]
  rfl

theorem verifyRemoval_chill_none (hh : s.hold p = none) : s.verifyRemoval p r .chill = s.takeOut p r := by
  have hold : (s.takeOut p r).hold p = none := Eq.trans (takeOut_only s p r (.hold p) id) hh
  unfold State.verifyRemoval
  rw [hx]
  dsimp only
  rw [hold]

theorem verifyRemoval_chill {h : Hold} (hh : s.hold p = some h) : s.verifyRemoval p r .chill
    = if (h.dropNamed r.unit).named.isEmpty
      then ((s.takeOut p r).setHold p (some (h.dropNamed r.unit))).resolveToGathering p
      else ((s.takeOut p r).setHold p (some (h.dropNamed r.unit))).tryRemoval p := by
  have hold : (s.takeOut p r).hold p = some h := Eq.trans (takeOut_only s p r (.hold p) id) hh
  unfold State.verifyRemoval
  rw [hx]
  dsimp only
  rw [hold]

theorem found_number : x.unit.number = r.unit := of_decide_eq_true (List.find?_some hx :)

end

/-- What the rest of a verified UNDO or CHILL removal changes: not the content list. -/
theorem undoneState_only (s : State) (p : Pos) (r : PutRec) (x : Placed) {T : Part → Prop}
    (hT : backT (fun _ => True) ≤ T) (hc : T (.causes p)) :
    Only T ((s.takeOut p r).exclude p r.unit) (undoneState s p r x) := by
  unfold undoneState
  dsimp only
  refine Only.trans ?_ ((handBack_all _ p x.unit).mono hT)
  split
  · exact (Only.refl _ _).setHold p _ (hT (.hold p) trivial) fun k => absurd hc k
  · exact .refl _ _

theorem verifyRemoval_content {s : State} {p : Pos} {r : PutRec} {x : Placed}
    (hx : (s.build p).content.find? (fun y => decide (y.unit.number = r.unit)) = some x) (pu : Purpose) :
    ((s.verifyRemoval p r pu).build p).content
      = (s.build p).content.filter (fun y => decide (y.unit.number ≠ r.unit)) := by
  rw [← takeOut_content s p r]
  have gathers : gatherT (fun _ => True) ≤ fun x => x ≠ .build .content p := by rintro y h rfl; exact h
  have removes : removalT (fun _ => True) ≤ fun x => x ≠ .build .content p := by rintro y h rfl; exact h
  cases pu with
  | unload =>
    rw [verifyRemoval_unload hx, unloadOn_content, State.showBuild_build]
    exact handBack_all _ p x.unit (.build .content p) id
  | undo =>
    rw [verifyRemoval_undo hx]
    refine Eq.trans (((undoneState_only s p r x (T := fun x => x ≠ .build .content p) (by rintro y h rfl; exact h)
      nofun).resolveToGathering gathers trivial) (.build .content p) fun k => k rfl) ?_
    rw [exclude_state]
  | chill =>
    cases hh : s.hold p with
    | none => rw [verifyRemoval_chill_none hx hh]
    | some h =>
      have dropped : Only (fun x => x ≠ .build .content p) (s.takeOut p r)
          ((s.takeOut p r).setHold p (some (h.dropNamed r.unit))) :=
        (Only.refl _ _).setHold p _ nofun fun k => absurd nofun k
      rw [verifyRemoval_chill hx hh]
      split
      · exact (dropped.resolveToGathering gathers trivial) (.build .content p) fun k => k rfl
      · exact (dropped.tryRemoval removes trivial) (.build .content p) fun k => k rfl

/-- A unit removed by UNDO or UNLOAD is in the slot reserved for it. -/
theorem verifyRemoval_unit {s : State} {p : Pos} {r : PutRec} {x : Placed}
    (hx : (s.build p).content.find? (fun y => decide (y.unit.number = r.unit)) = some x) {pu : Purpose}
    (hpu : pu ≠ .chill) {i : Nat} (hi : s.su.reservedSlot p = some i) :
    ((s.verifyRemoval p r pu).su.slot i).unit?.map (·.number) = some r.unit := by
  have taken : (s.takeOut p r).su = s.su := (takeOut_only s p r).su_eq (by simp [takeOutT])
  rw [← found_number hx]
  cases pu with
  | chill => exact absurd rfl hpu
  | unload =>
    rw [verifyRemoval_unload hx, unloadOn_unit, State.showBuild_su]
    exact handBack_unit (taken ▸ hi) x.unit
  | undo =>
    have gathers : gatherT (fun _ => True) ≤ fun x => x ≠ .units := by rintro y h rfl; exact h
    have kept := ((Only.refl (fun x => x ≠ .units) (undoneState s p r x)).resolveToGathering gathers (p := p) trivial)
      .units (fun k => k rfl) i
    rw [verifyRemoval_undo hx, kept]
    refine handBack_unit ?_ x.unit
    have su : ∀ v : State, v = (s.takeOut p r).exclude p r.unit → (match v.hold p with
        | some h => v.setHold p (some (h.dropNamed r.unit))
        | none => v).su = s.su := by
      rintro v rfl
      cases ((s.takeOut p r).exclude p r.unit).hold p <;> exact taken
    rw [su _ rfl, hi]

/-- A unit removed by UNDO is in the exclusion list. -/
theorem verifyRemoval_exclusion {s : State} {p : Pos} {r : PutRec} {x : Placed}
    (hx : (s.build p).content.find? (fun y => decide (y.unit.number = r.unit)) = some x) :
    ((s.verifyRemoval p r .undo).build p).exclusion = addExclusion (s.build p).exclusion r.unit := by
  have gathers : gatherT (fun _ => True) ≤ fun x => x ≠ .build .exclusion p := by rintro y h rfl; exact h
  have taken : ((s.takeOut p r).build p).exclusion = (s.build p).exclusion := takeOut_only s p r (.build .exclusion p) id
  rw [verifyRemoval_undo hx]
  refine Eq.trans (((undoneState_only s p r x (T := fun x => x ≠ .build .exclusion p) (by rintro y h rfl; exact h)
    nofun).resolveToGathering gathers trivial) (.build .exclusion p) fun k => k rfl) ?_
  rw [exclude_state, taken]

/-- The causes that wait once a unit has left the named list. -/
theorem dropNamed_remaining (h : Hold) (u : UnitNo) {us : List UnitNo}
    (hus : h.named.filter (fun v => decide (v ≠ u)) = us) : (h.dropNamed u).secondary.filter (fun c => !c.byCheck)
      = h.secondary.filter (fun c => !c.byCheck && (decide (c.cause ≠ .chillExpired) || !us.isEmpty)) := by
  unfold Hold.dropNamed
  dsimp only
  rw [hus]
  cases us with
  | nil =>
    rw [List.isEmpty_nil, if_pos rfl, List.filter_filter]
    simp
  | cons v vs => simp

theorem dropNamed_fields (h : Hold) (u : UnitNo) : (h.dropNamed u).primary = h.primary ∧ (h.dropNamed u).next = h.next
    ∧ (h.dropNamed u).resolving = h.resolving ∧ (h.dropNamed u).named = h.named.filter (fun v => decide (v ≠ u)) :=
  ⟨rfl, rfl, rfl, rfl⟩

/-- A CHILL removal while another unit is named: that unit's removal is tried. -/
theorem verifyRemoval_named {s : State} {p : Pos} {r : PutRec} {x : Placed} {h : Hold}
    (hx : (s.build p).content.find? (fun y => decide (y.unit.number = r.unit)) = some x) (hh : s.hold p = some h)
    (named : h.named.filter (fun v => decide (v ≠ r.unit)) ≠ []) :
    s.verifyRemoval p r .chill = ((s.takeOut p r).setHold p (some (h.dropNamed r.unit))).tryRemoval p := by
  rw [verifyRemoval_chill hx hh, if_neg]
  rw [(dropNamed_fields h r.unit).2.2.2]
  simpa using named

section
variable {s : State} {p : Pos} {r : PutRec} {x : Placed} {h : Hold}
  (hx : (s.build p).content.find? (fun y => decide (y.unit.number = r.unit)) = some x)
  (hh : s.hold p = some h) (held : (s.build p).state = .held)
include hx hh held

/-- A verified removal that resolves its cause: the state before, its unit out of the named list. -/
theorem verifyRemoval_resolves {pu : Purpose}
    (hpu : pu = .undo ∨ (pu = .chill ∧ h.named.filter (fun v => decide (v ≠ r.unit)) = [])) :
    ∃ v : State, s.verifyRemoval p r pu = v.resolveToGathering p ∧ v.hold p = some (h.dropNamed r.unit)
      ∧ (v.build p).state = .held ∧ v.jc = s.jc := by
  have only := takeOut_only s p r
  have hold : (s.takeOut p r).hold p = some h := Eq.trans (only (.hold p) id) hh
  have state : ((s.takeOut p r).build p).state = .held := Eq.trans (only (.build .state p) id) held
  have jc : (s.takeOut p r).jc = s.jc := only.jc_eq id
  obtain rfl | ⟨rfl, none⟩ := hpu
  · have undone : undoneState s p r x
        = (((s.takeOut p r).exclude p r.unit).setHold p (some (h.dropNamed r.unit))).handBack p x.unit := by
      unfold undoneState
      dsimp only
      rw [show ((s.takeOut p r).exclude p r.unit).hold p = some h from hold]
    have excluded : (((s.takeOut p r).exclude p r.unit).build p).state = .held := by
      rw [exclude_state]
      exact state
    have back := handBack_elsewhere (s := ((s.takeOut p r).exclude p r.unit).setHold p (some (h.dropNamed r.unit)))
      (p := p) (by
        show (((s.takeOut p r).exclude p r.unit).build p).eligible = false
        rw [Build.eligible, excluded]) x.unit
    refine ⟨_, verifyRemoval_undo hx, ?_, ?_, ?_⟩ <;> rw [undone]
    · exact Eq.trans (back (.hold p) fun k => k rfl) (State.setHold_hold_same ..)
    · exact Eq.trans (back (.build .state p) fun k => k rfl) excluded
    · exact (back.jc_eq id).trans jc
  · refine ⟨_, ?_, State.setHold_hold_same _ p (some (h.dropNamed r.unit)), state, jc⟩
    rw [verifyRemoval_chill hx hh, if_pos]
    rw [(dropNamed_fields h r.unit).2.2.2, none]
    rfl

end

/-- A unit of the content list is found in it when another has been taken out. -/
theorem find_taken {xs : List Placed} {u v : UnitNo} (hv : v ≠ u) :
    (xs.filter (fun y => decide (y.unit.number ≠ u))).find? (fun z => decide (z.unit.number = v))
      = xs.find? (fun z => decide (z.unit.number = v)) := by
  rw [List.find?_filter]
  congr 1
  funext y
  by_cases h : y.unit.number = v <;> simp [h, hv]

theorem judge_verified {s : State} {p : Pos} {r : PutRec} {pu : Purpose} {delta : Int} (hk : r.kind = .removal pu)
    (near : (delta - r.expected).natAbs ≤ r.tolerance) (down : delta ≤ 0) :
    s.judge p r delta = s.verifyRemoval p r pu := by
  unfold State.judge
  dsimp only
  rw [hk]
  exact if_pos ⟨near, down⟩

theorem judge_failed {s : State} {p : Pos} {r : PutRec} {pu : Purpose} {delta : Int} (hk : r.kind = .removal pu)
    (h : r.tolerance < (delta - r.expected).natAbs ∨ 0 < delta) : s.judge p r delta
      = s.failRemoval p r pu .putMismatch (delta - r.expected).natAbs := by
  unfold State.judge
  dsimp only
  rw [hk]
  refine if_neg fun k => ?_
  obtain ⟨near, down⟩ := k
  omega

/-- An operation that faults, with the cause a first fault. -/
theorem faultOp_holds {s : State} {p : Pos} (hn : s.hold p = none) (r : PutRec) (c : Cause) (v : Nat) :
    ((s.faultOp p r c v).build p).state = .held
      ∧ (s.faultOp p r c v).put p = some { r with
          phase := .faulted, before := r.phase, confirmMark := false, resuming := false }
      ∧ ∃ h, (s.faultOp p r c v).hold p = some h ∧ h.primary = ⟨c, false⟩ ∧ h.saved = (s.build p).savedState
        ∧ h.next = (s.build p).savedState ∧ h.savedIndex = s.standIndex p := by
  obtain ⟨hb, k, hk⟩ := raise_held (s := s) (p := p) (c := .plain c (some r.unit) v) hn
  refine ⟨?_, State.setPut_put_same _ p _, _, hk, rfl, rfl, rfl, rfl⟩
  show ((s.raise p _).build p).state = _
  rw [hb]

theorem Emptied_from {s u t : State} {p : Pos} {o : OrderId} (h : u.Emptied t p o)
    (hs : ∀ i v l, s.su.slot i = .occupied v (.earmarked p l) → u.su.slot i = .occupied v (.earmarked p l))
    (hp : u.put p = none) : s.Emptied t p o where
  build := h.build
  hold := h.hold
  put := h.put
  valuation := h.valuation
  request := h.request
  unearmarked := h.unearmarked
  freed i v l hv _ := h.freed i v l (hs i v l hv) (by simp [hp])
  unlinked := h.unlinked
  asks := h.asks

/-- What the end of an unloading does, by its reason. -/
theorem endUnloading_effect {s : State} {p : Pos} {o : OrderId} (hl : (s.build p).link = some o) :
    s.Emptied (s.endUnloading p) p o
      ∧ ((s.build p).unloadReason ≠ some .silent → s.Releases (s.endUnloading p) o
        ∧ ∀ n, s.notice? o = some n → (s.endUnloading p).notice? o = some n.given)
      ∧ ((s.build p).unloadReason = some .silent → s.NoRelease (s.endUnloading p) o
        ∧ ∀ n ∈ (s.endUnloading p).cu.notices, n.order ≠ o) := by
  obtain ⟨none, -⟩ | ⟨o', ho', silent, gives⟩ := endUnloading_cases s p
  · simp [hl] at none
  · obtain rfl : o = o' := Option.some.inj (hl.symm.trans ho')
    refine ⟨?_, fun reason => ?_, fun reason => ?_⟩
    · by_cases reason : (s.build p).unloadReason = some .silent
      · rw [silent reason]
        exact Emptied_of_same (enterEmpty_emptied qualifies_removeNotice) (fun _ => rfl) rfl
      · rw [gives reason]
        have only : Only releaseT s (s.releaseOrder o) := (Only.refl _ s).releaseOrder (le_refl _) o
        have slots : (s.releaseOrder o).su.slots = s.su.slots := only .slots id
        refine Emptied_of_same (enterEmpty_emptied fun m => releaseOrder_given) (fun i => ?_) (only (.put p) id)
        rw [Stock.slot, slots]
        rfl
    · rw [gives reason]
      have only : Only releaseT s (s.releaseOrder o) := (Only.refl _ s).releaseOrder (le_refl _) o
      refine ⟨releases_of_only (releaseOrder_releases s o) ((Only.refl _ _).enterEmpty (le_refl (leaveT p)))
        (only.jc_eq id) (fun h => h.elim id id) (fun h => h.elim id id) fun h => h.elim id id, fun n hn => ?_⟩
      exact (released_and_emptied hn).1
    · rw [silent reason]
      have only : Only (leaveT p) s ((s.removeNotice o).enterEmpty p) :=
        ((Only.refl _ s).removeNotice trivial o).enterEmpty (le_refl _)
      obtain ⟨queue, waiting⟩ := only (.absent (.release o)) fun h => h.elim nofun nofun
      exact ⟨⟨queue, waiting⟩, removed_enterEmpty p⟩

/-- Settles O25. -/
theorem removalJudged : Obligations.RemovalJudged := by
  intro p r pu delta s hk
  refine ⟨fun x hx near down => ?_, fun fails => ?_, fun x o t hpu unloading hl hx none near down ht => ?_⟩
  · rw [judge_verified hk near down]
    refine ⟨verifyRemoval_content hx pu, fun hpu i hi => verifyRemoval_unit hx hpu hi, fun hpu => ?_,
      fun h us t ht hh held hus => ⟨fun hpu some => ?_, fun hpu => ?_⟩⟩
    · subst hpu
      exact verifyRemoval_exclusion hx
    · subst hpu hus ht
      have only := takeOut_only s p r
      have put : ((s.takeOut p r).setHold p (.some (h.dropNamed r.unit))).put p = none := takeOut_put s p r
      have state : ((s.takeOut p r).build p).state = .held := Eq.trans (only (.build .state p) id) held
      have stopped : ((s.takeOut p r).setHold p (.some (h.dropNamed r.unit))).hc.stopped = s.hc.stopped :=
        only.stopped_eq id
      rw [verifyRemoval_named hx hh some]
      refine ⟨?_, ?_, fun hstop => ?_, fun v vs y hv cause resolving going hy => ?_⟩
      · rw [tryRemoval_build]
        exact state
      · have causes := (Only.refl _ ((s.takeOut p r).setHold p (.some (h.dropNamed r.unit)))).tryRemoval
          (le_refl (removalT (· = p))) rfl (.causes p) id
        obtain ⟨z, hz⟩ := (hold_of_causes causes).2 _ (State.setHold_hold_same ..)
        rw [hz]
        have secondary : (h.dropNamed r.unit).secondary = h.secondary := if_neg (by simpa using some)
        simp only [Option.map_some, secondary]
        rfl
      · rw [tryRemoval_stands (.inl (stopped.trans hstop))]
        exact put
      · have other : v ≠ r.unit := by
          have mem : v ∈ h.named.filter (fun v => decide (v ≠ r.unit)) := hv ▸ List.mem_cons_self
          exact of_decide_eq_true (List.mem_filter.1 mem).2
        have due : ((s.takeOut p r).setHold p (.some (h.dropNamed r.unit))).removalDue p = .some (.chill, y) := by
          refine removalDue_chill (n := v) (ns := vs) state (State.setHold_hold_same ..) resolving cause hv ?_
          show ((s.takeOut p r).build p).content.find? _ = _
          rw [takeOut_content, find_taken other, hy]
        have base : (s.takeOut p r).baseline p = s.baseline p := by
          rw [State.baseline, State.stable, only.wf_eq id]
          rfl
        rw [tryRemoval_chill (stopped.trans going) put due (State.setHold_hold_same ..), startRemoval_put, ← base]
        rfl
    · subst ht
      have hpu' : pu = .undo ∨ (pu = .chill ∧ h.named.filter (fun v => decide (v ≠ r.unit)) = []) :=
        hpu.imp_right fun ⟨e, last⟩ => ⟨e, hus.trans last⟩
      obtain ⟨v, e, hold, state, jc⟩ := verifyRemoval_resolves hx hh held hpu'
      rw [e, ← dropNamed_remaining h r.unit hus]
      refine ⟨fun c cs hc => ?_, fun hc uncovered => ?_⟩
      · obtain ⟨hb, k, hk, primary, secondary, named, next⟩ := resolveToGathering_takes hold hc
        exact ⟨k, by rw [hb, state], hk, primary, secondary, named.trans hus, next⟩
      · obtain ⟨state, hold, -, -, limit⟩ := resolveToGathering_gathers hold hc uncovered
        exact ⟨state, hold, jc ▸ limit⟩
  · rw [judge_failed hk fails]
    refine ⟨fun hpu => ?_, fun hpu hr unloading hn => ?_⟩
    · cases pu with
      | unload => exact absurd rfl hpu
      | undo => rfl
      | chill => rfl
    · subst hpu
      obtain ⟨state, put, h, hh, primary, saved, next, -⟩ := faultOp_holds hn r .putMismatch
        (delta - r.expected).natAbs
      have unl : (s.build p).savedState = .unloading := by rw [Build.savedState, unloading]
      exact ⟨h, hh, primary, saved.trans unl, next.trans unl, state, put⟩
  · subst hpu
    have only := takeOut_only s p r
    have eligible := takeOut_eligible (.inr unloading) r
    have back := handBack_elsewhere eligible x.unit
    have quiet : Only (fun y => takeOutT p y ∨ backT (· ≠ p) y) s (((s.takeOut p r).handBack p x.unit).showBuild p) :=
      ((only.mono fun _ => .inl).trans (back.mono fun _ => .inr)).showBuild (fun y hy => .inr (panelT_le_backT _ y hy)) p
    have build : ((((s.takeOut p r).handBack p x.unit).showBuild p).build p) = (s.takeOut p r).build p := by
      rw [State.showBuild_build]
      exact back.build_eq backT_build
    have content : ((((s.takeOut p r).handBack p x.unit).showBuild p).build p).content = [] := by
      rw [build, takeOut_content, none]
    have link : ((((s.takeOut p r).handBack p x.unit).showBuild p).build p).link = some o := by
      rw [build]
      exact Eq.trans (only (.build .link p) id) hl
    have reason : ((((s.takeOut p r).handBack p x.unit).showBuild p).build p).unloadReason = (s.build p).unloadReason := by
      rw [build]
      exact only (.build .unloadReason p) id
    have put : (((s.takeOut p r).handBack p x.unit).showBuild p).put p = Option.none := by
      rw [State.showBuild_put]
      exact Eq.trans (back (.put p) fun k => k rfl) (takeOut_put s p r)
    obtain ⟨emptied, releases, silent⟩ := endUnloading_effect link
    rw [reason] at releases silent
    rw [judge_verified hk near down, verifyRemoval_unload hx, unloadOn_ends content] at ht
    subst ht
    have lp : (((s.takeOut p r).handBack p x.unit).showBuild p).lp = s.lp :=
      quiet.lp_eq (fun h => h.elim id id) (fun h => h.elim id id) fun h => h.elim id id
    have cu : (((s.takeOut p r).handBack p x.unit).showBuild p).cu = s.cu :=
      quiet.cu_eq (fun h => h.elim id id) fun h => h.elim id id
    have jc : (((s.takeOut p r).handBack p x.unit).showBuild p).jc = s.jc := quiet.jc_eq fun h => h.elim id id
    have su : (s.takeOut p r).su = s.su := only.su_eq (by simp [takeOutT])
    refine ⟨Emptied_from emptied (fun i v l hv => ?_) put, fun hr => ?_, fun hr => ?_⟩
    · rw [State.showBuild_su]
      exact handBack_earmarked eligible (su ▸ hv) x.unit
    · obtain ⟨released, given⟩ := releases hr
      unfold State.Releases at released ⊢
      rw [lp, cu, jc] at released
      refine ⟨released, fun n hn => given n ?_⟩
      rw [State.notice?, cu]
      exact hn
    · obtain ⟨released, gone⟩ := silent hr
      unfold State.NoRelease at released ⊢
      rw [lp, cu] at released
      exact ⟨released, gone⟩

end Sys2Proof.Proofs
end


section
/-! ABANDON (R49, R180). -/

namespace Sys2Proof.Proofs

open Sys2Proof.Machine

/-! ### The states an ABANDON goes through -/

/-- The hold is dropped, the pending operation ended, and the slot request withdrawn. -/
def droppedState (s : State) (p : Pos) (h : Hold) : State :=
  let t := (s.dropCauses p h).dropOp p
  (if h.next = .unloading then t else t.releaseSlot p).setHold p none

/-- The build is UNLOADING, with its reason and an empty plan. -/
def unloadingState (s : State) (p : Pos) (h : Hold) : State :=
  (droppedState s p h).setBuild p { (droppedState s p h).build p with
    state := .unloading, unloadReason := some (s.reasonOf p), plan := [], trayWanted := false,
    regatherDue := false }

/-- Its earmarks are FREE, and an UNLOAD removal continues. -/
def givenUpState (s : State) (p : Pos) (h : Hold) : State :=
  (((((unloadingState s p h).unlinkBuild p).freeEarmarks p).resumeOp p).showBuild p).showTray p

/-- The slots whose units an ABANDON frees. -/
def abandonedSlots (s : State) (p : Pos) : List Nat :=
  sortBy (fun i j => decide (i < j)) ((s.cancelledSlot p).toList ++ s.earmarkedSlots p)

theorem abandonKey_eq (s : State) (p : Pos) (h : Hold) :
    s.abandonKey p h = ((givenUpState s p h).matchUnits (abandonedSlots s p)).unloadOn p := rfl

/-! ### What it leaves alone -/

/-- What an ABANDON changes before the unloading goes on. -/
def abandonT : Part → Prop
  | .fixed | .queue | .contending | .port | .notices | .cuWaiting | .absent _ => False
  | .build .content _ | .build .exclusion _ | .build .link _ => False
  | _ => True

theorem giveT_le_abandonT (Q : Pos → Prop) : giveT Q ≤ abandonT := by
  intro x h
  cases x
  case build k q => exact h.elim
  all_goals trivial

theorem panelT_le_abandonT : panelT ≤ abandonT := (panelT_le_giveT (fun _ => True)).trans (giveT_le_abandonT _)

theorem dropOp_only (s : State) (p : Pos) : Only abandonT s (s.dropOp p) := by
  unfold State.dropOp
  split
  · exact .refl _ s
  · split
    · exact ((Only.refl abandonT s).cancelUnit panelT_le_abandonT trivial trivial (fun _ => trivial) trivial _).cancelRecord
        panelT_le_abandonT trivial trivial trivial trivial trivial trivial _
    · exact .refl _ s
    · exact ((Only.refl abandonT s).setPut p none trivial (fun k => absurd trivial k) fun k => absurd trivial k).showTray
        panelT_le_abandonT p

theorem droppedState_only (s : State) (p : Pos) (h : Hold) : Only abandonT s (droppedState s p h) := by
  have dropped : Only abandonT s ((s.dropCauses p h).dropOp p) :=
    (((Only.refl abandonT s).setHold p _ trivial fun k => absurd trivial k).showTray panelT_le_abandonT p).trans
      (dropOp_only _ p)
  unfold droppedState
  dsimp only
  refine Only.setHold ?_ p none trivial fun k => absurd trivial k
  split
  · exact dropped
  · exact dropped.releaseSlot (giveT_le_abandonT (fun _ => True)) trivial p fun _ _ _ => trivial

theorem unloadingState_build (s : State) (p : Pos) (h : Hold) : (unloadingState s p h).build p
    = { (droppedState s p h).build p with
        state := .unloading, unloadReason := some (s.reasonOf p), plan := [], trayWanted := false,
        regatherDue := false } := State.setBuild_build_same ..

theorem unloadingState_only (s : State) (p : Pos) (h : Hold) : Only abandonT s (unloadingState s p h) := by
  refine (droppedState_only s p h).setBuild p _ fun k hk => ?_
  have same := BuildPart.Same.refl ((droppedState s p h).build p) k
  cases k <;> first | exact same | exact absurd trivial hk

/-- What follows on the build's way into UNLOADING: not its hold record, and of its build record the line counts
alone. -/
def givenUpT (p : Pos) : Part → Prop
  | .fixed | .queue | .contending | .port | .notices | .cuWaiting | .absent _ => False
  | .build .lines _ | .build .earmarks _ | .build .covered _ => True
  | .hold q | .causes q | .build _ q => q ≠ p
  | _ => True

theorem givenUpState_only (s : State) (p : Pos) (h : Hold) :
    Only (givenUpT p) (unloadingState s p h) (givenUpState s p h) := by
  have panel : panelT ≤ givenUpT p := by
    intro x h
    cases x <;> trivial
  exact ((((Only.refl (givenUpT p) _).unlinkBuild trivial trivial trivial trivial).freeEarmarks trivial trivial
    (fun _ => trivial) trivial trivial trivial trivial).resumeOp trivial trivial |>.showBuild panel p).showTray panel p

theorem quietT_le_givenUpT (p : Pos) : quietT (· ≠ p) ≤ givenUpT p := by
  intro x h
  cases x
  case build k q => cases k <;> trivial
  all_goals trivial

/-- The state before the unloading goes on. -/
def abandonedState (s : State) (p : Pos) (h : Hold) : State :=
  (givenUpState s p h).matchUnits (abandonedSlots s p)

theorem givenUpState_eligible (s : State) (p : Pos) (h : Hold) : ((givenUpState s p h).build p).eligible = false := by
  have state : ((givenUpState s p h).build p).state = ((unloadingState s p h).build p).state :=
    givenUpState_only s p h (.build .state p) fun k => k rfl
  rw [Build.eligible, state, unloadingState_build]

theorem abandonedState_only (s : State) (p : Pos) (h : Hold) :
    Only (givenUpT p) (unloadingState s p h) (abandonedState s p h) :=
  (givenUpState_only s p h).trans ((matchUnits_elsewhere (givenUpState_eligible s p h) _).mono (quietT_le_givenUpT p))

/-- The build record before the unloading goes on. -/
theorem abandonedState_build (s : State) (p : Pos) (h : Hold) :
    ((abandonedState s p h).build p).state = .unloading
      ∧ ((abandonedState s p h).build p).unloadReason = some (s.reasonOf p)
      ∧ ((abandonedState s p h).build p).plan = []
      ∧ ((abandonedState s p h).build p).content = (s.build p).content
      ∧ ((abandonedState s p h).build p).exclusion = (s.build p).exclusion
      ∧ ((abandonedState s p h).build p).link = (s.build p).link ∧ (abandonedState s p h).hold p = none := by
  have only := abandonedState_only s p h
  have before := droppedState_only s p h
  have build := unloadingState_build s p h
  have state := only (.build .state p) fun k => k rfl
  have reason := only (.build .unloadReason p) fun k => k rfl
  have plan := only (.build .plan p) fun k => k rfl
  have content := only (.build .content p) fun k => k rfl
  have exclusion := only (.build .exclusion p) fun k => k rfl
  have link := only (.build .link p) fun k => k rfl
  simp only [Part.Same, BuildPart.Same, build] at state reason plan content exclusion link
  exact ⟨state, reason, plan, content.trans (before (.build .content p) id),
    exclusion.trans (before (.build .exclusion p) id), link.trans (before (.build .link p) id),
    Eq.trans (only (.hold p) fun k => k rfl) (State.setHold_hold_same ..)⟩

/-- The bench line, the notices and the blocks that stand. -/
theorem abandonedState_stands (s : State) (p : Pos) (h : Hold) : (abandonedState s p h).lp = s.lp
    ∧ (abandonedState s p h).cu = s.cu ∧ (abandonedState s p h).jc = s.jc := by
  have before := unloadingState_only s p h
  have after := abandonedState_only s p h
  exact ⟨(after.lp_eq id id id).trans (before.lp_eq id id id), (after.cu_eq id id).trans (before.cu_eq id id),
    (after.jc_eq id).trans (before.jc_eq id)⟩

/-! ### The earmarks of the build -/

theorem slotStep_earmarked {p : Pos} {y : Slot} {v : UnitRec} {l : Nat}
    (h : SlotStep (· ≠ p) (.occupied v (.earmarked p l)) y) : y = .occupied v (.earmarked p l) := by
  obtain e | ⟨w, age, q, k, e, -⟩ | ⟨w, q, k, e, hq, -⟩ | ⟨e, -⟩ := h
  · exact e
  · simp at e
  · simp only [Slot.occupied.injEq, ShelfState.earmarked.injEq] at e
    exact absurd e.2.1.symm hq
  · simp [Slot.unit?] at e

/-- A cancelled put leaves the slots of other units. -/
theorem cancelUnit_slot {s : State} {r : PutRec} {i : Nat} {v : UnitRec} {st : ShelfState}
    (hs : s.su.slot i = .occupied v st) (other : r.unit ≠ v.number) :
    (s.cancelUnit r).su.slot i = .occupied v st := by
  unfold State.cancelUnit
  split
  case h_1 => exact hs
  case h_2 j hj =>
    split
    case h_2 => exact hs
    case h_1 u _ hu =>
      have apart : ¬ i = j := by
        rintro rfl
        have number := (slot_of_findIdx hj).2
        rw [hs] at number
        exact other (of_decide_eq_true number :).symm
      rw [shelve_slot, if_neg fun k => apart k.1, hs]

theorem dropOp_slot {s : State} {p : Pos} {i : Nat} {v : UnitRec} {st : ShelfState}
    (hs : s.su.slot i = .occupied v st) (other : ∀ r, s.put p = some r → r.unit ≠ v.number) :
    (s.dropOp p).su.slot i = .occupied v st := by
  unfold State.dropOp
  split
  case h_1 => exact hs
  case h_2 r hr =>
    split
    · have cancelled : (s.cancelPut p r).su = (s.cancelUnit r).su := by
        unfold State.cancelPut State.cancelRecord
        rw [State.showTray_su]
        rfl
      rw [cancelled]
      exact cancelUnit_slot hs (other r hr)
    · exact hs
    · rw [State.showTray_su]
      exact hs

theorem droppedState_slot {s : State} {p : Pos} {i l : Nat} {v : UnitRec} (h : Hold)
    (hs : s.su.slot i = .occupied v (.earmarked p l)) (other : ∀ r, s.put p = some r → r.unit ≠ v.number) :
    (droppedState s p h).su.slot i = .occupied v (.earmarked p l) := by
  have dropped : ((s.dropCauses p h).dropOp p).su.slot i = .occupied v (.earmarked p l) := by
    refine dropOp_slot ?_ fun r hr => other r ?_
    · unfold State.dropCauses
      rw [State.showTray_su]
      exact hs
    · unfold State.dropCauses at hr
      rw [State.showTray_put] at hr
      exact hr
  unfold droppedState
  dsimp only
  show (State.su (if _ then _ else _)).slot i = _
  split
  · exact dropped
  · have released : Only (shelfT p) ((s.dropCauses p h).dropOp p) (((s.dropCauses p h).dropOp p).releaseSlot p) :=
      (Only.refl _ _).releaseSlot (giveT_le_shelfT p) trivial p fun _ _ => id
    have step := released (.shelf (· ≠ p)) (fun k => k fun _ => id) i
    rw [dropped] at step
    exact slotStep_earmarked step

/-- A unit EARMARKED for the build is FREE, or has been taken up by another. -/
theorem abandonedState_slot {s : State} {p : Pos} {i l : Nat} {v : UnitRec} (h : Hold)
    (hs : s.su.slot i = .occupied v (.earmarked p l)) (other : ∀ r, s.put p = some r → r.unit ≠ v.number) :
    SlotStep (· ≠ p) (.occupied v (.free 0)) ((abandonedState s p h).su.slot i) := by
  have unlinked : ((unloadingState s p h).unlinkBuild p).su.slot i = .occupied v (.earmarked p l) := by
    rw [unlinkBuild_slots]
    exact droppedState_slot h hs other
  have resumed : (givenUpState s p h).su = (((unloadingState s p h).unlinkBuild p).freeEarmarks p).su := by
    unfold givenUpState
    rw [State.showTray_su, State.showBuild_su]
    exact (resumeOp_only _ p).su_eq (by simp [resumeT])
  have freed : (givenUpState s p h).su.slot i = .occupied v (.free 0) := by
    rw [resumed]
    exact (freeEarmarks_slot _ p i).1 v l unlinked
  rw [← freed]
  exact matchUnits_elsewhere (givenUpState_eligible s p h) _ (.shelf (· ≠ p)) (fun k => k fun _ => id) i

/-- A slot whose unit is not EARMARKED for the position goes by `SlotStep` when it enters EMPTY. -/
theorem enterEmpty_step {s : State} {p : Pos} {i : Nat} (h : ∀ v l, s.su.slot i ≠ .occupied v (.earmarked p l)) :
    SlotStep (· ≠ p) (s.su.slot i) ((s.enterEmpty p).su.slot i) := by
  have cleared : (clearedState s p).su.slot i = s.su.slot i := by
    refine Eq.trans ((freeEarmarks_slot (s.unlinkBuild p) p i).2 ?_) ?_ <;> rw [unlinkBuild_slots]
    exact h
  rw [← cleared]
  exact settle_shelf s p i

/-! ### ABANDON -/

theorem reasonOf_eq {s : State} {p : Pos} {o : OrderId} {n : Notice} (hl : (s.build p).link = some o)
    (hn : s.notice? o = some n) : (s.reasonOf p = .silent ↔ ∃ q k, n.state = .gone q k) := by
  unfold State.reasonOf
  rw [hl]
  dsimp only
  rw [hn]
  dsimp only
  cases n.state <;> simp

/-- Settles O20. -/
theorem abandonUnloads : Obligations.AbandonUnloads := by
  intro p h s shut hh accepted
  have run : exec (.abandon p) s = finish (s.abandonKey p h) := by
    show execAbandon p s = _
    simp [execAbandon, shut, hh, accepted]
  rw [abandonKey_eq] at run
  obtain ⟨state, reason, plan, content, exclusion, link, hold⟩ := abandonedState_build s p h
  refine ⟨fun placed => ⟨_, run, ?_⟩, fun o n empty hl hn => ⟨_, run, ?_⟩⟩
  · rw [State.flush_build, State.flush_hold]
    have only := unloadOn_only (s := abandonedState s p h) (p := p) (content.symm ▸ placed)
    have build : ((abandonedState s p h).unloadOn p).build p = (abandonedState s p h).build p := only.build_eq fun _ => id
    have kept := (hold_of_causes (only (.causes p) id)).1 hold
    rw [show ((givenUpState s p h).matchUnits (abandonedSlots s p)) = abandonedState s p h from rfl, build]
    exact ⟨state, kept, reason, plan, content, exclusion⟩
  · rw [show ((givenUpState s p h).matchUnits (abandonedSlots s p)) = abandonedState s p h from rfl,
      unloadOn_ends (content.trans empty)]
    obtain ⟨emptied, releases, silent⟩ := endUnloading_effect (link.trans hl)
    obtain ⟨lp, cu, jc⟩ := abandonedState_stands s p h
    have gone := reasonOf_eq hl hn
    have notice : (abandonedState s p h).notice? o = some n := by
      rw [State.notice?, cu]
      exact hn
    refine ⟨Emptied_flush { emptied with freed := fun i v l hv other => ?_ }, fun kept => ?_, fun lost => ?_⟩
    · obtain ⟨t, su, e⟩ := endUnloading_enters (abandonedState s p h) p
      have step := abandonedState_slot h hv other
      have away : ∀ w k, t.su.slot i ≠ .occupied w (.earmarked p k) :=
        su ▸ slotStep_not_earmarked step fun u l => by simp
      rw [e]
      exact slotStep_of_free ((su ▸ step).trans (enterEmpty_step away)) rfl
    · have given : ((abandonedState s p h).build p).unloadReason ≠ some .silent := by
        rw [reason]
        exact fun k => by
          obtain ⟨q, j, e⟩ := gone.1 (Option.some.inj k)
          exact kept q j e
      obtain ⟨released, given⟩ := releases given
      unfold State.Releases at released
      rw [lp, cu, jc] at released
      refine ⟨Releases_flush released, ?_⟩
      rw [State.notice?, State.flush_cu]
      exact given n notice
    · obtain ⟨released, removed⟩ := silent (by rw [reason, gone.2 lost])
      unfold State.NoRelease at released ⊢
      rw [lp, cu] at released
      rw [State.flush_lp, State.flush_cu]
      exact ⟨released, removed⟩

end Sys2Proof.Proofs
end


section
/-! CONFIRM (R78, R79), the settle of a put (R77), and its limit (R81). -/

namespace Sys2Proof.Proofs

open Sys2Proof.Machine

/-! ### Causes that join a hold (R171) -/

theorem raiseAt_joins {s : State} {p : Pos} {h : Hold} (hh : s.hold p = some h) (saved : SavedState) (idx : Nat)
    (cs : List Raised) : (s.raiseAt p saved idx cs).build p = s.build p
      ∧ ∃ k, (s.raiseAt p saved idx cs).hold p = some k ∧ k.primary = h.primary ∧ k.saved = h.saved
        ∧ k.next = h.next := by
  unfold State.raiseAt
  dsimp only
  split
  case h_1 => exact ⟨rfl, h, hh, rfl, rfl, rfl⟩
  case h_2 c rest hs =>
    have told := told_only s p (c :: rest)
    have hold : ((c :: rest).foldl (State.reportCause p) s).hold p = some h := Eq.trans (told (.hold p) id) hh
    rw [hs, hold]
    obtain ⟨primary, saved, next⟩ := foldl_join_keeps (c :: rest) h
    exact ⟨told.build_eq fun _ => id, _, State.setHold_hold_same .., primary, saved, next⟩

theorem raise_joins {s : State} {p : Pos} {h : Hold} (hh : s.hold p = some h) (c : Raised) :
    (s.raise p c).build p = s.build p
      ∧ ∃ k, (s.raise p c).hold p = some k ∧ k.primary = h.primary ∧ k.saved = h.saved ∧ k.next = h.next := by
  rw [State.raise, State.showTray_build, State.showTray_hold]
  exact raiseAt_joins hh _ _ _

/-- The expiries that a put held back join a hold that stands. -/
theorem foldl_raiseChill_joins {s : State} {p : Pos} {h : Hold} (hh : s.hold p = some h) (us : List UnitNo) :
    (us.foldl (State.raiseChill p) s).build p = s.build p
      ∧ ∃ k, (us.foldl (State.raiseChill p) s).hold p = some k ∧ k.primary = h.primary ∧ k.saved = h.saved
        ∧ k.next = h.next := by
  induction us generalizing s h with
  | nil => exact ⟨rfl, h, hh, rfl, rfl, rfl⟩
  | cons u us ih =>
    have joins : (State.raiseChill p s u).build p = s.build p ∧ ∃ k, (State.raiseChill p s u).hold p = some k
        ∧ k.primary = h.primary ∧ k.saved = h.saved ∧ k.next = h.next := by
      unfold State.raiseChill
      split
      · exact raise_joins hh _
      · exact ⟨rfl, h, hh, rfl, rfl, rfl⟩
    obtain ⟨hb, k, hk, primary, saved, next⟩ := joins
    obtain ⟨hb', k', hk', primary', saved', next'⟩ := ih hk
    exact ⟨hb'.trans hb, k', hk', primary'.trans primary, saved'.trans saved, next'.trans next⟩

/-! ### A unit that is placed (R79) -/

/-- The build record of a build that has a unit placed. -/
def placedBuild (b : Build) (mode : Rounding) (r : PutRec) (u : UnitRec) (delta : Int) : Build :=
  { b with
    content := b.content ++ [⟨u, r.line, r.start, r.index, delta, (valueUnit mode u.label delta).value⟩]
    plan := b.plan.filter (fun e => decide (e.unit ≠ u.number)) }

/-- The slot of a placed unit is emptied. -/
def unshelvedState (s : State) (p : Pos) (r : PutRec) (i : Nat) (u : UnitRec) (delta : Int) : State :=
  ((s.setBuild p (placedBuild (s.build p) s.jc.setup.mode r u delta)).dropEarmark u.number).emptySlot i none

/-- A unit is placed and valued, its causes not yet handed to HC. -/
def placedState (s : State) (p : Pos) (r : PutRec) (i : Nat) (u : UnitRec) (delta : Int) : State :=
  let t := (unshelvedState s p r i u delta).modLine p r.line
    (fun l => { l with putting := l.putting - 1, placed := l.placed + 1 })
  t.setVal p ⟨(valueUnit s.jc.setup.mode u.label delta).causes,
    (t.vu.get p).sticky.union (valueUnit s.jc.setup.mode u.label delta).causes⟩

/-- The causes of the placed unit's valuation have reached HC, and its put has ended. -/
def judgedState (s : State) (p : Pos) (r : PutRec) (i : Nat) (u : UnitRec) (delta : Int) : State :=
  let t := placedState s p r i u delta
  ((t.raiseAt p .putting (t.build p).restIndex
    (valuationCauses s.jc.setup.holdMask u.number (valueUnit s.jc.setup.mode u.label delta))).setPut p none).showTray p

theorem confirmPut_eq {s : State} {p : Pos} {r : PutRec} {i : Nat} {u : UnitRec} {st : ShelfState}
    (hr : s.put p = some r) (hi : s.su.slotOf r.unit = some i) (hs : s.su.slot i = .occupied u st) (delta : Int) :
    s.confirmPut p delta
      = (r.expiries.foldl (State.raiseChill p) (judgedState s p r i u delta)).afterPut p := by
  unfold State.confirmPut
  simp only [hr, hi, hs]
  rfl

/-- What placing a unit changes. -/
def placeT (p : Pos) : Part → Prop
  | .pl | .slots | .units | .shelf _ | .requests | .amber | .earmarkOrder | .put _ | .hold _ => True
  | .val q => q = p
  | .build .content q | .build .plan q | .build .lines q | .build .earmarks q | .build .counts q
  | .build .covered q => q = p
  | _ => False

theorem giveT_le_placeT (Q : Pos → Prop) (p : Pos) : giveT Q ≤ placeT p := by
  intro x h
  cases x <;> trivial

theorem unshelvedState_only (s : State) (p : Pos) (r : PutRec) (i : Nat) (u : UnitRec) (delta : Int) :
    Only (placeT p) s (unshelvedState s p r i u delta) := by
  have joined : Only (placeT p) s (s.setBuild p (placedBuild (s.build p) s.jc.setup.mode r u delta)) := by
    refine (Only.refl _ s).setBuild p _ fun k hk => ?_
    have same := BuildPart.Same.refl (s.build p) k
    cases k
    case content => exact absurd rfl hk
    case plan => exact absurd rfl hk
    all_goals exact same
  exact (joined.dropEarmark trivial _).emptySlot (giveT_le_placeT (fun _ => True) p) trivial (fun _ _ => trivial) i none
    (.inl ⟨trivial, fun _ => trivial⟩)

theorem placedState_only (s : State) (p : Pos) (r : PutRec) (i : Nat) (u : UnitRec) (delta : Int) :
    Only (placeT p) s (placedState s p r i u delta) := by
  have counted := (unshelvedState_only s p r i u delta).modLine p r.line
    (fun l => { l with putting := l.putting - 1, placed := l.placed + 1 }) rfl (fun _ _ => rfl) (fun k => absurd rfl k)
    (fun k => absurd rfl k) fun k => absurd rfl k
  exact counted.joinSticky rfl _

theorem unshelvedState_build (s : State) (p : Pos) (r : PutRec) (i : Nat) (u : UnitRec) (delta : Int) :
    (unshelvedState s p r i u delta).build p = placedBuild (s.build p) s.jc.setup.mode r u delta := by
  have only : Only (emptyT (fun _ => True))
      ((s.setBuild p (placedBuild (s.build p) s.jc.setup.mode r u delta)).dropEarmark u.number)
      (unshelvedState s p r i u delta) :=
    (Only.refl _ _).emptySlot (giveT_le_emptyT _) trivial (fun _ _ => trivial) i none (.inl ⟨trivial, fun _ => trivial⟩)
  exact (only.build_eq fun _ => id).trans (State.setBuild_build_same ..)

theorem placedState_build (s : State) (p : Pos) (r : PutRec) (i : Nat) (u : UnitRec) (delta : Int) :
    ((placedState s p r i u delta).build p).content
        = (s.build p).content ++ [⟨u, r.line, r.start, r.index, delta, (valueUnit s.jc.setup.mode u.label delta).value⟩]
      ∧ ((placedState s p r i u delta).build p).plan = (s.build p).plan.filter (fun e => decide (e.unit ≠ u.number)) := by
  have build : (placedState s p r i u delta).build p
      = { placedBuild (s.build p) s.jc.setup.mode r u delta with
          lines := updateAt (fun l => { l with putting := l.putting - 1, placed := l.placed + 1 }) r.line
            (placedBuild (s.build p) s.jc.setup.mode r u delta).lines } := by
    unfold placedState
    dsimp only
    rw [State.setVal_build, State.modLine, State.setBuild_build_same, unshelvedState_build]
  rw [build]
  exact ⟨rfl, rfl⟩

theorem placedState_val (s : State) (p : Pos) (r : PutRec) (i : Nat) (u : UnitRec) (delta : Int) :
    (placedState s p r i u delta).vu.get p = ⟨(valueUnit s.jc.setup.mode u.label delta).causes,
      (s.vu.get p).sticky.union (valueUnit s.jc.setup.mode u.label delta).causes⟩ := by
  have only : Only (emptyT (fun _ => True))
      ((s.setBuild p (placedBuild (s.build p) s.jc.setup.mode r u delta)).dropEarmark u.number)
      (unshelvedState s p r i u delta) :=
    (Only.refl _ _).emptySlot (giveT_le_emptyT _) trivial (fun _ _ => trivial) i none (.inl ⟨trivial, fun _ => trivial⟩)
  have before : (unshelvedState s p r i u delta).vu.get p = s.vu.get p := only (.val p) id
  refine (PerPos_get_set_same ..).trans ?_
  show (⟨_, ((unshelvedState s p r i u delta).vu.get p).sticky.union _⟩ : Machine.Valuation) = _
  rw [before]

theorem placedState_slot {s : State} {p : Pos} {r : PutRec} {i : Nat} {u : UnitRec} {st : ShelfState}
    (hs : s.su.slot i = .occupied u st) (delta : Int) : ((placedState s p r i u delta).su.slot i).unit? = none := by
  have here := occupied_lt hs
  have given : ((unshelvedState s p r i u delta).su.slot i).unit? = none := by
    unfold unshelvedState State.emptySlot
    refine ((Only.refl (giveT (fun _ => True)) _).giveSlots (le_refl _) (fun _ _ => trivial) .units id i).trans ?_
    rw [State.showShelf_su]
    exact congrArg Slot.unit? ((slot_set s.su i i _).trans (if_pos ⟨rfl, here⟩))
  exact given

/-- What the end of a put changes once its unit is placed. -/
def endedT : Part → Prop := fun x => gatherT (fun _ => True) x ∨ ∃ q, x = .busy q

theorem Only.afterPut {T : Part → Prop} {Q : Pos → Prop} {a s : State} (h : Only T a s) (hT : gatherT Q ≤ T) {p : Pos}
    (hp : Q p) : Only T a (s.afterPut p) := by
  unfold State.afterPut
  split
  · split
    · exact h.regather hT hp
    · exact h.nextPut (((worksT_le_matchT Q).trans (matchT_le_gatherT Q)).trans hT) hp
  · exact h

theorem raiseT_le_endedT : raiseT (fun _ => True) ≤ endedT := fun x h =>
  .inl (matchT_le_gatherT _ x (worksT_le_matchT _ x (raiseT_le_worksT _ x h)))

theorem judgedState_only (s : State) (p : Pos) (r : PutRec) (i : Nat) (u : UnitRec) (delta : Int) :
    Only endedT (placedState s p r i u delta) (judgedState s p r i u delta) := by
  unfold judgedState
  dsimp only
  refine (((Only.refl endedT _).raiseAt raiseT_le_endedT trivial _ _ _).setPut p none (.inl trivial)
    (fun k => absurd (.inr ⟨p, rfl⟩) k) fun k => absurd (.inl trivial) k).showTray ?_ p
  exact (panelT_le_raiseT _).trans raiseT_le_endedT

theorem foldl_raiseChill_only {s : State} (p : Pos) (us : List UnitNo) :
    Only (raiseT (· = p)) s (us.foldl (State.raiseChill p) s) :=
  (Only.refl _ s).foldl _ (fun _ u k => k.raiseChill (Q := (· = p)) (le_refl _) rfl u) _

theorem valuationCauses_invalid {mask : CauseSet} {u : UnitNo} {v : Valued} (hv : v.causes.invalid = true)
    (hm : mask.invalid = true) : ∃ rest, sortBy (fun x y : Raised => decide (x.cause.code < y.cause.code))
      (valuationCauses mask u v) = .plain .invalid (some u) v.value :: rest := by
  have invalid : (v.causes.inter mask).invalid = true := by simp [CauseSet.inter, hv, hm]
  unfold valuationCauses
  dsimp only
  rw [invalid]
  cases (v.causes.inter mask).clamped <;> cases (v.causes.inter mask).inexact <;> exact ⟨_, rfl⟩

section
variable {s : State} {p : Pos} {r : PutRec} {i : Nat} {u : UnitRec} {st : ShelfState}
  (hr : s.put p = some r) (hi : s.su.slotOf r.unit = some i) (hs : s.su.slot i = .occupied u st) (delta : Int)
include hr hi hs

theorem confirmPut_only : Only endedT (placedState s p r i u delta) (s.confirmPut p delta) := by
  rw [confirmPut_eq hr hi hs]
  refine (Only.foldl (judgedState_only s p r i u delta) _ (fun _ v k => k.raiseChill raiseT_le_endedT trivial v)
    _).afterPut (fun x => .inl) trivial

/-- A confirmed put places its unit. -/
theorem confirmPut_places : ((s.confirmPut p delta).build p).content
      = (s.build p).content ++ [⟨u, r.line, r.start, r.index, delta, (valueUnit s.jc.setup.mode u.label delta).value⟩]
    ∧ ((s.confirmPut p delta).su.slot i).unit? = none
    ∧ ((s.confirmPut p delta).build p).exclusion = (s.build p).exclusion
    ∧ (((s.vu.get p).sticky.union (valueUnit s.jc.setup.mode u.label delta).causes).union
        ((s.confirmPut p delta).vu.get p).sticky = ((s.confirmPut p delta).vu.get p).sticky)
    ∧ (s.confirmPut p delta).jc = s.jc ∧ (s.confirmPut p delta).wf = s.wf
    ∧ (s.confirmPut p delta).hc.stopped = s.hc.stopped := by
  have only := confirmPut_only hr hi hs delta
  have placed := placedState_only s p r i u delta
  have content : ((s.confirmPut p delta).build p).content = _ := only (.build .content p) fun h => h.elim id nofun
  have exclusion : ((s.confirmPut p delta).build p).exclusion = _ := only (.build .exclusion p) fun h => h.elim id nofun
  have unit := only .units (fun h => h.elim id nofun) i
  have fixed : ¬ endedT .fixed := fun h => h.elim id nofun
  refine ⟨content.trans (placedState_build s p r i u delta).1, unit.trans (placedState_slot hs delta),
    exclusion.trans (placed (.build .exclusion p) id), ?_, (only.jc_eq fixed).trans (placed.jc_eq id),
    (only.wf_eq fixed).trans (placed.wf_eq id), (only.stopped_eq fixed).trans (placed.stopped_eq id)⟩
  have sticky := only (.sticky p) (fun h => h.elim id nofun)
    ((s.vu.get p).sticky.union (valueUnit s.jc.setup.mode u.label delta).causes)
  rw [placedState_val] at sticky
  refine sticky ?_
  simp [CauseSet.union]

/-- INVALID in the hold mask holds the build. -/
theorem confirmPut_invalid (hn : s.hold p = none)
    (hv : (valueUnit s.jc.setup.mode u.label delta).causes.invalid = true) (hm : s.jc.setup.holdMask.invalid = true) :
    ∃ h, (s.confirmPut p delta).hold p = some h ∧ h.primary = ⟨.invalid, false⟩ ∧ h.saved = .putting
      ∧ ((s.confirmPut p delta).build p).state = .held := by
  obtain ⟨rest, sorted⟩ := valuationCauses_invalid (u := u.number) hv hm
  have none : (placedState s p r i u delta).hold p = .none :=
    (hold_of_causes (placedState_only s p r i u delta (.causes p) id)).1 hn
  obtain ⟨hb, k, hk⟩ := raiseAt_held (s := placedState s p r i u delta) (p := p) (saved := .putting)
    (idx := ((placedState s p r i u delta).build p).restIndex) sorted none
  have state : ((judgedState s p r i u delta).build p).state = .held := by
    unfold judgedState
    dsimp only
    rw [State.showTray_build]
    exact congrArg Build.state hb
  have hold : (judgedState s p r i u delta).hold p = some { rest.foldl Hold.join (Hold.first .putting
      ((placedState s p r i u delta).build p).restIndex (.plain .invalid (some u.number)
        (valueUnit s.jc.setup.mode u.label delta).value)) with resolving := k } := by
    unfold judgedState
    dsimp only
    rw [State.showTray_hold]
    exact hk
  obtain ⟨hb', z, hz, primary, saved, -⟩ := foldl_raiseChill_joins hold r.expiries
  have held : ((r.expiries.foldl (State.raiseChill p) (judgedState s p r i u delta)).build p).state = .held := by
    rw [hb', state]
  have ends : s.confirmPut p delta = r.expiries.foldl (State.raiseChill p) (judgedState s p r i u delta) := by
    rw [confirmPut_eq hr hi hs, State.afterPut, if_neg (by simp [held])]
  obtain ⟨primary', saved', -⟩ := foldl_join_keeps rest (Hold.first .putting
    ((placedState s p r i u delta).build p).restIndex (.plain .invalid (some u.number)
      (valueUnit s.jc.setup.mode u.label delta).value))
  rw [ends]
  exact ⟨z, hz, primary.trans primary', saved.trans saved', held⟩

/-- With another unit to put, the causes of the valuation are the cause set. -/
theorem confirmPut_val (more : (s.build p).plan.filter (fun e => decide (e.unit ≠ u.number)) ≠ [])
    (due : (s.build p).regatherDue = false) : (s.confirmPut p delta).vu.get p
      = ⟨(valueUnit s.jc.setup.mode u.label delta).causes,
        (s.vu.get p).sticky.union (valueUnit s.jc.setup.mode u.label delta).causes⟩ := by
  have judged : Only (fun x => raiseT (· = p) x ∨ x = .busy p ∨ x = .putPending p) (placedState s p r i u delta)
      (judgedState s p r i u delta) := by
    unfold judgedState
    dsimp only
    exact (((Only.refl _ _).raiseAt (Q := (· = p)) (fun _ => .inl) rfl _ _ _).setPut p none (.inl rfl)
      (fun k => absurd (.inr (.inl rfl)) k) fun k => absurd (.inr (.inr rfl)) k).showTray
      (fun x hx => .inl (panelT_le_raiseT _ x hx)) p
  have ended := judged.trans ((foldl_raiseChill_only p r.expiries).mono fun x => .inl)
  have plan := ended (.build .plan p) fun h => h.elim id (Or.rec nofun nofun)
  have regather := ended (.build .regatherDue p) fun h => h.elim id (Or.rec nofun nofun)
  have val := ended (.val p) fun h => h.elim id (Or.rec nofun nofun)
  have plan : ((r.expiries.foldl (State.raiseChill p) (judgedState s p r i u delta)).build p).plan ≠ [] := by
    rw [show _ = _ from plan, (placedState_build s p r i u delta).2]
    exact more
  have notDue : ((r.expiries.foldl (State.raiseChill p) (judgedState s p r i u delta)).build p).regatherDue = false :=
    Eq.trans (Eq.trans regather (placedState_only s p r i u delta (.build .regatherDue p) id)) due
  rw [confirmPut_eq hr hi hs, ← placedState_val, ← show _ = _ from val]
  unfold State.afterPut
  split
  · rw [if_neg (by simp [notDue])]
    exact nextPut_quiet plan (.val p) id
  · rfl

end

theorem keyPut_eq_some_iff {s : State} {p : Pos} {r : PutRec} :
    s.keyPut p = some r ↔ (s.build p).state = .putting ∧ s.put p = some r ∧ r.kind = .put := by
  unfold State.keyPut
  by_cases putting : (s.build p).state = .putting
  · rw [if_pos putting]
    cases hp : s.put p with
    | none => simp
    | some q =>
      by_cases hk : q.kind = .put
      · simp only [hk, if_true, Option.some.injEq, putting, true_and]
        exact ⟨fun e => ⟨e, e ▸ hk⟩, And.left⟩
      · simp only [hk, if_false, putting, true_and, Option.some.injEq]
        exact ⟨nofun, fun ⟨e, k⟩ => absurd (e ▸ k) hk⟩
  · simp [putting]

/-- Settles O16. -/
theorem confirmPlacesUnit : Obligations.ConfirmPlacesUnit := by
  intro p r s shut hr
  have run : exec (.confirm p) s = finish (s.confirmKey p r) := by
    show execConfirm p s = _
    simp [execConfirm, shut, hr]
  obtain ⟨putting, put, -⟩ := keyPut_eq_some_iff.1 hr
  refine ⟨fun unsettled => ⟨_, run, ?_⟩, fun d i u st settled hd hi hs => ?_⟩
  · have marks : s.confirmKey p r = s.setPut p (some { r with confirmMark := true }) := by
      unfold State.confirmKey
      split
      · exact absurd ‹_› unsettled
      · rfl
    rw [flush_setPl_eq, marks]
    rfl
  · have places : s.confirmKey p r = s.confirmPut p d := by
      unfold State.confirmKey
      rw [settled, hd]
    rw [places] at run
    obtain ⟨content, unit, exclusion, sticky, jc, wf, stopped⟩ := confirmPut_places put hi hs d
    refine ⟨_, run, ?_⟩
    simp only [State.flush_build, State.flush_su, State.flush_vu, State.flush_hold, State.flush_jc, State.flush_wf,
      State.flush_hc]
    exact ⟨content, unit, exclusion, sticky, confirmPut_val put hi hs d,
      fun hv hm hn => confirmPut_invalid put hi hs d hn hv hm, jc, wf, stopped⟩

/-! ### The settle of a put (R77) -/

section
variable {s : State} {p : Pos} {r : PutRec} {delta : Int} (hk : r.kind = .put)
include hk

theorem judge_removed (h : delta ≤ -5) : s.judge p r delta = s.faultOp p r .putRemoved delta.natAbs := by
  unfold State.judge
  rw [hk]
  exact if_pos h

theorem judge_mismatch (h : -5 < delta) (far : r.tolerance < (delta - r.expected).natAbs) :
    s.judge p r delta = s.faultOp p r .putMismatch (delta - r.expected).natAbs := by
  unfold State.judge
  rw [hk]
  dsimp only
  rw [if_neg (show ¬ delta ≤ -(Config.movement : Int) from not_le.2 h), if_pos far]

theorem judge_confirms (h : -5 < delta) (near : (delta - r.expected).natAbs ≤ r.tolerance)
    (sure : s.jc.setup.autoConfirm = true ∨ r.confirmMark = true) : s.judge p r delta = s.confirmPut p delta := by
  unfold State.judge
  rw [hk]
  dsimp only
  rw [if_neg (show ¬ delta ≤ -(Config.movement : Int) from not_le.2 h), if_neg (not_lt.2 near), if_pos (by simpa using sure)]

theorem judge_settles (h : -5 < delta) (near : (delta - r.expected).natAbs ≤ r.tolerance)
    (auto : s.jc.setup.autoConfirm = false) (mark : r.confirmMark = false) : s.judge p r delta
      = s.setPut p (some { r with phase := .settled, settledDelta := some delta, resuming := false }) := by
  unfold State.judge
  rw [hk]
  dsimp only
  rw [if_neg (show ¬ delta ≤ -(Config.movement : Int) from not_le.2 h), if_neg (not_lt.2 near),
    if_neg (by simp [auto, mark])]

end

theorem standIndex_eq {s : State} {p : Pos} {r : PutRec} (hr : s.put p = some r) : s.standIndex p = r.index := by
  unfold State.standIndex
  rw [hr]

/-- What an operation that faults changes. -/
theorem faultOp_only (s : State) (p : Pos) (r : PutRec) (c : Cause) (v : Nat) :
    Only (fun x => raiseT (· = p) x ∨ x = .busy p ∨ x = .putPending p) s (s.faultOp p r c v) :=
  ((Only.refl _ s).raise (Q := (· = p)) (fun _ => .inl) rfl _).setPut p _ (.inl rfl) (fun k => absurd (.inr (.inl rfl)) k)
    fun k => absurd (.inr (.inr rfl)) k

/-- Settles O24. -/
theorem putJudgedAtSettle : Obligations.PutJudgedAtSettle := by
  intro p r s hr hk putting hn
  have saved : (s.build p).savedState = .putting := by rw [Build.savedState, putting]
  have index := standIndex_eq hr
  refine ⟨fun delta down => ?_, fun delta up far => ?_, fun delta up near auto mark => judge_settles hk up near auto mark,
    fun delta i u st t up near sure hi hs ht => ?_, fun going unsettled unfaulted ended => ?_⟩
  · rw [judge_removed hk down]
    obtain ⟨state, put, h, hh, primary, hsaved, -, hindex⟩ := faultOp_holds hn r .putRemoved delta.natAbs
    exact ⟨h, hh, primary, hsaved.trans saved, hindex.trans index, state, put⟩
  · rw [judge_mismatch hk up far]
    obtain ⟨state, -, h, hh, primary, hsaved, -⟩ := faultOp_holds hn r .putMismatch (delta - r.expected).natAbs
    exact ⟨h, hh, primary, hsaved.trans saved, state⟩
  · rw [judge_confirms hk up near sure] at ht
    subst ht
    obtain ⟨content, unit, exclusion, sticky, jc, wf, stopped⟩ := confirmPut_places hr hi hs delta
    exact ⟨content, unit, exclusion, sticky, fun hv hm => confirmPut_invalid hr hi hs delta hn hv hm, jc, wf, stopped⟩
  · have runs : s.limitRuns p r = true := by
      simp [State.limitRuns, State.judged, State.heldSuspends, hk, going, putting, unsettled, unfaulted]
    have run : exec (.putTimeout p) s = finish (s.faultOp p r .putTimeout Config.putLimit) := by
      show execPutTimeout p s = _
      simp [execPutTimeout, hr, runs, ended]
    obtain ⟨state, put, h, hh, primary, hsaved, hnext, hindex⟩ := faultOp_holds hn r .putTimeout Config.putLimit
    have only := faultOp_only s p r .putTimeout Config.putLimit
    refine ⟨_, h, run, ?_⟩
    simp only [State.flush_build, State.flush_hold, State.flush_put, State.flush_su, State.flush_cu, State.flush_xu,
      State.flush_lp]
    exact ⟨state, hh, primary, hsaved.trans saved, hnext.trans saved, hindex.trans index, put,
      only.su_eq (by simp [raiseT]), only.cu_eq (by simp [raiseT]) (by simp [raiseT]), only.xu_eq (by simp [raiseT]),
      only.lp_eq (by simp [raiseT]) (by simp [raiseT]) (by simp [raiseT])⟩

end Sys2Proof.Proofs
end


section
/-! SWEEP (R68 to R70, R76): the filter of every platform, and what its result does to the put record and the tare. -/

namespace Sys2Proof.Proofs

open Sys2Proof.Machine

/-! ### The fitted platforms -/

theorem mem_fittedPos {s : State} {p : Pos} : p ∈ s.fittedPos ↔ s.isFitted p = true := by
  have shown : ∀ n, p ∈ Pos.all.take n ↔ p.index < n := by
    intro n
    obtain _ | _ | _ | _ | n := n <;> cases p <;> simp [Pos.all, Pos.index]
  rw [State.isFitted, decide_eq_true_iff]
  exact shown s.jc.fitted

theorem fittedPos_nodup (s : State) : s.fittedPos.Nodup :=
  (by decide : Pos.all.Nodup).sublist (List.take_sublist ..)

/-! ### One platform's reading (R68 to R70) -/

theorem saturatedCell_none_iff (q : Quad) :
    saturatedCell q = none ↔ q.c0 < 6000 ∧ q.c1 < 6000 ∧ q.c2 < 6000 ∧ q.c3 < 6000 := by
  simp [saturatedCell, List.findIdx?_eq_none_iff, show Config.saturated = 6000 from rfl]

theorem saturatedCell_isSome (q : Quad) :
    (saturatedCell q).isSome = decide (6000 ≤ q.c0 ∨ 6000 ≤ q.c1 ∨ 6000 ≤ q.c2 ∨ 6000 ≤ q.c3) := by
  rw [Bool.eq_iff_iff, Option.isSome_iff_ne_none, ne_eq, saturatedCell_none_iff, decide_eq_true_iff]
  omega

theorem foldl_max_spec (x : Nat) (xs : List Nat) :
    (∀ y ∈ x :: xs, y ≤ xs.foldl max x) ∧ xs.foldl max x ∈ x :: xs := by
  induction xs generalizing x with
  | nil => simp
  | cons z zs ih =>
    obtain ⟨above, here⟩ := ih (max x z)
    rw [List.foldl_cons]
    have top := above (max x z) List.mem_cons_self
    refine ⟨fun y hy => ?_, ?_⟩
    · obtain rfl | hy := List.mem_cons.1 hy
      · exact le_trans (le_max_left ..) top
      · obtain rfl | hy := List.mem_cons.1 hy
        · exact le_trans (le_max_right ..) top
        · exact above y (List.mem_cons_of_mem _ hy)
    · obtain e | here := List.mem_cons.1 here
      · rw [e]
        obtain e | e := max_choice x z <;> rw [e] <;> simp
      · exact List.mem_cons_of_mem _ (List.mem_cons_of_mem _ here)

theorem foldl_min_spec (x : Nat) (xs : List Nat) :
    (∀ y ∈ x :: xs, xs.foldl min x ≤ y) ∧ xs.foldl min x ∈ x :: xs := by
  induction xs generalizing x with
  | nil => simp
  | cons z zs ih =>
    obtain ⟨below, here⟩ := ih (min x z)
    rw [List.foldl_cons]
    have bottom := below (min x z) List.mem_cons_self
    refine ⟨fun y hy => ?_, ?_⟩
    · obtain rfl | hy := List.mem_cons.1 hy
      · exact le_trans bottom (min_le_left ..)
      · obtain rfl | hy := List.mem_cons.1 hy
        · exact le_trans bottom (min_le_right ..)
        · exact below y (List.mem_cons_of_mem _ hy)
    · obtain e | here := List.mem_cons.1 here
      · rw [e]
        obtain e | e := min_choice x z <;> rw [e] <;> simp
      · exact List.mem_cons_of_mem _ (List.mem_cons_of_mem _ here)

/-- The stable reading (R70). -/
theorem stable_iff (w : Platform) (g : Nat) : w.stable = some g ↔ w.filtered.length = 10
    ∧ w.filtered.getLast? = some g ∧ (∀ x ∈ w.filtered, ∀ y ∈ w.filtered, x ≤ y + 2) ∧ ∀ m ∈ w.overMarks, m = false := by
  unfold Platform.stable
  cases hf : w.filtered with
  | nil => simp
  | cons z zs =>
    obtain ⟨above, high⟩ := foldl_max_spec z zs
    obtain ⟨below, low⟩ := foldl_min_spec z zs
    have near : zs.foldl max z - zs.foldl min z ≤ 2 ↔ ∀ x ∈ z :: zs, ∀ y ∈ z :: zs, x ≤ y + 2 := by
      refine ⟨fun h x hx y hy => ?_, fun h => ?_⟩
      · have := above x hx
        have := below y hy
        omega
      · have := h _ high _ low
        omega
    have marks : w.overMarks.all (fun m => !m) = true ↔ ∀ m ∈ w.overMarks, m = false := by simp
    dsimp only
    split
    case isTrue h =>
      obtain ⟨ten, close, clear⟩ := h
      exact ⟨fun last => ⟨ten, last, near.1 close, marks.1 clear⟩, fun ⟨_, last, _, _⟩ => last⟩
    case isFalse h =>
      exact ⟨nofun, fun ⟨ten, _, close, clear⟩ => absurd ⟨ten, near.2 close, marks.2 clear⟩ h⟩

theorem foldl_readPlatform (readings : PerPos Quad) (ps : List Pos) (hn : ps.Nodup) (s : State) :
    (∀ p, (ps.foldl (State.readPlatform readings) s).wf.get p
      = if p ∈ ps then (s.wf.get p).sweep (readings.get p) else s.wf.get p)
    ∧ (ps.foldl (State.readPlatform readings) s).jc = s.jc ∧ (ps.foldl (State.readPlatform readings) s).hc = s.hc := by
  induction ps generalizing s with
  | nil => exact ⟨fun _ => rfl, rfl, rfl⟩
  | cons q ps ih =>
    obtain ⟨apart, hn⟩ := List.nodup_cons.1 hn
    obtain ⟨wf, jc, hc⟩ := ih hn (State.readPlatform readings s q)
    refine ⟨fun p => ?_, jc, hc⟩
    rw [List.foldl_cons, wf p]
    show (if p ∈ ps then ((s.wf.set q _).get p).sweep (readings.get p) else (s.wf.set q _).get p) = _
    by_cases h : p = q
    · subst h
      rw [if_neg apart, if_pos List.mem_cons_self, PerPos_get_set_same]
    · rw [PerPos_get_set_other _ _ h]
      simp [h]

/-! ### What a sweep result does (R76) -/

section
variable {s : State} {p : Pos} {r : PutRec} {q : Quad} (hr : s.put p = some r)
include hr

theorem sweepOp_stands (h : s.judged p r = false) : s.sweepOp p q = s := by
  unfold State.sweepOp
  rw [hr]
  exact if_neg (by simp [h])

theorem sweepOp_saturated (h : s.judged p r = true) {i : Nat} (hi : saturatedCell q = some i) :
    (r.kind = .put → s.sweepOp p q = (s.faultOp p r .scaleOverrange i).showTray p)
      ∧ ∀ pu, r.kind = .removal pu → s.sweepOp p q = (s.failRemoval p r pu .scaleOverrange i).showTray p := by
  have runs : s.sweepOp p q = (s.judgeResult p r q).showTray p := by
    unfold State.sweepOp
    rw [hr]
    exact if_pos h
  rw [runs]
  unfold State.judgeResult
  rw [hi]
  exact ⟨fun hk => by rw [hk], fun pu hk => by rw [hk]⟩

theorem sweepOp_judges (h : s.judged p r = true) (hi : saturatedCell q = none) :
    s.sweepOp p q = (s.judgeSweep p r (s.wf.get p).filteredValue (s.stable p)).showTray p := by
  unfold State.sweepOp
  rw [hr]
  dsimp only
  rw [if_pos h, State.judgeResult, hi]

end

theorem judged_iff (s : State) (p : Pos) (r : PutRec) : s.judged p r = true ↔ s.hc.stopped = false
    ∧ r.phase ≠ .faulted ∧ ¬ ((s.build p).state = .held ∧ (r.kind = .put ∨ r.kind = .removal .unload)) := by
  simp only [State.judged, State.heldSuspends, Bool.and_eq_true, Bool.not_eq_true', decide_eq_true_eq,
    ← Bool.decide_and, decide_eq_false_iff_not, and_assoc]
  exact and_congr_right fun _ => and_comm

theorem resuming_self {r : PutRec} (h : r.resuming = false) : { r with resuming := false } = r := by
  cases r
  cases h
  rfl

section
variable {s : State} {p : Pos} {r : PutRec} {f x : Option Nat}

theorem judgeSweep_base (hp : r.phase = .awaitBase) {g : Nat} (heavy : 100 ≤ g) : s.judgeSweep p r f (some g)
    = s.setPut p (some { r with phase := .awaitMove, baseline := some g, failed := false, resuming := false }) := by
  unfold State.judgeSweep
  simp only [hp]
  cases hs : r.resuming with
  | true => simp [show Config.trayMark ≤ g from heavy]
  | false => simp [show Config.trayMark ≤ g from heavy]

theorem judgeSweep_base_light (hp : r.phase = .awaitBase) (light : ∀ g, x = some g → g < 100) :
    s.judgeSweep p r f x = s := by
  unfold State.judgeSweep
  simp only [hp]
  cases x with
  | none => cases r.resuming <;> rfl
  | some g =>
    have low : ¬ Config.trayMark ≤ g := not_le.2 (light g rfl)
    cases r.resuming <;> simp [low]

theorem judgeSweep_settle (hp : r.phase = .awaitSettle) {b : Nat} (hb : r.baseline = some b) (g : Nat) :
    s.judgeSweep p r f (some g) = s.judge p { r with resuming := false } ((g : Int) - b) := by
  unfold State.judgeSweep
  cases hs : r.resuming with
  | true => simp [hp, hb]
  | false =>
    rw [resuming_self hs]
    simp [hp, hb]

/-- A suspended operation waits for a stable reading, and so does a settle. -/
theorem judgeSweep_unstable (h : r.resuming = true ∨ r.phase = .awaitSettle) : s.judgeSweep p r f none = s := by
  unfold State.judgeSweep
  obtain h | h := h
  · simp [h]
  · simp [h]

section
variable (on : r.resuming = false)
include on

theorem judgeSweep_moves (hp : r.phase = .awaitMove) {b : Nat} (hb : r.baseline = some b) {v : Nat}
    (far : 5 ≤ ((v : Int) - b).natAbs) :
    s.judgeSweep p r (some v) x = s.setPut p (some { r with phase := .awaitSettle }) := by
  unfold State.judgeSweep
  simp only [hp, hb, on]
  exact if_pos far

theorem judgeSweep_still (hp : r.phase = .awaitMove) {b : Nat} (hb : r.baseline = some b)
    (near : ∀ v : Nat, f = some v → ((v : Int) - b).natAbs < 5) : s.judgeSweep p r f x = s := by
  unfold State.judgeSweep
  simp only [hp, hb, on]
  cases f with
  | none => rfl
  | some v => exact if_neg (not_le.2 (near v rfl))

theorem judgeSweep_unsettles (hp : r.phase = .settled) {b : Nat} (hb : r.baseline = some b) {d : Int}
    (hd : r.settledDelta = some d) {v : Nat} (far : 5 ≤ ((v : Int) - (b + d)).natAbs) : s.judgeSweep p r (some v) x
      = s.setPut p (some { r with phase := .awaitSettle, settledDelta := none }) := by
  unfold State.judgeSweep
  simp only [hp, hb, hd, on]
  exact if_pos far

theorem judgeSweep_settled (hp : r.phase = .settled) {b : Nat} (hb : r.baseline = some b) {d : Int}
    (hd : r.settledDelta = some d) (near : ∀ v : Nat, f = some v → ((v : Int) - (b + d)).natAbs < 5) :
    s.judgeSweep p r f x = s := by
  unfold State.judgeSweep
  simp only [hp, hb, hd, on]
  cases f with
  | none => rfl
  | some v => exact if_neg (not_le.2 (near v rfl))

end

section
variable (again : r.resuming = true)
include again

theorem judgeSweep_again_moves (hp : r.phase = .awaitMove) {b : Nat} (hb : r.baseline = some b) {v : Nat}
    (far : 5 ≤ ((v : Int) - b).natAbs) : s.judgeSweep p r f (some v)
      = s.judge p { r with phase := .awaitSettle, resuming := false } ((v : Int) - b) := by
  unfold State.judgeSweep
  simp only [hp, hb, again]
  exact if_pos far

theorem judgeSweep_again_still (hp : r.phase = .awaitMove) {b : Nat} (hb : r.baseline = some b) {v : Nat}
    (near : ((v : Int) - b).natAbs < 5) :
    s.judgeSweep p r f (some v) = s.setPut p (some { r with resuming := false }) := by
  unfold State.judgeSweep
  simp only [hp, hb, again]
  exact if_neg (not_le.2 near)

theorem judgeSweep_again_unsettles (hp : r.phase = .settled) {b : Nat} (hb : r.baseline = some b) {d : Int}
    (hd : r.settledDelta = some d) {v : Nat} (far : 5 ≤ ((v : Int) - (b + d)).natAbs) : s.judgeSweep p r f (some v)
      = s.judge p { r with phase := .awaitSettle, settledDelta := none, resuming := false } ((v : Int) - b) := by
  unfold State.judgeSweep
  simp only [hp, hb, hd, again]
  exact if_neg (not_lt.2 far)

theorem judgeSweep_again_settled (hp : r.phase = .settled) {b : Nat} (hb : r.baseline = some b) {d : Int}
    (hd : r.settledDelta = some d) {v : Nat} (near : ((v : Int) - (b + d)).natAbs < 5) :
    s.judgeSweep p r f (some v) = s.setPut p (some { r with resuming := false }) := by
  unfold State.judgeSweep
  simp only [hp, hb, hd, again]
  exact if_pos near

end

end

/-! ### The tare (R40) -/

theorem seal_tray (s : State) (p : Pos) (total : Nat) (weight : Int) :
    ((s.seal p total weight).build p).trayWanted = false := by
  unfold State.seal
  dsimp only
  split
  · rw [produceCu_build, State.showBuild_build, State.setBuild_build_same]
  · rw [State.showBuild_build, State.setBuild_build_same]

/-- The tare stands, and no tray is wanted anew. -/
def KeepsTare (p : Pos) (s t : State) : Prop :=
  (t.build p).tare = (s.build p).tare ∧ ((s.build p).trayWanted = false → (t.build p).trayWanted = false)

theorem Only.keepsTare {T : Part → Prop} {s t : State} {p : Pos} (h : Only T s t) (tare : ¬ T (.build .tare p))
    (tray : ¬ T (.build .trayWanted p)) : KeepsTare p s t :=
  ⟨h _ tare, fun k => Eq.trans (h _ tray) k⟩

theorem runCheck_keepsTare (s : State) (p : Pos) (resumed : List Cause) : KeepsTare p s (s.runCheck p resumed) := by
  unfold State.runCheck
  extract_lets r cs t
  split
  · exact ⟨seal_only t p _ _ (.build .tare p) id, fun _ => seal_tray ..⟩
  · exact ((Only.refl _ t).raiseAt (T := raiseT (· = p)) le_rfl rfl _ _ _).keepsTare (s := t) id id

/-- A build that goes on keeps its tare. -/
theorem nextPut_keepsTare (s : State) (p : Pos) : KeepsTare p s (s.nextPut p) := by
  unfold State.nextPut
  dsimp only
  split
  case isFalse => exact ⟨rfl, id⟩
  case isTrue ready =>
    split
    · split
      · exact runCheck_keepsTare ..
      · exact ⟨rfl, id⟩
    · split
      · exact ((Only.refl panelT s).showBuild le_rfl p).keepsTare id id
      · exact (startPut_only (Option.isNone_iff_eq_none.1 ready.2.2.2.2) _).keepsTare id id

/-- The state in which a build has taken its tare. -/
def taredState (s : State) (p : Pos) (g : Nat) : State :=
  (s.setBuild p { s.build p with tare := some g, trayWanted := false }).showBuild p

theorem taredState_build (s : State) (p : Pos) (g : Nat) :
    (taredState s p g).build p = { s.build p with tare := some g, trayWanted := false } := by
  rw [taredState, State.showBuild_build, State.setBuild_build_same]

theorem taredState_only (s : State) (p : Pos) (g : Nat) : Only (tareT p) s (taredState s p g) := by
  refine ((Only.refl _ s).setBuild p _ fun k hk => ?_).showBuild ?_ p
  · have same := BuildPart.Same.refl (s.build p) k
    cases k
    case tare => exact absurd rfl hk
    case trayWanted => exact absurd rfl hk
    all_goals exact same
  · intro x hx
    cases x <;> first | exact hx | exact hx.elim

theorem takeTare_tares {s : State} {p : Pos} (putting : (s.build p).state = .putting)
    (wanted : (s.build p).trayWanted = true) (going : s.hc.stopped = false) {g : Nat} (hg : s.stable p = some g)
    (heavy : 100 ≤ g) : s.takeTare p = (taredState s p g).nextPut p := by
  unfold State.takeTare
  rw [if_pos ⟨putting, wanted, by simp [going]⟩, baseline_eq hg heavy]
  rfl

theorem takeTare_waits {s : State} {p : Pos}
    (h : s.hc.stopped = true ∨ ∀ g, s.stable p = some g → g < 100) : s.takeTare p = s := by
  unfold State.takeTare
  split
  case isFalse => rfl
  case isTrue going =>
    obtain h | h := h
    · simp [h] at going
    · rw [baseline_none_iff.2 h]

theorem taredState_starts {s : State} {p : Pos} {g : Nat} (putting : (s.build p).state = .putting)
    (going : s.hc.stopped = false) (hg : s.stable p = some g) (heavy : 100 ≤ g) {e : PlanEntry} {es : List PlanEntry}
    {i l : Nat} {u : UnitRec} (plan : (s.build p).plan = e :: es) (due : (s.build p).regatherDue = false)
    (idle : s.put p = none) (hi : s.su.slotOf e.unit = some i) (hs : s.su.slot i = .occupied u (.earmarked p l)) :
    ((taredState s p g).nextPut p).put p = some (putRecord u e (some g)) := by
  have build := taredState_build s p g
  have kept := taredState_only s p g
  have stands : (taredState s p g).stable p = some g := by
    rw [State.stable, kept.wf_eq id]
    exact hg
  have ready : ReadyToPut (taredState s p g) p :=
    ⟨by rw [build]; exact putting, by simp [build], by simp [build], by rw [build]; exact due,
      by rw [kept (.put p) id]; exact idle⟩
  have su : (taredState s p g).su = s.su := kept.su_eq (by simp [tareT])
  rw [nextPut_starts ready (by rw [build]; exact plan) (by rw [kept.stopped_eq id]; exact going),
    (startPut_starts (by rw [su]; exact hi) (by rw [su]; exact hs)).1, baseline_eq stands heavy]

/-! ### The sweep -/

theorem execSweep_eq (readings : PerPos Quad) (s : State) : execSweep readings s
    = finish (s.fittedPos.foldl (State.sweepResult readings) (s.fittedPos.foldl (State.readPlatform readings) s)) := by
  have fitted : (s.fittedPos.foldl (State.readPlatform readings) s).fittedPos = s.fittedPos :=
    foldl_read_eq State.fittedPos (State.readPlatform readings) (fun _ _ => rfl) _ _
  unfold execSweep
  extract_lets t
  rw [show t.fittedPos = s.fittedPos from fitted]

/-- The results of a sweep change no platform, and neither STOPPED nor the station's values. -/
theorem foldl_sweepResult_steady (readings : PerPos Quad) (ps : List Pos) (s : State) :
    Steady s (ps.foldl (State.sweepResult readings) s) :=
  (Steady.refl s).foldl _ (fun _ p h => h.sweepResult readings p) ps

theorem execSweep_reads (readings : PerPos Quad) (s : State) : ∃ t, execSweep readings s = .next t
    ∧ (∀ p, t.wf.get p = if s.isFitted p = true then (s.wf.get p).sweep (readings.get p) else s.wf.get p)
    ∧ t.jc = s.jc ∧ t.hc.stopped = s.hc.stopped := by
  obtain ⟨wf, jc, hc⟩ := foldl_readPlatform readings s.fittedPos (fittedPos_nodup s) s
  have stands := foldl_sweepResult_steady readings s.fittedPos (s.fittedPos.foldl (State.readPlatform readings) s)
  rw [execSweep_eq]
  refine ⟨_, rfl, fun p => ?_, ?_, ?_⟩
  · rw [State.flush_wf, stands.wf, wf p]
    exact if_congr mem_fittedPos rfl rfl
  · rw [State.flush_jc, stands.jc, jc]
  · rw [State.flush_hc, stands.stopped, hc]

theorem sweep_fields (w : Platform) {q : Quad} {gs fs : List Nat} {ms : List Bool}
    (hg : gs = w.grosses ++ [q.c0 + q.c1 + q.c2 + q.c3]) (hf : fs = w.filtered ++ [(w.sweep q).grosses.sum / 4])
    (hm : ms = w.overMarks ++ [decide (6000 ≤ q.c0 ∨ 6000 ≤ q.c1 ∨ 6000 ≤ q.c2 ∨ 6000 ≤ q.c3)]) :
    (w.sweep q).grosses = gs.drop (gs.length - 4)
      ∧ (4 ≤ (w.sweep q).grosses.length → (w.sweep q).filtered = fs.drop (fs.length - 10))
      ∧ ((w.sweep q).grosses.length < 4 → (w.sweep q).filtered = w.filtered)
      ∧ (w.sweep q).overMarks = ms.drop (ms.length - 13) := by
  subst hg hf hm
  refine ⟨rfl, fun full => if_neg (not_lt.2 full), fun short => if_pos short, ?_⟩
  rw [← saturatedCell_isSome]
  rfl

section
variable {s : State} {p : Pos} {r : PutRec} {q : Quad} (hr : s.put p = some r) (h : s.judged p r = true)
include hr h

/-- A saturated cell (R82, R86). -/
theorem sweepOp_overrange {i : Nat} (hi : saturatedCell q = some i) :
    (∀ pu, r.kind = .removal pu → pu ≠ .unload → (s.sweepOp p q).put p
        = some { r with phase := .awaitBase, baseline := none, failed := true, resuming := false })
      ∧ (r.kind = .put ∨ r.kind = .removal .unload → s.hold p = none →
        ∃ k, (s.sweepOp p q).hold p = some k ∧ k.primary = ⟨.scaleOverrange, false⟩
          ∧ k.saved = (s.build p).savedState ∧ k.savedIndex = r.index ∧ ((s.sweepOp p q).build p).state = .held
          ∧ (s.sweepOp p q).put p = some { r with
              phase := .faulted, before := r.phase, confirmMark := false, resuming := false }) := by
  obtain ⟨put, removal⟩ := sweepOp_saturated hr h hi
  refine ⟨fun pu hk other => ?_, fun hk hn => ?_⟩
  · rw [removal pu hk, State.showTray_put]
    cases pu with
    | unload => exact absurd rfl other
    | undo => exact State.setPut_put_same ..
    | chill => exact State.setPut_put_same ..
  · have faults : s.sweepOp p q = (s.faultOp p r .scaleOverrange i).showTray p := hk.elim put (removal .unload)
    obtain ⟨state, record, k, hhold, primary, saved, -, index⟩ := faultOp_holds hn r .scaleOverrange i
    rw [faults, State.showTray_hold, State.showTray_build, State.showTray_put]
    exact ⟨k, hhold, primary, saved, index.trans (standIndex_eq hr), state, record⟩

end

/-- Settles O23. -/
theorem sweepFiltersEveryPlatform : Obligations.SweepFiltersEveryPlatform := by
  refine ⟨fun readings s => ?_, execSweep_eq, fun p r q s hr => ⟨fun h => ?_, fun going live unheld => ?_⟩,
    fun p s putting wanted => ⟨fun g hg heavy going => ?_, takeTare_waits⟩⟩
  · obtain ⟨t, ht, wf, jc, stopped⟩ := execSweep_reads readings s
    refine ⟨t, ht, fun p fitted q gs fs ms hq hg hf hm => ?_, fun p g => stable_iff .., fun p unfitted => ?_, jc, stopped⟩
    · rw [wf p, if_pos fitted, hq] at hf ⊢
      exact sweep_fields _ hg hf hm
    · rw [wf p, if_neg (by simp [unfitted])]
  · refine sweepOp_stands hr (Bool.eq_false_iff.2 fun k => ?_)
    obtain ⟨going, live, unheld⟩ := (judged_iff s p r).1 k
    obtain h | h | h := h
    · simp [h] at going
    · exact live h
    · exact unheld h
  · have judged := (judged_iff s p r).2 ⟨going, live, unheld⟩
    have shown {u : State} (runs : s.sweepOp p q = u.showTray p) : (s.sweepOp p q).put p = u.put p := by
      rw [runs, State.showTray_put]
    refine ⟨fun saturated => ?_, fun h0 h1 h2 h3 base => ?_, fun h0 h1 h2 h3 b hb => ?_⟩
    · obtain ⟨i, hi⟩ : ∃ i, saturatedCell q = some i := by
        rw [← Option.isSome_iff_exists, saturatedCell_isSome]
        exact decide_eq_true saturated
      obtain ⟨removal, fault⟩ := sweepOp_overrange hr judged hi
      exact ⟨removal, fun hk hn => fault (hk.imp And.left And.left) hn⟩
    · have runs := sweepOp_judges hr judged ((saturatedCell_none_iff q).2 ⟨h0, h1, h2, h3⟩)
      refine ⟨fun g hg heavy => ?_, fun light => ?_⟩
      · rw [shown runs, hg, judgeSweep_base base heavy, State.setPut_put_same]
      · rw [shown runs, judgeSweep_base_light base light, hr]
    · have runs := sweepOp_judges hr judged ((saturatedCell_none_iff q).2 ⟨h0, h1, h2, h3⟩)
      refine ⟨fun settle => ⟨fun x hx => ?_, fun hx => ?_⟩, fun move on => ⟨fun f hf far => ?_, fun near => ?_⟩,
        fun move again => ⟨fun x hx => ⟨fun far => ?_, fun near => ?_⟩, fun hx => ?_⟩,
        fun d settled hd on => ⟨fun f hf far => ?_, fun near => ?_⟩,
        fun d settled hd again => ⟨fun x hx => ⟨fun far => ?_, fun near => ?_⟩, fun hx => ?_⟩⟩
      · rw [runs, hx, judgeSweep_settle settle hb]
      · rw [shown runs, hx, judgeSweep_unstable (.inr settle), hr]
      · rw [shown runs, hf, judgeSweep_moves on move hb far, State.setPut_put_same]
      · rw [shown runs, judgeSweep_still on move hb near, hr]
      · rw [runs, hx, judgeSweep_again_moves again move hb far]
      · rw [shown runs, hx, judgeSweep_again_still again move hb near, State.setPut_put_same]
      · rw [shown runs, hx, judgeSweep_unstable (.inl again), hr]
      · rw [shown runs, hf, judgeSweep_unsettles on settled hb hd far, State.setPut_put_same]
      · rw [shown runs, judgeSweep_settled on settled hb hd near, hr]
      · rw [runs, hx, judgeSweep_again_unsettles again settled hb hd far]
      · rw [shown runs, hx, judgeSweep_again_settled again settled hb hd near, State.setPut_put_same]
      · rw [shown runs, hx, judgeSweep_unstable (.inl again), hr]
  · have tares := takeTare_tares putting wanted going hg heavy
    obtain ⟨tare, tray⟩ := nextPut_keepsTare (taredState s p g) p
    refine ⟨?_, ?_, fun e es i u l plan due idle hi hs => ?_⟩
    · rw [tares, tare, taredState_build]
    · rw [tares]
      exact tray (by rw [taredState_build])
    · rw [tares]
      exact taredState_starts putting going hg heavy plan due idle hi hs

end Sys2Proof.Proofs
end


section
/-! Units taken up (R32, R34, R38): the put a covered build starts, a line's fill, and EXACT_WAIT_EXPIRY. -/

namespace Sys2Proof.Proofs

open Sys2Proof.Machine

/-! ### The one put that starts -/

/-- The counts of a line whose earmarked unit is put. -/
def putsUnit (x : LineRec) : LineRec := { x with earmarked := x.earmarked - 1, putting := x.putting + 1 }

/-- A position's EARMARKED unit is put, and is its pending put. -/
structure PutStarted (p : Pos) (s t : State) (i line : Nat) (u : UnitRec) : Prop where
  earmarked : s.su.slot i = .occupied u (.earmarked p line)
  slot : ∀ j, t.su.slot j = if j = i then .occupied u (.putting p line) else s.su.slot j
  lines : (t.build p).lines = updateAt putsUnit line (s.build p).lines
  pending : t.put p ≠ none

/-- No slot changes and no line of the position, or one put starts. -/
def PutsOne (p : Pos) (s t : State) : Prop :=
  (t.su.slots = s.su.slots ∧ (t.build p).lines = (s.build p).lines) ∨ ∃ i line u, PutStarted p s t i line u

theorem PutsOne.refl (p : Pos) (s : State) : PutsOne p s s := .inl ⟨rfl, rfl⟩

theorem Only.putsOne {T : Part → Prop} {s t : State} {p : Pos} (h : Only T s t) (slots : ¬ T .slots)
    (lines : ¬ T (.build .lines p)) : PutsOne p s t := .inl ⟨h _ slots, h _ lines⟩

theorem slot_of_slots {su su' : Stock} (h : su'.slots = su.slots) (j : Nat) : su'.slot j = su.slot j := by
  rw [Stock.slot, Stock.slot, h]

theorem PutsOne.after {p : Pos} {s t u : State} (slots : t.su.slots = s.su.slots)
    (lines : (t.build p).lines = (s.build p).lines) (h : PutsOne p t u) : PutsOne p s u := by
  obtain ⟨hs, hl⟩ | ⟨i, line, v, h⟩ := h
  · exact .inl ⟨hs.trans slots, hl.trans lines⟩
  · refine .inr ⟨i, line, v, ?_, fun j => ?_, by rw [h.lines, lines], h.pending⟩
    · rw [← slot_of_slots slots, h.earmarked]
    · rw [h.slot j, slot_of_slots slots]

theorem startPut_started {s : State} {p : Pos} {e : PlanEntry} {i line : Nat} {u : UnitRec}
    (hi : s.su.slotOf e.unit = some i) (hs : s.su.slot i = .occupied u (.earmarked p line)) :
    PutStarted p s (s.startPut p e) i line u := by
  have put := (startPut_starts hi hs).1
  refine ⟨hs, fun j => ?_, ?_, by simp [put]⟩
  · rw [startPut_eq hi hs, State.showBuild_su, State.showTray_su]
    show ((State.showShelf _).su).slot j = _
    rw [State.showShelf_su]
    refine (slot_set s.su i j _).trans ?_
    by_cases h : j = i <;> simp [h, occupied_lt hs]
  · rw [startPut_eq hi hs, State.showBuild_build, State.showTray_build]
    show ((State.showShelf _).build p).lines = _
    rw [State.showShelf_build]
    exact congrArg Build.lines (State.setBuild_build_same _ p _)

theorem startPut_putsOne (s : State) (p : Pos) (e : PlanEntry) : PutsOne p s (s.startPut p e) := by
  cases hi : s.su.slotOf e.unit with
  | none =>
    unfold State.startPut
    rw [hi]
    exact .refl p s
  | some i =>
    by_cases hs : ∃ u line, s.su.slot i = .occupied u (.earmarked p line)
    · obtain ⟨u, line, hs⟩ := hs
      exact .inr ⟨i, line, u, startPut_started hi hs⟩
    · have stands : s.startPut p e = s := by
        unfold State.startPut
        rw [hi]
        dsimp only
        split
        case h_1 u q line h =>
          refine if_neg fun k => hs ⟨u, line, ?_⟩
          rw [h, k]
        case h_2 => rfl
      rw [stands]
      exact .refl p s

theorem runCheck_putsOne (s : State) (p : Pos) (resumed : List Cause) : PutsOne p s (s.runCheck p resumed) := by
  unfold State.runCheck
  extract_lets r cs t
  split
  · exact .after (t := t) rfl rfl ((seal_only t p _ _).putsOne id id)
  · exact .after (t := t) rfl rfl (((Only.refl _ t).raiseAt (T := raiseT (· = p)) le_rfl rfl _ _ _).putsOne id id)

theorem nextPut_putsOne (s : State) (p : Pos) : PutsOne p s (s.nextPut p) := by
  unfold State.nextPut
  dsimp only
  split
  case isFalse => exact .refl p s
  case isTrue =>
    split
    · split
      · exact runCheck_putsOne ..
      · exact .refl p s
    · split
      · exact ((Only.refl panelT s).showBuild le_rfl p).putsOne id id
      · exact startPut_putsOne ..

theorem takeTare_putsOne (s : State) (p : Pos) : PutsOne p s (s.takeTare p) := by
  unfold State.takeTare
  split
  · split
    case h_1 g _ =>
      have tared := taredState_only s p g
      exact (nextPut_putsOne (taredState s p g) p).after (tared .slots id) (tared (.build .lines p) id)
    case h_2 => exact .refl p s
  · exact .refl p s

theorem enterPutting_putsOne (s : State) (p : Pos) (plan : List PlanEntry) : PutsOne p s (s.enterPutting p plan) := by
  rw [enterPutting_eq]
  have slots : (plannedState s p plan).su.slots = s.su.slots := by
    rw [plannedState, State.showBuild_su]
    rfl
  have lines : ((plannedState s p plan).build p).lines = (s.build p).lines := by rw [plannedState_build]
  obtain ⟨hs, hl⟩ | ⟨i, line, u, started⟩ := takeTare_putsOne (plannedState s p plan) p
  · exact (nextPut_putsOne _ p).after (hs.trans slots) (hl.trans lines)
  · rw [nextPut_pending started.pending]
    exact PutsOne.after slots lines (.inr ⟨i, line, u, started⟩)

theorem coverage_putsOne (s : State) (p : Pos) : PutsOne p s (s.coverage p) := by
  unfold State.coverage
  split
  · split
    case h_1 es _ => exact enterPutting_putsOne ..
    case h_2 e _ =>
      have held := (Only.refl _ (s.setBuild p { s.build p with plan := [] })).raiseAt (T := raiseT (· = p)) le_rfl rfl
        .gathering ((s.setBuild p { s.build p with plan := [] }).standIndex p) [e.cause]
      refine PutsOne.after (t := s.setBuild p { s.build p with plan := [] }) rfl ?_ (held.putsOne id id)
      rw [State.setBuild_build_same s p { s.build p with plan := [] }]
  · exact .refl p s

/-! ### What the coverage test leaves of the shelf and the lines -/

theorem PutsOne.free {p : Pos} {s t : State} (h : PutsOne p s t) {i age : Nat} {u : UnitRec}
    (hs : s.su.slot i = .occupied u (.free age)) : t.su.slot i = .occupied u (.free age) := by
  obtain ⟨slots, -⟩ | ⟨j, line, v, h⟩ := h
  · rw [slot_of_slots slots, hs]
  · rw [h.slot i, if_neg, hs]
    rintro rfl
    rw [h.earmarked] at hs
    cases hs

theorem PutsOne.earmarked {p : Pos} {s t : State} (h : PutsOne p s t) {i line : Nat} {u : UnitRec}
    (hs : s.su.slot i = .occupied u (.earmarked p line)) :
    t.su.slot i = .occupied u (.earmarked p line) ∨ t.su.slot i = .occupied u (.putting p line) := by
  obtain ⟨slots, -⟩ | ⟨j, k, v, h⟩ := h
  · exact .inl (by rw [slot_of_slots slots, hs])
  · by_cases e : i = j
    · subst e
      rw [h.earmarked] at hs
      cases hs
      exact .inr (by rw [h.slot, if_pos rfl])
    · exact .inl (by rw [h.slot, if_neg e, hs])

/-- A line that has an earmark holds as many units after the put starts. -/
theorem PutsOne.line {p : Pos} {s t : State} (h : PutsOne p s t) {line : Nat} {l : LineRec}
    (hl : s.line? ⟨p, line⟩ = some l) : ∃ l', t.line? ⟨p, line⟩ = some l' ∧ l'.exactWait = l.exactWait
      ∧ l'.item = l.item ∧ l'.placed = l.placed ∧ (0 < l.earmarked → l'.heldUnits = l.heldUnits) := by
  have hl : (s.build p).lines[line]? = some l := hl
  obtain ⟨-, lines⟩ | ⟨i, k, u, h⟩ := h
  · exact ⟨l, by rw [State.line?, lines, hl], rfl, rfl, rfl, fun _ => rfl⟩
  · by_cases e : line = k
    · refine ⟨putsUnit l, ?_, rfl, rfl, rfl, fun positive => ?_⟩
      · rw [State.line?, h.lines, updateAt_getElem?, if_pos e, hl]
        rfl
      · simp only [LineRec.heldUnits, putsUnit]
        omega
    · exact ⟨l, by rw [State.line?, h.lines, updateAt_getElem?, if_neg e, hl], rfl, rfl, rfl, fun _ => rfl⟩

/-! ### A line's fill (R30, R32) -/

theorem earmark_line {s : State} {i age : Nat} {u : UnitRec} (hs : s.su.slot i = .occupied u (.free age)) (r : LineRef) :
    (s.earmark i r).line? r = (s.line? r).map (fun l => { l with
      earmarked := l.earmarked + 1
      orderedClass :=
        if l.orderedClass.isNone ∧ u.label.code = l.item.code then some u.label.handling else l.orderedClass }) := by
  unfold State.earmark
  rw [hs]
  dsimp only
  rw [line?_modLine, if_pos rfl]
  rfl

/-- Earmarking leaves what decides which unit a line may take. -/
theorem earmark_only (s : State) (i : Nat) (r : LineRef) : Only (fillT (· = r.p)) s (s.earmark i r) :=
  (Only.refl _ s).earmark le_rfl i rfl

/-- The FREE units of a slot that the substitute search of a line may take (R32). -/
def mayFill (s : State) (r : LineRef) (l : LineRec) (x : Slot) : Bool :=
  x.freeUnit.any fun u => decide (u.label.code ≠ l.item.code) && !(s.build r.p).exclusion.contains u.number
    && s.acceptable r u

theorem acceptable_congr {s t : State} {r : LineRef} {l m : LineRec} (hl : s.line? r = some l) (hm : t.line? r = some m)
    (item : m.item = l.item) (cls : m.orderedClass = l.orderedClass) (info : t.infoOf r.p = s.infoOf r.p)
    (jc : t.jc = s.jc) (u : UnitRec) : t.acceptable r u = s.acceptable r u := by
  unfold State.acceptable
  rw [hl, hm, info, jc]
  cases s.infoOf r.p with
  | none => rfl
  | some info => simp only [item, cls]

/-- What a line's substitute search has done over a list of slots (`is`): the units of `found` are earmarked. -/
structure Filled (s t : State) (r : LineRef) (l : LineRec) (found : List Nat) : Prop where
  only : Only (fillT (· = r.p)) s t
  line : t.line? r = some { l with earmarked := l.earmarked + found.length }
  slot : ∀ j, j ∉ found → t.su.slot j = s.su.slot j
  taken : ∀ j ∈ found, ∀ u age, s.su.slot j = .occupied u (.free age) →
    t.su.slot j = .occupied u (.earmarked r.p r.line)

theorem fillSlot_takes {s : State} {r : LineRef} {l : LineRec} (hl : s.line? r = some l) (i : Nat) :
    s.fillSlot (substituteTest r) r i
      = if 0 < l.uncovered ∧ mayFill s r l (s.su.slot i) = true then s.earmark i r else s := by
  unfold State.fillSlot
  cases hu : (s.su.slot i).freeUnit with
  | none => simp [mayFill, hu]
  | some u =>
    refine if_congr ?_ rfl rfl
    simp only [State.lineOpen, substituteTest, exactTest, hl, mayFill, hu, Option.any_some, Bool.and_eq_true,
      decide_eq_true_eq, ← decide_not]
    tauto

theorem Filled.nil {s : State} {r : LineRef} {l : LineRec} (hl : s.line? r = some l) : Filled s s r l [] :=
  ⟨.refl _ s, hl, fun _ _ => rfl, nofun⟩

theorem mayFill_iff {s : State} {r : LineRef} {l : LineRec} {x : Slot} : mayFill s r l x = true ↔
    ∃ u age, x = .occupied u (.free age) ∧ u.label.code ≠ l.item.code
      ∧ (s.build r.p).exclusion.contains u.number = false ∧ s.acceptable r u = true := by
  rw [mayFill, Option.any_eq_true]
  refine exists_congr fun u => ?_
  rw [freeUnit_eq_some]
  simp [and_assoc]

theorem mayFill_congr {s t : State} {r : LineRef} {l m : LineRec} (hl : s.line? r = some l) (hm : t.line? r = some m)
    (item : m.item = l.item) (cls : m.orderedClass = l.orderedClass) (link : (t.build r.p).link = (s.build r.p).link)
    (exclusion : (t.build r.p).exclusion = (s.build r.p).exclusion) (notices : t.cu.notices = s.cu.notices)
    (jc : t.jc = s.jc) (x : Slot) : mayFill t r m x = mayFill s r l x := by
  unfold mayFill
  simp only [exclusion, item, acceptable_congr hl hm item cls (infoOf_eq link notices) jc]

theorem foldl_fillSlot_filled {r : LineRef} (is : List Nat) (apart : is.Nodup) {s : State} {l : LineRec}
    (hl : s.line? r = some l) : Filled s (is.foldl (State.fillSlot (substituteTest r) r) s) r l
      ((is.filter (fun i => mayFill s r l (s.su.slot i))).take l.uncovered) := by
  induction is generalizing s l with
  | nil => simpa using Filled.nil hl
  | cons i is ih =>
    obtain ⟨away, apart⟩ := List.nodup_cons.1 apart
    rw [List.foldl_cons, fillSlot_takes hl]
    by_cases h : 0 < l.uncovered ∧ mayFill s r l (s.su.slot i) = true
    · obtain ⟨positive, may⟩ := h
      obtain ⟨u, age, hs, other, -, -⟩ := mayFill_iff.1 may
      have hl' : (s.earmark i r).line? r = some { l with earmarked := l.earmarked + 1 } := by
        rw [earmark_line hs, hl]
        simp [other]
      have kept := earmark_only s i r
      have same := mayFill_congr hl hl' rfl rfl (kept (.build .link r.p) id) (kept (.build .exclusion r.p) id)
        (kept .notices id) (kept.jc_eq id)
      have rest : is.filter (fun j => mayFill (s.earmark i r) r { l with earmarked := l.earmarked + 1 }
          ((s.earmark i r).su.slot j)) = is.filter (fun j => mayFill s r l (s.su.slot j)) := by
        refine List.filter_congr fun j hj => ?_
        have ne : j ≠ i := fun e => away (e ▸ hj)
        rw [same, earmark_slot hs, if_neg ne]
      obtain ⟨only, line, slot, taken⟩ := ih apart hl'
      rw [rest] at line slot taken
      have less : l.uncovered = { l with earmarked := l.earmarked + 1 }.uncovered + 1 := by
        simp only [LineRec.uncovered, LineRec.heldUnits] at positive ⊢
        omega
      rw [if_pos ⟨positive, may⟩, List.filter_cons_of_pos (p := fun j => mayFill s r l (s.su.slot j)) may, less, List.take_succ_cons]
      generalize ({ l with earmarked := l.earmarked + 1 } : LineRec).uncovered = n at line slot taken ⊢
      have later : i ∉ (is.filter (fun j => mayFill s r l (s.su.slot j))).take n :=
        fun k => away (List.mem_filter.1 (List.mem_of_mem_take k)).1
      refine ⟨(earmark_only s i r).trans only, ?_, fun j hj => ?_, fun j hj v a hv => ?_⟩
      · rw [line, List.length_cons]
        simp only [Option.some.injEq, LineRec.mk.injEq, true_and, and_true]
        omega
      · obtain ⟨ne, hj⟩ := not_or.1 (mt List.mem_cons.2 hj)
        rw [slot j hj, earmark_slot hs, if_neg ne]
      · obtain rfl | hj := List.mem_cons.1 hj
        · rw [hs] at hv
          cases hv
          rw [slot j later, earmark_slot hs, if_pos rfl]
        · have ne : j ≠ i := fun e => later (e ▸ hj)
          exact taken j hj v a (by rw [earmark_slot hs, if_neg ne, hv])
    · rw [if_neg h]
      have found : ((i :: is).filter (fun j => mayFill s r l (s.su.slot j))).take l.uncovered
          = (is.filter (fun j => mayFill s r l (s.su.slot j))).take l.uncovered := by
        cases may : mayFill s r l (s.su.slot i) with
        | false => rw [List.filter_cons_of_neg (p := fun j => mayFill s r l (s.su.slot j)) (by simp [may])]
        | true =>
          have none : l.uncovered = 0 := by
            simp only [may, and_true] at h
            omega
          rw [none, List.take_zero, List.take_zero]
      rw [found]
      exact ih apart hl

/-! ### The exact wait (R32) -/

/-- The state in which a line's exact wait is EXPIRED. -/
def expiredState (s : State) (r : LineRef) : State :=
  s.modLine r.p r.line (fun l => { l with exactWait := .expired, wantRefused := false })

/-- The slots whose units the search of a line whose exact wait expires takes (R32). -/
def substitutes (s : State) (r : LineRef) (l : LineRec) : List Nat :=
  ((List.range 48).filter (fun i => mayFill s r l (s.su.slot i))).take l.uncovered

theorem expired_filled {s : State} {r : LineRef} {l : LineRec} (hl : s.line? r = some l) :
    Filled (expiredState s r) ((expiredState s r).fillLine (substituteTest r) r) r
      { l with exactWait := .expired, wantRefused := false } (substitutes s r l) := by
  have line : (expiredState s r).line? r = some { l with exactWait := .expired, wantRefused := false } := by
    rw [expiredState, line?_modLine, if_pos rfl, hl]
    rfl
  have link : ((expiredState s r).build r.p).link = (s.build r.p).link := by
    rw [expiredState, State.modLine, State.setBuild_build_same]
  have exclusion : ((expiredState s r).build r.p).exclusion = (s.build r.p).exclusion := by
    rw [expiredState, State.modLine, State.setBuild_build_same]
  have same := mayFill_congr (t := expiredState s r) hl line rfl rfl link exclusion rfl rfl
  have filled := foldl_fillSlot_filled (List.range 48) List.nodup_range line
  simp only [same] at filled
  exact filled

theorem expireExact_line {s : State} {r : LineRef} {l : LineRec} (hl : s.line? r = some l) :
    ∃ l', (s.expireExact r).line? r = some l' ∧ l'.exactWait = .expired ∧ l'.item = l.item ∧ l'.placed = l.placed
      ∧ (substitutes s r l ≠ [] → l'.heldUnits = l.heldUnits + (substitutes s r l).length) := by
  have filled := expired_filled hl
  obtain ⟨l', hl', wait, item, placed, held⟩ := (coverage_putsOne _ r.p).line filled.line
  refine ⟨l', hl', wait, item, placed, fun some => ?_⟩
  have positive := List.length_pos_iff.2 some
  rw [held (by simp only; omega)]
  simp only [LineRec.heldUnits]
  omega

theorem expireExact_slot {s : State} {r : LineRef} {l : LineRec} (hl : s.line? r = some l) {i age : Nat} {u : UnitRec}
    (hs : s.su.slot i = .occupied u (.free age)) :
    (i ∈ substitutes s r l → (s.expireExact r).su.slot i = .occupied u (.earmarked r.p r.line)
        ∨ (s.expireExact r).su.slot i = .occupied u (.putting r.p r.line))
      ∧ (i ∉ substitutes s r l → (s.expireExact r).su.slot i = .occupied u (.free age)) := by
  have filled := expired_filled hl
  have puts := coverage_putsOne ((expiredState s r).fillLine (substituteTest r) r) r.p
  exact ⟨fun h => puts.earmarked (filled.taken i h u age hs), fun h => puts.free ((filled.slot i h).trans hs)⟩

/-- Settles O30. -/
theorem exactWaitExpires : Obligations.ExactWaitExpires := by
  intro p line l s due hl
  have stands := (Steady.refl s).expireExact ⟨p, line⟩
  obtain ⟨l', hl', wait, item, placed, held⟩ := expireExact_line hl
  refine ⟨(s.expireExact ⟨p, line⟩).flush, l', if_pos due, ?_, wait, item, placed, ?_, ?_, ?_, fun found hfound => ?_⟩
  · exact (line?_of_build (State.flush_build ..)).trans hl'
  · rw [State.flush_jc, stands.jc]
  · rw [State.flush_wf, stands.wf]
  · rw [State.flush_hc, stands.stopped]
  · have slots : found = substitutes s ⟨p, line⟩ l := by
      rw [hfound]
      refine congrArg (List.take l.uncovered) (List.filter_congr fun i _ => ?_)
      unfold mayFill
      cases (s.su.slot i).freeUnit <;> rfl
    rw [slots, State.flush_su]
    exact ⟨held, fun i u age hi => expireExact_slot hl hi⟩

end Sys2Proof.Proofs
end


section
/-! A unit lost from the shelf (R12, R13, R116): what a lost earmark does to its build, CHUTE_SCAN, and CHILL_EXPIRY by the
place of its unit (R115 to R118). -/

namespace Sys2Proof.Proofs

open Sys2Proof.Machine

/-! ### A lost earmark -/

/-- What a lost earmark changes where its build does not regather. -/
def lostT (p : Pos) : Part → Prop
  | .build .earmarks q | .build .covered q | .build .regatherDue q => q = p
  | x => handT (· = p) x

theorem handT_le_lostT (p : Pos) : handT (· = p) ≤ lostT p := by
  intro x h
  cases x
  case build k q => cases k <;> first | exact h | exact h.elim
  all_goals exact h

theorem lineLost_regathers {s : State} {r : LineRef} (putting : (s.build r.p).state = .putting)
    (idle : s.putPending r.p = false) : s.lineLost r = s.regather r.p := by
  unfold State.lineLost
  rw [putting]
  exact if_neg (by simp [idle])

theorem lineLost_pends {s : State} {r : LineRef} (putting : (s.build r.p).state = .putting)
    (pending : s.putPending r.p = true) :
    s.lineLost r = s.setBuild r.p { s.build r.p with regatherDue := true } := by
  unfold State.lineLost
  rw [putting]
  exact if_pos pending

theorem lineLost_beside {s : State} {r : LineRef} (h : (s.build r.p).state ≠ .putting ∨ s.putPending r.p = true) :
    Only (lostT r.p) s (s.lineLost r) := by
  by_cases putting : (s.build r.p).state = .putting
  · rw [lineLost_pends putting (h.resolve_left fun k => k putting)]
    refine (Only.refl _ s).setBuild r.p _ fun k hk => ?_
    have same := BuildPart.Same.refl (s.build r.p) k
    cases k
    case regatherDue => exact absurd rfl hk
    all_goals exact same
  · unfold State.lineLost
    split
    · exact (Only.refl _ s).handLine (handT_le_lostT r.p) rfl
    · exact absurd ‹_› putting
    · exact .refl _ s

/-- The state in which a line's earmark is gone. -/
def unearmarkedState (s : State) (r : LineRef) : State :=
  s.modLine r.p r.line (fun l => { l with earmarked := l.earmarked - 1 })

theorem earmarkLost_eq (s : State) (r : LineRef) : s.earmarkLost r = (unearmarkedState s r).lineLost r := rfl

theorem unearmarkedState_only (s : State) (r : LineRef) : Only (lostT r.p) s (unearmarkedState s r) :=
  (Only.refl _ s).modLine r.p r.line _ rfl (fun _ _ => rfl) (fun _ _ => rfl) (fun k => absurd rfl k)
    fun k => absurd rfl k

theorem unearmarkedState_line (s : State) (r : LineRef) :
    (unearmarkedState s r).line? r = (s.line? r).map (fun l => { l with earmarked := l.earmarked - 1 }) := by
  rw [unearmarkedState, line?_modLine, if_pos rfl]

theorem unearmarkedState_state (s : State) (r : LineRef) :
    ((unearmarkedState s r).build r.p).state = (s.build r.p).state := unearmarkedState_only s r (.build .state r.p) id

theorem unearmarkedState_pending (s : State) (r : LineRef) :
    (unearmarkedState s r).putPending r.p = s.putPending r.p := unearmarkedState_only s r (.putPending r.p) id

/-- What the earmarks of a line are where the earmarks of its build stand. -/
theorem line?_earmarks {s t : State} {r : LineRef} (h : (Part.build .earmarks r.p).Same s t) :
    (t.line? r).map (·.earmarked) = (s.line? r).map (·.earmarked) := by
  have h : (t.build r.p).lines.map lineEarmarks = (s.build r.p).lines.map lineEarmarks := h
  have first (u : State) : (u.line? r).map (·.earmarked)
      = (((u.build r.p).lines.map lineEarmarks)[r.line]?).map Prod.fst := by
    rw [List.getElem?_map, Option.map_map]
    rfl
  rw [first, first, h]

section
variable {s : State} {r : LineRef}

theorem earmarkLost_beside (h : (s.build r.p).state ≠ .putting ∨ s.putPending r.p = true) :
    Only (lostT r.p) s (s.earmarkLost r) := by
  refine (unearmarkedState_only s r).trans (lineLost_beside ?_)
  rwa [unearmarkedState_state, unearmarkedState_pending]

theorem earmarkLost_earmarks (h : (s.build r.p).state ≠ .putting ∨ s.putPending r.p = true) :
    ((s.earmarkLost r).line? r).map (·.earmarked) = (s.line? r).map (fun l => l.earmarked - 1) := by
  have state := unearmarkedState_state s r
  have pending := unearmarkedState_pending s r
  have earmarks : (Part.build .earmarks r.p).Same (unearmarkedState s r) (s.earmarkLost r) := by
    rw [earmarkLost_eq]
    by_cases putting : (s.build r.p).state = .putting
    · rw [lineLost_pends (state.trans putting) (pending.trans (h.resolve_left fun k => k putting))]
      show ((State.setBuild _ r.p _).build r.p).lines.map _ = _
      rw [State.setBuild_build_same]
    · unfold State.lineLost
      split
      · exact (Only.refl _ _).handLine (le_refl (handT (· = r.p))) rfl _ id
      · exact absurd ‹_› (state ▸ putting)
      · exact .refl _ _
  rw [line?_earmarks earmarks, unearmarkedState_line, Option.map_map]
  rfl

theorem earmarkLost_due (putting : (s.build r.p).state = .putting) (pending : s.putPending r.p = true) :
    ((s.earmarkLost r).build r.p).regatherDue = true := by
  rw [earmarkLost_eq, lineLost_pends ((unearmarkedState_state s r).trans putting)
    ((unearmarkedState_pending s r).trans pending), State.setBuild_build_same]

theorem earmarkLost_gathers (putting : (s.build r.p).state = .putting) (idle : s.putPending r.p = false)
    (h : ((s.earmarkLost r).build r.p).covered = false) : ((s.earmarkLost r).build r.p).state = .gathering
      ∧ ((s.earmarkLost r).build r.p).plan = []
      ∧ ((s.earmarkLost r).build r.p).gatherLeft = some s.jc.setup.gatherLimit := by
  rw [earmarkLost_eq, lineLost_regathers ((unearmarkedState_state s r).trans putting)
    ((unearmarkedState_pending s r).trans idle)] at h ⊢
  have gathers := regather_gathers h
  refine ⟨gathers.state, gathers.plan, ?_⟩
  rw [gathers.limit, (unearmarkedState_only s r).jc_eq id]

/-- What a lost earmark changes at most. -/
def lostGatherT (p : Pos) : Part → Prop := fun x => lostT p x ∨ gatherT (· = p) x

theorem earmarkLost_only (s : State) (r : LineRef) : Only (lostGatherT r.p) s (s.earmarkLost r) :=
  ((unearmarkedState_only s r).mono fun _ => .inl).lineLost (Q := (· = r.p)) (fun _ => .inr) rfl

/-- A slot without an EARMARKED or FREE unit stands. -/
theorem earmarkLost_slot {i : Nat} (h : ∀ u q l, s.su.slot i ≠ .occupied u (.earmarked q l))
    (h' : ∀ u age, s.su.slot i ≠ .occupied u (.free age)) :
    (s.earmarkLost r).su.slot i = s.su.slot i
      ∨ ((s.su.slot i).unit? = none ∧ ((s.earmarkLost r).su.slot i).unit? = none) := by
  have step := earmarkLost_only s r (.shelf fun _ => True) (by simp [lostGatherT, lostT, handT, gatherT, matchT, worksT]) i
  obtain same | ⟨u, age, q, l, free, -⟩ | ⟨u, q, l, marked, -⟩ | none := step
  · exact .inl same
  · exact absurd free (h' u age)
  · exact absurd marked (h u q l)
  · exact .inr none

end

/-! ### CHILL_EXPIRY (R115 to R118) -/

/-- The record of a unit that has expired. -/
def expiredUnit (u : UnitRec) : UnitRec := { u with expired := true }

section
variable {s : State} {n : UnitNo} {i : Nat} {u : UnitRec}

theorem execChillExpiry_shelf {st : ShelfState} (hi : s.su.slotOf n = some i) (hs : s.su.slot i = .occupied u st)
    (due : s.expires u = true) : exec (.chillExpiry n) s = finish (s.expireOnShelf i u st) := by
  show execChillExpiry n s = _
  simp only [execChillExpiry, hi, hs, due, if_true]

theorem execChillExpiry_placed {p : Pos} (hi : s.su.slotOf n = none) (hp : s.expiringBuild n = some p) :
    exec (.chillExpiry n) s = finish (s.expirePlaced p n) := by
  show execChillExpiry n s = _
  simp only [execChillExpiry, hi, hp]

/-- The state in which an EARMARKED unit that expires is RETURN, before its line loses the earmark. -/
def returnedState (s : State) (i : Nat) (u : UnitRec) : State :=
  (s.setSlot i (.occupied (expiredUnit u) .returned)).showShelf.dropEarmark u.number

theorem returnedState_su (s : State) (i : Nat) (u : UnitRec) : (returnedState s i u).su = { s.su with
    slots := s.su.slots.set i (.occupied (expiredUnit u) .returned)
    earmarkOrder := s.su.earmarkOrder.filter (fun v => decide (v ≠ u.number)) } := by
  rw [returnedState, State.dropEarmark, State.showShelf_su]
  rfl

/-- A lost earmark's changes beside the shelf. -/
theorem returnedState_only (s : State) (i : Nat) (u : UnitRec) :
    Only (fun x => panelT x ∨ x = .slots ∨ x = .units ∨ (∃ R, x = .shelf R) ∨ x = .earmarkOrder) s (returnedState s i u) := by
  refine (((Only.refl _ s).setSlot i _ (.inr (.inl rfl)) (fun k => absurd (.inr (.inr (.inl rfl))) k)
    fun R k => absurd (.inr (.inr (.inr (.inl ⟨R, rfl⟩)))) k).showShelf fun _ => .inl).dropEarmark
      (.inr (.inr (.inr (.inr rfl)))) u.number

/-- A FREE unit that expires. -/
theorem expireOnShelf_free {age : Nat} :
    s.expireOnShelf i u (.free age) = (s.setSlot i (.occupied (expiredUnit u) .returned)).pruneClocks := rfl

theorem expireOnShelf_earmarked {p : Pos} {l : Nat} :
    s.expireOnShelf i u (.earmarked p l) = (returnedState s i u).earmarkLost ⟨p, l⟩ := rfl

end

section
variable {s : State} {i : Nat} {u : UnitRec} {p : Pos} {l : Nat}

theorem returnedState_build (q : Pos) : (returnedState s i u).build q = s.build q :=
  (returnedState_only s i u).build_eq fun _ h => by simp [panelT] at h

theorem returnedState_putPending (q : Pos) : (returnedState s i u).putPending q = s.putPending q :=
  returnedState_only s i u (.putPending q) (by simp [panelT])

theorem returnedState_line (r : LineRef) : (returnedState s i u).line? r = s.line? r := line?_of_build (returnedState_build r.p)

theorem returnedState_lost_slot (hi : i < s.su.slots.length) :
    ((returnedState s i u).earmarkLost ⟨p, l⟩).su.slot i = .occupied (expiredUnit u) .returned := by
  have here : (returnedState s i u).su.slot i = .occupied (expiredUnit u) .returned := by
    rw [returnedState_su]
    exact (slot_set s.su i i _).trans (if_pos ⟨rfl, hi⟩)
  obtain same | ⟨none, -⟩ := earmarkLost_slot (s := returnedState s i u) (r := ⟨p, l⟩) (i := i)
    (fun _ _ _ k => by simp [here] at k) fun _ _ k => by simp [here] at k
  · exact same.trans here
  · simp [here, Slot.unit?] at none

theorem returnedState_lost_beside (h : (s.build p).state ≠ .putting ∨ s.putPending p = true) :
    ((returnedState s i u).earmarkLost ⟨p, l⟩).su = { s.su with
        slots := s.su.slots.set i (.occupied (expiredUnit u) .returned)
        earmarkOrder := s.su.earmarkOrder.filter (fun v => decide (v ≠ u.number)) }
      ∧ (((returnedState s i u).earmarkLost ⟨p, l⟩).line? ⟨p, l⟩).map (·.earmarked)
        = (s.line? ⟨p, l⟩).map (fun x => x.earmarked - 1)
      ∧ ((returnedState s i u).earmarkLost ⟨p, l⟩).hc = s.hc ∧ ((returnedState s i u).earmarkLost ⟨p, l⟩).pv = s.pv
      ∧ ((returnedState s i u).earmarkLost ⟨p, l⟩).cu = s.cu
      ∧ (((returnedState s i u).earmarkLost ⟨p, l⟩).build p).state = (s.build p).state := by
  have h' : ((returnedState s i u).build p).state ≠ .putting ∨ (returnedState s i u).putPending p = true := by
    rwa [returnedState_build, returnedState_putPending]
  have returned := returnedState_only s i u
  have lost := earmarkLost_beside (r := ⟨p, l⟩) h'
  refine ⟨?_, ?_, ?_, ?_, ?_, ?_⟩
  · rw [lost.su_eq (by simp [lostT, handT]), returnedState_su]
  · rw [earmarkLost_earmarks h', returnedState_line]
  · rw [lost.hc_eq id id fun _ => id, returned.hc_eq (by simp [panelT]) (by simp [panelT]) (by simp [panelT])]
  · rw [lost.pv_eq fun _ => id, returned.pv_eq (by simp [panelT])]
  · rw [lost.cu_eq id id, returned.cu_eq (by simp [panelT]) (by simp [panelT])]
  · exact Eq.trans (lost (.build .state p) id) (congrArg Build.state (returnedState_build (s := s) (i := i) (u := u) p))

end

/-! ### A placed unit that expires -/

/-- The record of a placed unit with a number, once it has expired. -/
def expiredPlaced (n : UnitNo) (x : Placed) : Placed :=
  if x.unit.number = n then { x with unit := expiredUnit x.unit } else x

/-- The state in which the placed unit's record is EXPIRED. -/
def markedExpired (s : State) (p : Pos) (n : UnitNo) : State :=
  s.setBuild p { s.build p with content := (s.build p).content.map (expiredPlaced n) }

theorem markedExpired_build (s : State) (p : Pos) (n : UnitNo) :
    (markedExpired s p n).build p = { s.build p with content := (s.build p).content.map (expiredPlaced n) } :=
  State.setBuild_build_same ..

theorem expiredPlaced_number (n : UnitNo) (x : Placed) : (expiredPlaced n x).unit.number = x.unit.number := by
  unfold expiredPlaced
  split <;> rfl

theorem expiredPlaced_removal (n : UnitNo) (x : Placed) (pu : Purpose) (g : Option Nat) :
    removalRecord pu (expiredPlaced n x) g = removalRecord pu x g := by
  unfold expiredPlaced
  split <;> rfl

theorem find?_expiredPlaced (n : UnitNo) (xs : List Placed) :
    (xs.map (expiredPlaced n)).find? (fun x => decide (x.unit.number = n))
      = (xs.find? (fun x => decide (x.unit.number = n))).map (expiredPlaced n) := by
  rw [List.find?_map]
  congr 2
  funext x
  simp [expiredPlaced_number]

/-- The unit that expires in a build is one of its content list. -/
theorem expiringBuild_placed {s : State} {n : UnitNo} {p : Pos} (h : s.expiringBuild n = some p) :
    ∃ x, (s.build p).content.find? (fun y => decide (y.unit.number = n)) = some x := by
  have found := List.find?_some h
  simp only [Bool.and_eq_true, List.any_eq_true, decide_eq_true_eq] at found
  obtain ⟨-, x, hx, number, -⟩ := found
  rw [← Option.isSome_iff_exists, List.find?_isSome]
  exact ⟨x, hx, decide_eq_true number⟩

theorem expirePlaced_raises {s : State} {p : Pos} {n : UnitNo} {x : Placed} (idle : s.put p = none)
    (state : (s.build p).state = .gathering ∨ (s.build p).state = .putting)
    (hx : (s.build p).content.find? (fun y => decide (y.unit.number = n)) = some x) : s.expirePlaced p n
      = (markedExpired s p n).raise p (.plain .chillExpired (some n) ((expiredPlaced n x).unit.exposure.getD 0)) := by
  have build := markedExpired_build s p n
  have counts : (markedExpired s p n).countsUnloading p = false := by
    unfold State.countsUnloading
    rw [build]
    obtain h | h := state <;> simp [h]
  have pending : (markedExpired s p n).putPending p = false := by
    show State.putPending s p = false
    rw [State.putPending, idle]
  have raises : (markedExpired s p n).raiseChill p n
      = (markedExpired s p n).raise p (.plain .chillExpired (some n) ((expiredPlaced n x).unit.exposure.getD 0)) := by
    rw [State.raiseChill, build]
    dsimp only
    rw [find?_expiredPlaced, hx]
    rfl
  rw [← raises]
  show (if (markedExpired s p n).countsUnloading p then markedExpired s p n
    else if (markedExpired s p n).putPending p then (markedExpired s p n).holdBack p n
    else (markedExpired s p n).raiseChill p n) = _
  rw [counts, pending]
  rfl

theorem baseline_of_wf {s t : State} (h : t.wf = s.wf) (p : Pos) : t.baseline p = s.baseline p := by
  simp only [State.baseline, State.stable, h]

theorem heldFirst_steady (s : State) (p : Pos) (saved : SavedState) (idx : Nat) (c : Raised) (rest : List Raised) :
    (heldFirst s p saved idx c rest).wf = s.wf ∧ (heldFirst s p saved idx c rest).hc.stopped = s.hc.stopped := by
  have told := told_only s p (c :: rest)
  unfold heldFirst
  dsimp only
  rw [State.showBuild_wf, State.showBuild_hc]
  exact ⟨told.wf_eq id, told.stopped_eq id⟩

section
variable {s : State} {p : Pos} {n : UnitNo} {x : Placed} (hn : s.hold p = none) (idle : s.put p = none) (v : Nat)
include hn idle

/-- CHILL_EXPIRED of a build without a hold waits while STOPPED (R89, R118). -/
theorem raise_chill_stopped (stopped : s.hc.stopped = true) :
    ((s.raise p (.plain .chillExpired (some n) v)).build p).state = .held
      ∧ (s.raise p (.plain .chillExpired (some n) v)).hold p
        = some (Hold.first (s.build p).savedState (s.standIndex p) (.plain .chillExpired (some n) v))
      ∧ (s.raise p (.plain .chillExpired (some n) v)).put p = none := by
  have waits := (heldFirst_steady s p (s.build p).savedState (s.standIndex p) (.plain .chillExpired (some n) v) []).2
  rw [State.raise, raiseAt_first rfl hn, tryRemoval_stands (.inl (waits.trans stopped)), State.showTray_build,
    State.showTray_hold, State.showTray_put, heldFirst_build, heldFirst_hold, heldFirst_put]
  exact ⟨rfl, rfl, idle⟩

/-- CHILL_EXPIRED of a build without a hold starts its removal at once (R118). -/
theorem raise_chill_starts (going : s.hc.stopped = false)
    (hx : (s.build p).content.find? (fun y => decide (y.unit.number = n)) = some x) :
    ((s.raise p (.plain .chillExpired (some n) v)).build p).state = .held
      ∧ (s.raise p (.plain .chillExpired (some n) v)).hold p
        = some { Hold.first (s.build p).savedState (s.standIndex p) (.plain .chillExpired (some n) v) with
          resolving := .chill }
      ∧ (s.raise p (.plain .chillExpired (some n) v)).put p = some (removalRecord .chill x (s.baseline p)) := by
  set c : Raised := .plain .chillExpired (some n) v with hc
  set u := heldFirst s p (s.build p).savedState (s.standIndex p) c [] with hu
  obtain ⟨wf, stopped⟩ := heldFirst_steady s p (s.build p).savedState (s.standIndex p) c []
  have build : u.build p = { s.build p with state := .held } := heldFirst_build ..
  have hold : u.hold p = some (Hold.first (s.build p).savedState (s.standIndex p) c) := heldFirst_hold ..
  have due : u.removalDue p = some (.chill, x) :=
    removalDue_chill (by rw [build]) hold nofun rfl rfl (by rw [build]; exact hx)
  have starts := tryRemoval_chill (stopped.trans going) ((heldFirst_put ..).trans idle) due hold
  have held := raiseAt_first (s := s) (p := p) (saved := (s.build p).savedState) (idx := s.standIndex p) (cs := [c]) rfl hn
  rw [State.raise, held, ← hu, starts, State.showTray_build, State.showTray_hold, State.showTray_put, startRemoval_put,
    startRemoval_hold]
  refine ⟨?_, State.setHold_hold_same .., ?_⟩
  · rw [← starts, tryRemoval_build, build]
  · rw [baseline_of_wf (s := s) (by exact wf)]

end

/-- Settles O14. -/
theorem chillExpiryActsByPlace : Obligations.ChillExpiryActsByPlace := by
  refine fun n s => ⟨fun i u age hi hs due => ?_, fun i u p l hi hs due => ?_, fun p hi hp idle hn state => ?_⟩
  · refine ⟨_, execChillExpiry_shelf hi hs due, ?_⟩
    rw [expireOnShelf_free]
    simp only [State.flush_su, State.flush_hc, State.flush_be, State.flush_pv, State.flush_cu, State.flush_lp,
      State.flush_jc]
    exact ⟨rfl, rfl, rfl, rfl, rfl, rfl, rfl, rfl⟩
  · refine ⟨_, execChillExpiry_shelf hi hs due, ?_, fun h => ?_, fun putting pending => ?_⟩
    · rw [State.flush_su, expireOnShelf_earmarked]
      exact returnedState_lost_slot (occupied_lt hs)
    · rw [State.flush_su, State.flush_hc, State.flush_pv, State.flush_cu, State.flush_build,
        line?_of_build (State.flush_build ..), expireOnShelf_earmarked]
      exact returnedState_lost_beside h
    · rw [State.flush_build, expireOnShelf_earmarked]
      exact earmarkLost_due ((congrArg Build.state (returnedState_build p)).trans putting)
        ((returnedState_putPending p).trans pending)
  · obtain ⟨x, hx⟩ := expiringBuild_placed hp
    have build := markedExpired_build s p n
    have saved : ((markedExpired s p n).build p).savedState = (s.build p).savedState := by rw [build]; rfl
    have runs := expirePlaced_raises idle state hx
    cases going : s.hc.stopped with
    | true =>
      obtain ⟨held, hold, put⟩ := raise_chill_stopped (s := markedExpired s p n) (n := n) hn idle
        ((expiredPlaced n x).unit.exposure.getD 0) going
      rw [← runs] at held hold put
      refine ⟨_, _, execChillExpiry_placed hi hp, ?_, (State.flush_hold ..).trans hold, rfl, rfl, rfl, rfl, saved, nofun,
        fun _ => ⟨rfl, (State.flush_put ..).trans put⟩⟩
      rwa [State.flush_build]
    | false =>
      have hx' : ((markedExpired s p n).build p).content.find? (fun y => decide (y.unit.number = n))
          = some (expiredPlaced n x) := by
        rw [build]
        dsimp only
        rw [find?_expiredPlaced, hx]
        rfl
      obtain ⟨held, hold, put⟩ := raise_chill_starts (s := markedExpired s p n) hn idle
        ((expiredPlaced n x).unit.exposure.getD 0) going hx'
      rw [← runs] at held hold put
      refine ⟨_, _, execChillExpiry_placed hi hp, ?_, (State.flush_hold ..).trans hold, rfl, rfl, rfl, rfl, saved,
        fun _ => ⟨rfl, fun y hy => ?_⟩, nofun⟩
      · rwa [State.flush_build]
      · obtain rfl : x = y := Option.some.inj (hx.symm.trans hy)
        rw [State.flush_put, put, expiredPlaced_removal]
        rfl

end Sys2Proof.Proofs
end


section
/-! CHUTE_SCAN (R12, R13): the record a scan stands for, and what its removal leaves. -/

namespace Sys2Proof.Proofs

open Sys2Proof.Machine

/-! ### The record a chute scan stands for (R12) -/

theorem firstSome_eq_some {α β : Type} {f : α → Option β} {xs : List α} {y : β} (h : firstSome f xs = some y) :
    ∃ as x bs, xs = as ++ x :: bs ∧ f x = some y ∧ ∀ a ∈ as, f a = none := by
  induction xs with
  | nil => cases h
  | cons x xs ih =>
    cases hx : f x with
    | some z =>
      rw [firstSome, hx] at h
      exact ⟨[], x, xs, rfl, hx.trans h, nofun⟩
    | none =>
      rw [firstSome, hx] at h
      obtain ⟨as, z, bs, e, hz, none⟩ := ih h
      refine ⟨x :: as, z, bs, by rw [e, List.cons_append], hz, fun a ha => ?_⟩
      obtain rfl | ha := List.mem_cons.1 ha
      · exact hx
      · exact none a ha

theorem firstSome_eq_none {α β : Type} {f : α → Option β} {xs : List α} (h : firstSome f xs = none) :
    ∀ x ∈ xs, f x = none := by
  induction xs with
  | nil => nofun
  | cons x xs ih =>
    cases hx : f x with
    | some z =>
      rw [firstSome, hx] at h
      cases h
    | none =>
      rw [firstSome, hx] at h
      intro y hy
      obtain rfl | hy := List.mem_cons.1 hy
      · exact hx
      · exact ih h y hy

/-- A slot's unit is RETURN and of a code, with an exposure. -/
def ReturnedOf (c : ItemCode) (x : Slot) (e : Nat) : Prop :=
  ∃ u, x = .occupied u .returned ∧ u.label.code = c ∧ u.exposure.getD 0 = e

theorem mostExposedReturn_other {c : ItemCode} {x : Slot} (h : ∀ e, ¬ ReturnedOf c x e) (i : Nat) (xs : List (Nat × Slot)) :
    mostExposedReturn c ((i, x) :: xs) = mostExposedReturn c xs := by
  cases x with
  | empty g => rfl
  | reserved p => rfl
  | occupied u st =>
    cases st with
    | returned => exact if_neg fun code => h _ ⟨u, rfl, code, rfl⟩
    | free age => rfl
    | earmarked p l => rfl
    | putting p l => rfl

section
variable {c : ItemCode} {x : Slot} {e : Nat} (h : ReturnedOf c x e) (i : Nat) {xs : List (Nat × Slot)}
include h

theorem mostExposedReturn_only (none : mostExposedReturn c xs = none) :
    mostExposedReturn c ((i, x) :: xs) = some (i, e) := by
  obtain ⟨u, rfl, code, rfl⟩ := h
  rw [mostExposedReturn, none]
  exact if_pos code

theorem mostExposedReturn_first {j d : Nat} (some : mostExposedReturn c xs = some (j, d)) :
    mostExposedReturn c ((i, x) :: xs) = if d ≤ e then .some (i, e) else .some (j, d) := by
  obtain ⟨u, rfl, code, rfl⟩ := h
  rw [mostExposedReturn, some]
  exact if_pos code

end

theorem mostExposedReturn_none {c : ItemCode} {xs : List (Nat × Slot)} (h : mostExposedReturn c xs = none) :
    ∀ z ∈ xs, ∀ e, ¬ ReturnedOf c z.2 e := by
  induction xs with
  | nil => nofun
  | cons y xs ih =>
    by_cases hy : ∃ e, ReturnedOf c y.2 e
    · obtain ⟨e, hy⟩ := hy
      cases hm : mostExposedReturn c xs with
      | none =>
        have := mostExposedReturn_only hy y.1 hm
        cases h.symm.trans this
      | some z =>
        have := mostExposedReturn_first (j := z.1) (d := z.2) hy y.1 hm
        rw [show mostExposedReturn c (y :: xs) = _ from this] at h
        split at h <;> cases h
    · have other := not_exists.1 hy
      rw [show mostExposedReturn c (y :: xs) = _ from mostExposedReturn_other other y.1 xs] at h
      intro z hz
      obtain rfl | hz := List.mem_cons.1 hz
      · exact other
      · exact ih h z hz

/-- The unit chosen is RETURN and of the code, the most exposed, in the first place among equals. -/
theorem mostExposedReturn_some {c : ItemCode} {xs : List (Nat × Slot)} (sorted : xs.Pairwise (fun x y => x.1 < y.1))
    {i e : Nat} (h : mostExposedReturn c xs = some (i, e)) : (∃ x, (i, x) ∈ xs ∧ ReturnedOf c x e)
      ∧ ∀ z ∈ xs, ∀ d, ReturnedOf c z.2 d → d < e ∨ (d = e ∧ i ≤ z.1) := by
  induction xs generalizing i e with
  | nil => cases h
  | cons y xs ih =>
    obtain ⟨first, sorted⟩ := List.pairwise_cons.1 sorted
    by_cases hy : ∃ a, ReturnedOf c y.2 a
    · obtain ⟨a, hy⟩ := hy
      have alone {d : Nat} (hd : ReturnedOf c y.2 d) : d = a := by
        obtain ⟨u, e₁, -, rfl⟩ := hy
        obtain ⟨v, e₂, -, rfl⟩ := hd
        cases e₁.symm.trans e₂
        rfl
      cases hm : mostExposedReturn c xs with
      | none =>
        cases h.symm.trans (mostExposedReturn_only hy y.1 hm)
        refine ⟨⟨y.2, List.mem_cons_self, hy⟩, fun z hz d hd => ?_⟩
        obtain rfl | hz := List.mem_cons.1 hz
        · exact .inr ⟨alone hd, le_rfl⟩
        · exact absurd hd (mostExposedReturn_none hm z hz d)
      | some w =>
        obtain ⟨⟨x, hx, found⟩, best⟩ := ih sorted (i := w.1) (e := w.2) hm
        have chosen := h.symm.trans (mostExposedReturn_first (j := w.1) (d := w.2) hy y.1 hm)
        split at chosen
        case isTrue more =>
          cases chosen
          refine ⟨⟨y.2, List.mem_cons_self, hy⟩, fun z hz d hd => ?_⟩
          obtain rfl | hz := List.mem_cons.1 hz
          · exact .inr ⟨alone hd, le_rfl⟩
          · have := best z hz d hd
            have := first z hz
            omega
        case isFalse less =>
          cases chosen
          refine ⟨⟨x, List.mem_cons_of_mem _ hx, found⟩, fun z hz d hd => ?_⟩
          obtain rfl | hz := List.mem_cons.1 hz
          · have := alone hd
            omega
          · exact best z hz d hd
    · have other := not_exists.1 hy
      obtain ⟨⟨x, hx, found⟩, best⟩ := ih sorted (h.symm.trans (mostExposedReturn_other other y.1 xs)).symm
      refine ⟨⟨x, List.mem_cons_of_mem _ hx, found⟩, fun z hz d hd => ?_⟩
      obtain rfl | hz := List.mem_cons.1 hz
      · exact absurd hd (other d)
      · exact best z hz d hd

theorem numbered_sorted {α : Type} (n : Nat) (xs : List α) : (numbered n xs).Pairwise (fun x y => x.1 < y.1) := by
  induction xs generalizing n with
  | nil => exact .nil
  | cons x xs ih =>
    refine List.pairwise_cons.2 ⟨fun y hy => ?_, ih (n + 1)⟩
    obtain ⟨hn, -⟩ := mem_numbered.1 (show (y.1, y.2) ∈ numbered (n + 1) xs from hy)
    exact hn

theorem earmarkedOf_eq_some {s : State} {c : ItemCode} {n : UnitNo} {i : Nat} : s.earmarkedOf c n = some i ↔
    s.su.slotOf n = some i ∧ ∃ u p l, s.su.slot i = .occupied u (.earmarked p l) ∧ u.label.code = c := by
  unfold State.earmarkedOf
  cases s.su.slotOf n with
  | none => simp
  | some j =>
    dsimp only
    split
    case h_1 u p l hs =>
      split
      case isTrue code =>
        refine ⟨fun h => ?_, fun ⟨h, _⟩ => h⟩
        cases h
        exact ⟨rfl, u, p, l, hs, code⟩
      case isFalse code =>
        refine ⟨nofun, fun ⟨h, v, q, k, hv, hc⟩ => ?_⟩
        cases h
        rw [hs] at hv
        cases hv
        exact absurd hc code
    case h_2 other =>
      refine ⟨nofun, fun ⟨h, v, q, k, hv, _⟩ => ?_⟩
      cases h
      exact absurd hv (other v q k)

theorem slotOf_number {su : Stock} {n : UnitNo} {i : Nat} (h : su.slotOf n = some i) {u : UnitRec} {st : ShelfState}
    (hs : su.slot i = .occupied u st) : u.number = n := by
  have here := (slot_of_findIdx h).2
  rw [hs] at here
  exact of_decide_eq_true here

theorem isFreeOf_iff {c : ItemCode} {x : Slot} :
    x.isFreeOf c = true ↔ ∃ u age, x = .occupied u (.free age) ∧ u.label.code = c := by
  unfold Slot.isFreeOf
  cases hu : x.freeUnit with
  | none =>
    refine ⟨nofun, fun ⟨u, age, hx, _⟩ => ?_⟩
    rw [freeUnit_eq_some.2 ⟨age, hx⟩] at hu
    cases hu
  | some v =>
    obtain ⟨age, rfl⟩ := freeUnit_eq_some.1 hu
    refine decide_eq_true_iff.trans ⟨fun h => ⟨v, age, rfl, h⟩, fun ⟨u, a, hx, h⟩ => ?_⟩
    cases hx
    exact h

theorem slot_mem {su : Stock} {i : Nat} (h : i < su.slots.length) : su.slot i ∈ su.slots := by
  have here : su.slot i = su.slots[i] := by simp [Stock.slot, h]
  rw [here]
  exact List.getElem_mem h

theorem slot_below_findIdx {su : Stock} {test : Slot → Bool} {i j : Nat} (h : su.slots.findIdx? test = some i) (hj : j < i) :
    test (su.slot j) = false := by
  obtain ⟨hi, -, below⟩ := List.findIdx?_eq_some_iff_getElem.1 h
  have beside : j < su.slots.length := by omega
  simpa [Stock.slot, beside] using below j hj

section
variable {s : State} {c : ItemCode} {i j : Nat}

theorem mem_numbered_of_slot {u : UnitRec} {st : ShelfState} (hs : s.su.slot i = .occupied u st) :
    (i, Slot.occupied u st) ∈ numbered 0 s.su.slots := mem_numbered_slot.2 ⟨occupied_lt hs, hs⟩

/-- Without a RETURN unit of the code none is chosen by exposure. -/
theorem no_returned (h : mostExposedReturn c (numbered 0 s.su.slots) = none) (j : Nat) (v : UnitRec)
    (hv : s.su.slot j = .occupied v .returned) : v.label.code ≠ c := fun code =>
  mostExposedReturn_none h _ (mem_numbered_of_slot hv) _ ⟨v, rfl, code, rfl⟩

theorem no_free (h : s.su.slots.findIdx? (Slot.isFreeOf c) = none) (j : Nat) (v : UnitRec) (age : Nat)
    (hv : s.su.slot j = .occupied v (.free age)) : v.label.code ≠ c := fun code => by
  have := List.findIdx?_eq_none_iff.1 h _ (slot_mem (occupied_lt hv))
  rw [isFreeOf_iff.2 ⟨v, age, hv, code⟩] at this
  cases this

theorem chuteChoice_stands (h : s.chuteChoice c = some i) : s.ChuteStandsFor c i := by
  unfold State.chuteChoice at h
  split at h
  case h_1 k e hk =>
    obtain rfl := Option.some.inj h
    obtain ⟨⟨x, hx, u, rfl, code, exposure⟩, best⟩ := mostExposedReturn_some (numbered_sorted 0 s.su.slots) hk
    obtain ⟨-, hs⟩ := mem_numbered_slot.1 hx
    refine ⟨u, .returned, hs, code, .inl ⟨rfl, fun j v hv hc => ?_⟩⟩
    rw [exposure]
    exact best _ (mem_numbered_of_slot hv) _ ⟨v, rfl, hc, rfl⟩
  case h_2 returned =>
    split at h
    case h_1 k hk =>
      obtain rfl := Option.some.inj h
      obtain ⟨u, age, hs, code⟩ := isFreeOf_iff.1 (slot_of_findIdx hk).2
      refine ⟨u, .free age, hs, code, .inr ⟨no_returned returned, .inl ⟨⟨age, rfl⟩, fun j v a hv hc => ?_⟩⟩⟩
      by_contra below
      have := slot_below_findIdx (j := j) hk (by omega)
      rw [isFreeOf_iff.2 ⟨v, a, hv, hc⟩] at this
      cases this
    case h_2 free =>
      obtain ⟨as, n, bs, order, found, none⟩ := firstSome_eq_some h
      obtain ⟨hn, u, p, l, hs, code⟩ := earmarkedOf_eq_some.1 found
      have number := slotOf_number hn hs
      refine ⟨u, .earmarked p l, hs, code, .inr ⟨no_returned returned, .inr ⟨no_free free, ⟨p, l, rfl⟩, number ▸ hn,
        bs.reverse, as.reverse, ?_, fun m hm j v q k hj hv hc => ?_⟩⟩⟩
      · rw [number, ← List.reverse_reverse s.su.earmarkOrder, order]
        simp
      · have := none m (List.mem_reverse.1 hm)
        rw [earmarkedOf_eq_some.2 ⟨hj, v, q, k, hv, hc⟩] at this
        cases this

/-- Two splits of a list at a member that none of a kind follows are the same. -/
theorem last_unique {α : Type} {P : α → Prop} {xs ys xs' ys' : List α} {n m : α} (h : xs ++ n :: ys = xs' ++ m :: ys')
    (hn : P n) (hm : P m) (after : ∀ a ∈ ys, ¬ P a) (after' : ∀ a ∈ ys', ¬ P a) : n = m := by
  obtain ⟨as, rfl, e⟩ | ⟨as, rfl, e⟩ := List.append_eq_append_iff.1 h
  · cases as with
    | nil => exact (List.cons.inj e).1
    | cons a as =>
      obtain ⟨rfl, rfl⟩ := List.cons.inj e
      exact absurd hm (after m (by simp))
  · cases as with
    | nil => exact (List.cons.inj e).1.symm
    | cons a as =>
      obtain ⟨rfl, rfl⟩ := List.cons.inj e
      exact absurd hn (after' n (by simp))

theorem standsFor_unique (hi : s.ChuteStandsFor c i) (hj : s.ChuteStandsFor c j) : i = j := by
  obtain ⟨u, st, hu, codeU, kindU⟩ := hi
  obtain ⟨v, st', hv, codeV, kindV⟩ := hj
  obtain ⟨rfl, mostU⟩ | ⟨noneU, kindU⟩ := kindU
  · obtain ⟨rfl, mostV⟩ | ⟨noneV, -⟩ := kindV
    · have := mostU j v hv codeV
      have := mostV i u hu codeU
      omega
    · exact absurd codeU (noneV i u hu)
  · obtain ⟨rfl, -⟩ | ⟨-, kindV⟩ := kindV
    · exact absurd codeV (noneU j v hv)
    · obtain ⟨⟨age, rfl⟩, lowU⟩ | ⟨freeU, ⟨p, l, rfl⟩, slotU, xs, ys, orderU, lastU⟩ := kindU
      · obtain ⟨⟨age', rfl⟩, lowV⟩ | ⟨freeV, -⟩ := kindV
        · have := lowU j v age' hv codeV
          have := lowV i u age hu codeU
          omega
        · exact absurd codeU (freeV i u age hu)
      · obtain ⟨⟨age', rfl⟩, -⟩ | ⟨-, ⟨p', l', rfl⟩, slotV, xs', ys', orderV, lastV⟩ := kindV
        · exact absurd codeV (freeU j v age' hv)
        · have number := last_unique (P := fun n => ∃ k w q m, s.su.slotOf n = some k
              ∧ s.su.slot k = .occupied w (.earmarked q m) ∧ w.label.code = c) (orderU.symm.trans orderV)
            ⟨i, u, p, l, slotU, hu, codeU⟩ ⟨j, v, p', l', slotV, hv, codeV⟩
            (fun n hn ⟨k, w, q, m, hk, hw, code⟩ => lastU n hn k w q m hk hw code)
            (fun n hn ⟨k, w, q, m, hk, hw, code⟩ => lastV n hn k w q m hk hw code)
          rw [number, slotV] at slotU
          exact (Option.some.inj slotU).symm

theorem chuteChoice_ne_none (h : s.ChuteStandsFor c i) : s.chuteChoice c ≠ none := by
  obtain ⟨u, st, hs, code, kind⟩ := h
  intro none
  unfold State.chuteChoice at none
  split at none
  case h_1 => cases none
  case h_2 returned =>
    split at none
    case h_1 => cases none
    case h_2 free =>
      obtain ⟨rfl, -⟩ | ⟨-, ⟨⟨age, rfl⟩, -⟩ | ⟨-, ⟨p, l, rfl⟩, hi, xs, ys, order, -⟩⟩ := kind
      · exact no_returned returned i u hs code
      · exact no_free free i u age hs code
      · have := firstSome_eq_none none u.number (by rw [order]; simp)
        rw [earmarkedOf_eq_some.2 ⟨hi, u, p, l, hs, code⟩] at this
        cases this

/-- The record a scan takes is the one of R12. -/
theorem chuteChoice_iff : s.chuteChoice c = some i ↔ s.ChuteStandsFor c i := by
  refine ⟨chuteChoice_stands, fun h => ?_⟩
  obtain ⟨j, hj⟩ := Option.ne_none_iff_exists'.1 (chuteChoice_ne_none h)
  rw [hj, standsFor_unique h (chuteChoice_stands hj)]

theorem chuteChoice_putting (h : ∀ i u st, s.su.slot i = .occupied u st → u.label.code = c → ∃ p l, st = .putting p l) :
    s.chuteChoice c = none := by
  by_contra some
  obtain ⟨j, hj⟩ := Option.ne_none_iff_exists'.1 some
  obtain ⟨u, st, hs, code, kind⟩ := chuteChoice_stands hj
  obtain ⟨p, l, rfl⟩ := h j u st hs code
  obtain ⟨k, -⟩ | ⟨-, ⟨⟨_, k⟩, -⟩ | ⟨-, ⟨_, _, k⟩, -⟩⟩ := kind <;> cases k

end

/-! ### The record leaves the device (R13) -/

/-- Whether a build's state has no removal that a slot or a cause starts. -/
def NoRemoval (b : Build) : Prop := b.state ≠ .held ∧ b.state ≠ .unloading

theorem removalDue_none {s : State} {p : Pos} (h : NoRemoval (s.build p)) : s.removalDue p = none := by
  unfold State.removalDue
  split
  case h_1 held => exact absurd held h.1
  case h_2 unloading => exact absurd unloading h.2
  case h_3 => rfl

theorem tryRemoval_put {s : State} {p : Pos} (h : NoRemoval (s.build p)) (q : Pos) :
    (s.tryRemoval q).put p = s.put p := by
  by_cases e : p = q
  · subst e
    rw [tryRemoval_stands (.inr (.inr (removalDue_none h)))]
  · exact (Only.refl _ s).tryRemoval (le_refl (removalT (· = q))) rfl (.put p) e

theorem giveTo_put (ps : List Pos) {s : State} {p : Pos} (h : NoRemoval (s.build p)) :
    (State.giveTo ps s).put p = s.put p := by
  induction ps generalizing s with
  | nil => rfl
  | cons q ps ih =>
    cases free : s.su.lowestEmpty with
    | none => rw [giveTo_none free]
    | some i =>
      have kept : ∀ u : State, u.build p = s.build p → u.put p = s.put p →
          ((u.showShelf.showPositionLamp q).tryRemoval q).build p = s.build p
            ∧ ((u.showShelf.showPositionLamp q).tryRemoval q).put p = s.put p := fun u build put => by
        have build' : (u.showShelf.showPositionLamp q).build p = s.build p := by
          rw [State.showPositionLamp_build, State.showShelf_build, build]
        refine ⟨(tryRemoval_build ..).trans build', (tryRemoval_put (by rwa [build']) q).trans ?_⟩
        rw [State.showPositionLamp_put, State.showShelf_put, put]
      obtain ⟨build, put⟩ : (givenState s q i).build p = s.build p ∧ (givenState s q i).put p = s.put p := kept _ rfl rfl
      rw [giveTo_some free, ih (by rwa [build]), put]

theorem emptySlot_put {s : State} {p : Pos} (h : NoRemoval (s.build p)) (i : Nat) (g : Option Seq) :
    (s.emptySlot i g).put p = s.put p := by
  unfold State.emptySlot State.giveSlots
  dsimp only
  rw [giveTo_put, State.showShelf_put]
  · rfl
  · rw [State.showShelf_build]
    exact h

/-- What a unit that leaves its slot for the chute changes, beside what its earmark did. -/
def chuteT : Part → Prop
  | .earmarkOrder | .chuteLamp | .clocks => True
  | x => emptyT (fun _ => True) x

theorem emptyT_le_chuteT : emptyT (fun _ => True) ≤ chuteT := by
  intro x h
  cases x <;> first | exact h | trivial

theorem Only.setChute {T : Part → Prop} {a s : State} (h : Only T a s) (hT : T .chuteLamp) (v : Colour) :
    Only T a (s.setSu { s.su with chuteLamp := v }) := h.trans fun x hx => by
  have same := Part.Same.refl s x
  cases x
  case chuteLamp => exact absurd hT hx
  all_goals exact same

/-- The state a unit leaves at the chute, before its line loses an earmark. -/
def chutedState (s : State) (i : Nat) (u : UnitRec) : State :=
  let t := (s.dropEarmark u.number).emptySlot i none
  (t.setSu { t.su with chuteLamp := .green }).showShelf.pruneClocks

section
variable {s : State} {i : Nat} {u : UnitRec}

theorem chuteRemove_stays {st : ShelfState} (hs : s.su.slot i = .occupied u st) (h : ∀ p l, st ≠ .earmarked p l) :
    s.chuteRemove i = chutedState s i u := by
  unfold State.chuteRemove
  rw [hs]
  cases st with
  | earmarked p l => exact absurd rfl (h p l)
  | free age => rfl
  | putting p l => rfl
  | returned => rfl

theorem chuteRemove_loses {p : Pos} {l : Nat} (hs : s.su.slot i = .occupied u (.earmarked p l)) :
    s.chuteRemove i = (chutedState s i u).earmarkLost ⟨p, l⟩ := by
  unfold State.chuteRemove
  rw [hs]
  rfl

theorem chutedState_only (s : State) (i : Nat) (u : UnitRec) : Only chuteT s (chutedState s i u) := by
  have dropped : Only chuteT s (s.dropEarmark u.number) := (Only.refl _ s).dropEarmark trivial _
  have emptied := dropped.emptySlot ((giveT_le_emptyT _).trans emptyT_le_chuteT) trivial (fun _ _ => trivial) i none
    (.inl ⟨trivial, fun _ => trivial⟩)
  exact ((emptied.setChute trivial _).showShelf fun x hx => by cases x <;> first | exact hx | exact hx.elim).pruneClocks
    trivial

theorem chutedState_slots : (chutedState s i u).su.slots = ((s.dropEarmark u.number).emptySlot i none).su.slots := by
  show (State.showShelf _).su.slots = _
  rw [State.showShelf_su]
  rfl

theorem chutedState_slot (hi : i < s.su.slots.length) (j : Nat) :
    ((chutedState s i u).su.slot j).unit? = if j = i then none else (s.su.slot j).unit? := by
  rw [slot_of_slots chutedState_slots]
  obtain same | ⟨⟨k, was⟩, q, -, now⟩ := emptySlot_slot (s.dropEarmark u.number) hi none j
  · rw [same]
    by_cases e : j = i
    · rw [if_pos e, if_pos e]
      rfl
    · rw [if_neg e, if_neg e]
      rfl
  · rw [now]
    by_cases e : j = i
    · rw [if_pos e]
      rfl
    · rw [if_neg e] at was ⊢
      have gone := (congrArg Slot.unit? was).symm
      exact gone

theorem chutedState_order (s : State) (i : Nat) (u : UnitRec) : (chutedState s i u).su.earmarkOrder
    = s.su.earmarkOrder.filter (fun n => decide (n ≠ u.number)) := by
  have emptied := (Only.refl _ (s.dropEarmark u.number)).emptySlot (giveT_le_emptyT (fun _ => True)) trivial
    (fun _ _ => trivial) i none (.inl ⟨trivial, fun _ => trivial⟩) .earmarkOrder id
  show (State.showShelf _).su.earmarkOrder = _
  rw [State.showShelf_su]
  exact emptied

theorem chutedState_lamp (s : State) (i : Nat) (u : UnitRec) : (chutedState s i u).su.chuteLamp = .green := by
  show (State.showShelf _).su.chuteLamp = _
  rw [State.showShelf_su]
  rfl

theorem chutedState_put {p : Pos} (h : NoRemoval (s.build p)) : (chutedState s i u).put p = s.put p := by
  show (State.showShelf _).put p = _
  rw [State.showShelf_put]
  exact emptySlot_put (s := s.dropEarmark u.number) h i none

theorem chutedState_build (p : Pos) : (chutedState s i u).build p = s.build p :=
  (chutedState_only s i u).build_eq fun _ => id

theorem chutedState_pending {p : Pos} (h : (s.build p).state = .putting) :
    (chutedState s i u).putPending p = s.putPending p := by
  rw [State.putPending, State.putPending, chutedState_put ⟨by simp [h], by simp [h]⟩]

end

/-! ### CHUTE_SCAN -/

/-- What a chute scan changes. -/
def scanT (p : Pos) : Part → Prop := fun x => chuteT x ∨ lostGatherT p x

section
variable {s : State} {i : Nat} {u : UnitRec} {p : Pos} {l : Nat}

theorem chuted_lost_only (s : State) (i : Nat) (u : UnitRec) (p : Pos) (l : Nat) :
    Only (scanT p) s ((chutedState s i u).earmarkLost ⟨p, l⟩) :=
  ((chutedState_only s i u).mono fun _ => .inl).trans ((earmarkLost_only (chutedState s i u) ⟨p, l⟩).mono fun _ => .inr)

theorem chuteRemove_only {st : ShelfState} (hs : s.su.slot i = .occupied u st) :
    ∃ p, Only (scanT p) s (s.chuteRemove i) := by
  by_cases h : ∃ p l, st = .earmarked p l
  · obtain ⟨p, l, rfl⟩ := h
    rw [chuteRemove_loses hs]
    exact ⟨p, chuted_lost_only s i u p l⟩
  · rw [chuteRemove_stays hs fun p l e => h ⟨p, l, e⟩]
    exact ⟨.a, (chutedState_only s i u).mono fun _ => .inl⟩

/-- A lost earmark changes the unit of no slot. -/
theorem earmarkLost_unit (t : State) (r : LineRef) (j : Nat) :
    ((t.earmarkLost r).su.slot j).unit? = (t.su.slot j).unit? :=
  earmarkLost_only t r .units (by simp [lostGatherT, lostT, handT, gatherT, matchT, worksT]) j

theorem earmarkLost_lamp (t : State) (r : LineRef) : (t.earmarkLost r).su.chuteLamp = t.su.chuteLamp :=
  earmarkLost_only t r .chuteLamp (by simp [lostGatherT, lostT, handT, gatherT, matchT, worksT])

theorem chuteRemove_unit {st : ShelfState} (hs : s.su.slot i = .occupied u st) (j : Nat) :
    ((s.chuteRemove i).su.slot j).unit? = if j = i then none else (s.su.slot j).unit? := by
  rw [← chutedState_slot (u := u) (occupied_lt hs) j]
  by_cases h : ∃ p l, st = .earmarked p l
  · obtain ⟨p, l, rfl⟩ := h
    rw [chuteRemove_loses hs, earmarkLost_unit]
  · rw [chuteRemove_stays hs fun p l e => h ⟨p, l, e⟩]

theorem chuteRemove_lamp {st : ShelfState} (hs : s.su.slot i = .occupied u st) :
    (s.chuteRemove i).su.chuteLamp = .green := by
  rw [← chutedState_lamp s i u]
  by_cases h : ∃ p l, st = .earmarked p l
  · obtain ⟨p, l, rfl⟩ := h
    rw [chuteRemove_loses hs, earmarkLost_lamp]
  · rw [chuteRemove_stays hs fun p l e => h ⟨p, l, e⟩]

/-- The line of an EARMARKED unit that is taken at the chute. -/
theorem chuteRemove_line (hs : s.su.slot i = .occupied u (.earmarked p l))
    (h : (s.build p).state ≠ .putting ∨ s.putPending p = true) :
    (s.chuteRemove i).su.earmarkOrder = s.su.earmarkOrder.filter (fun n => decide (n ≠ u.number))
      ∧ ((s.chuteRemove i).line? ⟨p, l⟩).map (·.earmarked) = (s.line? ⟨p, l⟩).map (fun x => x.earmarked - 1)
      ∧ ((s.chuteRemove i).build p).state = (s.build p).state
      ∧ ((s.chuteRemove i).build p).gatherLeft = (s.build p).gatherLeft := by
  have build := chutedState_build (s := s) (i := i) (u := u) p
  have h' : ((chutedState s i u).build p).state ≠ .putting ∨ (chutedState s i u).putPending p = true := by
    by_cases putting : (s.build p).state = .putting
    · rw [chutedState_pending putting]
      exact .inr (h.resolve_left fun k => k putting)
    · exact .inl (by rwa [build])
  have lost := earmarkLost_beside (r := ⟨p, l⟩) h'
  rw [chuteRemove_loses hs]
  refine ⟨Eq.trans (lost .earmarkOrder id) (chutedState_order s i u), ?_, ?_, ?_⟩
  · rw [earmarkLost_earmarks h', line?_of_build build]
  · exact Eq.trans (lost (.build .state p) id) (congrArg Build.state build)
  · exact Eq.trans (lost (.build .gatherLeft p) id) (congrArg Build.gatherLeft build)

end

/-- Settles O12. -/
theorem chuteScanRemovesUnit : Obligations.ChuteScanRemovesUnit := by
  refine ⟨fun c s h => chuteChoice_putting h, fun raw l i s hl h => ?_⟩
  have stands : s.ChuteStandsFor l.code i := h.elim chuteChoice_stands id
  obtain ⟨u, st, hs, -⟩ := id stands
  obtain ⟨q, only⟩ := chuteRemove_only hs
  have unit := chuteRemove_unit hs
  refine ⟨(s.chuteRemove i).flush, execChuteScan_removes hl (chuteChoice_iff.2 stands), ?_⟩
  simp only [State.flush_su, State.flush_jc, State.flush_wf, State.flush_xu, State.flush_build, State.flush_be,
    State.flush_pending, line?_of_build (State.flush_build ..)]
  refine ⟨(unit i).trans (if_pos rfl), chuteRemove_lamp hs, only .lastNumber ?_, only .intakeLamp ?_, only.jc_eq ?_,
    only.wf_eq ?_, only.pending_eq ?_, fun j => chuteChoice_iff.2, stands, fun j hj => (unit j).trans (if_neg hj),
    only .expected ?_, only .outbound ?_, fun v st' hv other => ?_, fun v p k hv => ⟨fun h => ?_, fun putting pending => ?_,
      fun putting idle uncovered => ?_⟩⟩
  iterate 7 simp [scanT, chuteT, emptyT, lostGatherT, lostT, handT, gatherT, matchT, worksT]
  · have chuted := chutedState_only s i v
    rw [chuteRemove_stays hv other]
    exact ⟨chuted.be_eq fun _ _ => id, chutedState_order s i v⟩
  · exact chuteRemove_line hv h
  · have build := chutedState_build (s := s) (i := i) (u := v) p
    rw [chuteRemove_loses hv]
    exact earmarkLost_due (r := ⟨p, k⟩) (by rwa [build]) (by rwa [chutedState_pending putting])
  · have build := chutedState_build (s := s) (i := i) (u := v) p
    rw [chuteRemove_loses hv] at uncovered ⊢
    rw [← (chutedState_only s i v).jc_eq id]
    exact earmarkLost_gathers (r := ⟨p, k⟩) (by rwa [build]) (by rwa [chutedState_pending putting]) uncovered

end Sys2Proof.Proofs
end


section
/-! Unit numbers (R4): the number an intake scan gives is the first in turn that no record holds. -/

namespace Sys2Proof.Proofs

open Sys2Proof.Machine

/-- The number some places on from another, going round after 65535. -/
def numberAt (n : UnitNo) (k : Nat) : UnitNo := n + BitVec.ofNat 16 k

theorem numberAt_succ (n : UnitNo) (k : Nat) : numberAt (n + 1#16) k = numberAt n (k + 1) := by
  unfold numberAt
  bv_omega

theorem numberAt_inj {n : UnitNo} {j k : Nat} (hj : j < 65536) (hk : k < 65536) (h : numberAt n j = numberAt n k) : j = k := by
  have := congrArg BitVec.toNat (BitVec.add_right_inj n |>.1 h)
  simp only [BitVec.toNat_ofNat] at this
  omega

/-- The numbers passed over are held, and the one given is not, unless the fuel has run out. -/
theorem firstNotHeld_spec (held fuel : List UnitNo) (n : UnitNo) : ∃ k ≤ fuel.length,
    firstNotHeld held fuel n = numberAt n k ∧ (∀ j < k, numberAt n j ∈ held)
      ∧ (k < fuel.length → numberAt n k ∉ held) := by
  induction fuel generalizing n with
  | nil => exact ⟨0, le_rfl, by simp [firstNotHeld, numberAt], nofun, nofun⟩
  | cons x fuel ih =>
    by_cases hn : n ∈ held
    · obtain ⟨k, hk, eq, passed, free⟩ := ih (n + 1#16)
      refine ⟨k + 1, by simpa using hk, ?_, fun j hj => ?_, fun lt => ?_⟩
      · rw [firstNotHeld, if_pos (by simpa using hn), eq, numberAt_succ]
      · cases j with
        | zero => simpa [numberAt] using hn
        | succ j =>
          rw [← numberAt_succ]
          exact passed j (by omega)
      · rw [← numberAt_succ]
        exact free (by simpa using lt)
    · refine ⟨0, Nat.zero_le _, ?_, nofun, fun _ => by simpa [numberAt] using hn⟩
      rw [firstNotHeld, if_neg (by simpa using hn)]
      simp [numberAt]

/-- Fewer numbers than there are cannot hold a whole run of them. -/
theorem run_length_le {held : List UnitNo} {n : UnitNo} {k : Nat} (hk : k ≤ 65536) (h : ∀ j < k, numberAt n j ∈ held) :
    k ≤ held.length := by
  have apart : ((List.range k).map (numberAt n)).Nodup := by
    refine List.Nodup.map_on (fun i hi j hj e => ?_) List.nodup_range
    have := List.mem_range.1 hi
    have := List.mem_range.1 hj
    exact numberAt_inj (by omega) (by omega) e
  have within : (List.range k).map (numberAt n) ⊆ held := fun x hx => by
    obtain ⟨j, hj, rfl⟩ := List.mem_map.1 hx
    exact h j (List.mem_range.1 hj)
  simpa using (List.subperm_of_subset apart within).length_le

theorem firstNotHeld_free {held : List UnitNo} (few : held.length < 65536) (n : UnitNo) :
    firstNotHeld held held n ∉ held
      ∧ ∀ m : UnitNo, (m - n).toNat < (firstNotHeld held held n - n).toNat → m ∈ held := by
  obtain ⟨k, hk, eq, passed, free⟩ := firstNotHeld_spec held held n
  have least : numberAt n k ∉ held := fun mem => by
    by_cases h : k < held.length
    · exact free h mem
    · have := run_length_le (n := n) (k := k + 1) (by omega) fun j hj => by
        obtain hj | rfl := Nat.lt_succ_iff_lt_or_eq.1 hj
        · exact passed j hj
        · exact mem
      omega
  refine ⟨eq ▸ least, fun m hm => ?_⟩
  have apart : (numberAt n k - n).toNat = k := by
    have : numberAt n k - n = BitVec.ofNat 16 k := by
      unfold numberAt
      bv_omega
    rw [this, BitVec.toNat_ofNat]
    omega
  have number : m = numberAt n (m - n).toNat := by
    unfold numberAt
    bv_omega
  rw [number]
  rw [eq, apart] at hm
  exact passed _ hm

theorem holdsNumber_iff {s : State} {n : UnitNo} : s.HoldsNumber n ↔ n ∈ s.allUnits.map (·.number) := by
  have shelf : (∃ i u st, s.su.slot i = .occupied u st ∧ u.number = n)
      ↔ ∃ u ∈ s.su.slots.filterMap Slot.unit?, u.number = n := by
    constructor
    · rintro ⟨i, u, st, hs, number⟩
      exact ⟨u, List.mem_filterMap.2 ⟨_, slot_mem (occupied_lt hs), by rw [hs]; rfl⟩, number⟩
    · rintro ⟨u, hu, number⟩
      obtain ⟨x, hx, e⟩ := List.mem_filterMap.1 hu
      obtain ⟨i, hi, rfl⟩ := List.getElem_of_mem hx
      cases hs : s.su.slots[i] with
      | empty g => simp [hs, Slot.unit?] at e
      | reserved p => simp [hs, Slot.unit?] at e
      | occupied v st =>
        rw [hs] at e
        cases e
        exact ⟨i, u, st, by simp [Stock.slot, hi, hs], number⟩
  rw [State.HoldsNumber, shelf, State.allUnits, List.mem_map]
  simp only [List.mem_append, or_and_right, exists_or, List.mem_flatten, List.mem_map]
  refine or_assoc.symm.trans (or_congr (or_congr Iff.rfl ?_) ?_)
  · constructor
    · rintro ⟨p, x, hx, number⟩
      exact ⟨x.unit, ⟨_, ⟨p, by cases p <;> simp [Pos.all], rfl⟩, List.mem_map.2 ⟨x, hx, rfl⟩⟩, number⟩
    · rintro ⟨u, ⟨_, ⟨p, -, rfl⟩, hu⟩, number⟩
      obtain ⟨x, hx, rfl⟩ := List.mem_map.1 hu
      exact ⟨p, x, hx, number⟩
  · constructor
    · rintro ⟨o, ho, u, hu, number⟩
      exact ⟨u, ⟨_, ⟨o, ho, rfl⟩, hu⟩, number⟩
    · rintro ⟨u, ⟨_, ⟨o, ho, rfl⟩, hu⟩, number⟩
      exact ⟨o, ho, u, hu, number⟩

/-- The number given is held by no record, and every one before it in turn is. -/
theorem nextNumber_first {s : State} (few : s.allUnits.length < 65536) : ¬ s.HoldsNumber s.nextNumber
    ∧ ∀ n : UnitNo, (n - (s.su.lastNumber + 1#16)).toNat < (s.nextNumber - (s.su.lastNumber + 1#16)).toNat
      → s.HoldsNumber n := by
  simp only [holdsNumber_iff]
  exact firstNotHeld_free (by simpa using few) _

end Sys2Proof.Proofs
end


section
/-! Matching (R34, R35): which line takes a unit, and what of a line decides it. -/

namespace Sys2Proof.Proofs

open Sys2Proof.Machine

/-! ### What decides whether a line takes a unit -/

/-- What of a line decides which units it takes. -/
def lineUse (l : LineRec) : OrderLine × (Nat × Nat × Nat) × ExactWait × Option Handling :=
  (l.item, (l.earmarked, l.putting, l.placed), l.exactWait, l.orderedClass)

/-- Every line goes on to take what it took. -/
def KeepsUse (s t : State) : Prop := ∀ r, (t.line? r).map lineUse = (s.line? r).map lineUse

theorem KeepsUse.refl (s : State) : KeepsUse s s := fun _ => rfl

theorem KeepsUse.trans {s t u : State} (h : KeepsUse s t) (k : KeepsUse t u) : KeepsUse s u :=
  fun r => (k r).trans (h r)

theorem KeepsUse.symm {s t : State} (h : KeepsUse s t) : KeepsUse t s := fun r => (h r).symm

theorem KeepsUse.of_build {a s t : State} (h : KeepsUse a s) (hb : ∀ p, t.build p = s.build p) : KeepsUse a t :=
  fun r => by rw [line?_of_build (hb r.p), h r]

theorem KeepsUse.modLine {a s : State} (h : KeepsUse a s) (r : LineRef) (f : LineRec → LineRec)
    (hf : ∀ l, lineUse (f l) = lineUse l) : KeepsUse a (s.modLine r.p r.line f) := fun x => by
  rw [← h x, line?_modLine]
  split
  · rw [Option.map_map]
    exact congrArg (Option.map · (s.line? x)) (funext hf)
  · rfl

theorem transmit_build (s : State) (f : Frame) (p : Pos) : (s.transmit f).build p = s.build p := by
  unfold State.transmit
  split <;> rfl

theorem KeepsUse.takeLine {a s : State} (h : KeepsUse a s) (r : LineRef) : KeepsUse a (s.takeLine r) := by
  obtain e | ⟨l, -, -, -, -, ⟨e, -, eq⟩ | ⟨-, eq⟩⟩ := takeLine_cases s r
  · rwa [e]
  · rw [eq]
    unfold State.askAt
    dsimp only
    have noted := KeepsUse.modLine (s := s.setXu _) h r
      (fun x => { x with pendingAsk := min l.uncommitted (min e.quantity 4) }) fun _ => rfl
    split
    · exact noted.of_build fun p => transmit_build ..
    · exact noted.of_build fun _ => rfl
  · rw [eq]
    unfold State.wantFor
    split
    · exact (h.of_build fun p => transmit_build ..).modLine r _ fun _ => rfl
    · exact h.modLine r _ fun _ => rfl

theorem KeepsUse.handLine {a s : State} (h : KeepsUse a s) (r : LineRef) : KeepsUse a (s.handLine r) := by
  unfold State.handLine
  split
  · exact h.takeLine r
  · exact h

theorem KeepsUse.clearAndHand {a s : State} (h : KeepsUse a s) (r : LineRef) : KeepsUse a (s.clearAndHand r) := by
  have cleared : KeepsUse a (s.clearAsk r) :=
    KeepsUse.modLine (s := s.setXu _) (h.of_build fun _ => rfl) r (fun x => { x with pendingAsk := 0 }) fun _ => rfl
  exact cleared.handLine r

theorem KeepsUse.produceTaken {a s : State} (h : KeepsUse a s) (k : Station) (n : Seq) (q : Nat) :
    KeepsUse a (s.produceTaken k n q) := by
  unfold State.produceTaken
  dsimp only
  split
  · exact h.of_build fun p => transmit_build ..
  · split
    · exact h.of_build fun _ => rfl
    · split
      · exact h
      · refine KeepsUse.clearAndHand ?_ _
        exact h.of_build fun _ => rfl

/-! ### The lines that may take a unit -/

/-- A line may take a unit up: its build is eligible, the line uncovered and the unit not excluded (R34, R35). -/
def OpenFor (s : State) (u : UnitRec) (x : LineRef) : Prop := u.number ∉ (s.build x.p).exclusion
  ∧ ((s.build x.p).state = .gathering
    ∨ (s.build x.p).state = .putting ∧ ∃ k ∈ (s.build x.p).lines, 0 < k.uncovered)
  ∧ ∃ k, s.line? x = some k ∧ 0 < k.uncovered

/-- A line takes a unit in matching (R34). -/
def TakesUp (s : State) (u : UnitRec) (x : LineRef) : Prop := OpenFor s u x ∧ s.isFitted x.p = true
  ∧ (s.build x.p).claimOrder ≠ none
  ∧ ∃ k, s.line? x = some k ∧ (k.item.code = u.label.code ∨ (k.exactWait = .expired ∧ s.acceptable x u = true))

theorem eligible_iff (b : Build) : b.eligible = true ↔ b.state = .gathering
    ∨ b.state = .putting ∧ ∃ k ∈ b.lines, 0 < k.uncovered := by
  have uncovered : b.covered = false ↔ ∃ k ∈ b.lines, 0 < k.uncovered := by
    simp [Build.covered, Nat.pos_iff_ne_zero]
  rw [← uncovered]
  unfold Build.eligible
  cases b.state <;> simp

theorem openFor_iff {s : State} {u : UnitRec} {x : LineRef} :
    ((s.build x.p).eligible && s.lineOpen x u) = true ↔ OpenFor s u x := by
  rw [Bool.and_eq_true, eligible_iff, OpenFor, State.lineOpen, Bool.and_eq_true, Bool.not_eq_true',
    List.contains_eq_mem, decide_eq_false_iff_not]
  cases s.line? x with
  | none => simp
  | some k =>
    simp only [decide_eq_true_eq, Option.some.injEq, exists_eq_left']
    tauto

theorem waitRunning_false {l : LineRec} : l.waitRunning = false ↔ l.exactWait = .expired := by
  unfold LineRec.waitRunning
  cases l.exactWait <;> simp

theorem matches_iff {s : State} {u : UnitRec} {x : LineRef} : ((s.build x.p).eligible && s.lineMatches u x) = true
    ↔ OpenFor s u x ∧ ∃ k, s.line? x = some k
      ∧ (k.item.code = u.label.code ∨ (k.exactWait = .expired ∧ s.acceptable x u = true)) := by
  rw [State.lineMatches, ← Bool.and_assoc, Bool.and_eq_true, openFor_iff]
  refine and_congr_right fun _ => ?_
  cases s.line? x with
  | none => simp
  | some k =>
    simp only [Bool.or_eq_true, Bool.and_eq_true, Bool.not_eq_true', decide_eq_true_eq, waitRunning_false,
      Option.some.injEq, exists_eq_left', eq_comm (a := u.label.code)]

theorem linesOf_mem {s : State} {x : LineRef} : x ∈ s.linesOf x.p ↔ ∃ k, s.line? x = some k := by
  unfold State.linesOf State.line?
  rw [List.mem_map]
  constructor
  · rintro ⟨i, hi, e⟩
    obtain rfl : i = x.line := congrArg LineRef.line e
    exact ⟨_, List.getElem?_eq_getElem (List.mem_range.1 hi)⟩
  · rintro ⟨k, hk⟩
    exact ⟨x.line, List.mem_range.2 (List.getElem?_eq_some_iff.1 hk).1, rfl⟩

/-- The fitted positions with their claim orders. -/
def claimants (s : State) : List (Nat × Pos) := s.fittedPos.filterMap (fun p => (s.build p).claimOrder.map (fun c => (c, p)))

theorem mem_claimants {s : State} {c : Nat} {p : Pos} :
    (c, p) ∈ claimants s ↔ s.isFitted p = true ∧ (s.build p).claimOrder = some c := by
  rw [claimants, List.mem_filterMap, ← mem_fittedPos]
  constructor
  · rintro ⟨q, hq, e⟩
    obtain ⟨d, hd, e⟩ := Option.map_eq_some_iff.1 e
    cases e
    exact ⟨hq, hd⟩
  · rintro ⟨hp, hc⟩
    exact ⟨p, hp, by rw [hc]; rfl⟩

theorem mem_byClaimOrder_iff {s : State} {p : Pos} :
    p ∈ s.byClaimOrder ↔ s.isFitted p = true ∧ (s.build p).claimOrder ≠ none := by
  have perm := sortBy_perm (fun x y : Nat × Pos => decide (x.1 < y.1)) (claimants s)
  rw [show s.byClaimOrder = (sortBy (fun x y : Nat × Pos => decide (x.1 < y.1)) (claimants s)).map (·.2) from rfl,
    List.mem_map, Option.ne_none_iff_exists']
  constructor
  · rintro ⟨⟨c, q⟩, hc, rfl⟩
    obtain ⟨fitted, order⟩ := mem_claimants.1 (perm.mem_iff.1 hc)
    exact ⟨fitted, c, order⟩
  · rintro ⟨fitted, c, order⟩
    exact ⟨(c, p), perm.mem_iff.2 (mem_claimants.2 ⟨fitted, order⟩), rfl⟩

theorem mem_allLines_iff {s : State} {x : LineRef} : x ∈ s.allLines
    ↔ s.isFitted x.p = true ∧ (s.build x.p).claimOrder ≠ none ∧ ∃ k, s.line? x = some k := by
  rw [State.allLines, List.mem_flatten, ← linesOf_mem, ← and_assoc, ← mem_byClaimOrder_iff]
  constructor
  · rintro ⟨rs, hrs, hx⟩
    obtain ⟨p, hp, rfl⟩ := List.mem_map.1 hrs
    obtain rfl := mem_linesOf hx
    exact ⟨hp, hx⟩
  · rintro ⟨hp, hx⟩
    exact ⟨_, List.mem_map_of_mem hp, hx⟩

/-- The order of matching: claim order, then line order (R34). -/
def MatchedBefore (s : State) (x y : LineRef) : Prop :=
  (∃ m n, (s.build x.p).claimOrder = some m ∧ (s.build y.p).claimOrder = some n ∧ m ≤ n)
    ∧ (x.p = y.p → x.line < y.line)

theorem byClaimOrder_pairwise (s : State) : s.byClaimOrder.Pairwise (fun p q => p ≠ q
    ∧ ∃ m n, (s.build p).claimOrder = some m ∧ (s.build q).claimOrder = some n ∧ m ≤ n) := by
  have perm := sortBy_perm (fun x y : Nat × Pos => decide (x.1 < y.1)) (claimants s)
  have sorted : (sortBy (fun x y : Nat × Pos => decide (x.1 < y.1)) (claimants s)).Pairwise (fun x y => x.1 ≤ y.1) :=
    sortBy_pairwise (R := fun x y : Nat × Pos => x.1 ≤ y.1) (fun _ _ _ => le_trans)
      (fun x y h => le_of_lt (of_decide_eq_true h)) (fun x y h => not_lt.1 (of_decide_eq_false h)) _
  have apart : (claimants s).Pairwise (fun x y => x.2 ≠ y.2) := by
    refine List.Pairwise.filterMap _ (fun p q hne x hx y hy e => hne ?_) (fittedPos_nodup s)
    obtain ⟨_, -, rfl⟩ := Option.map_eq_some_iff.1 hx
    obtain ⟨_, -, rfl⟩ := Option.map_eq_some_iff.1 hy
    exact e
  have apart' := perm.symm.pairwise apart fun h e => h e.symm
  refine List.pairwise_map.2 ?_
  refine (sorted.and apart').imp_of_mem fun {x y} hx hy h => ⟨h.2, x.1, y.1, ?_, ?_, h.1⟩
  · exact (mem_claimants.1 (perm.mem_iff.1 hx)).2
  · exact (mem_claimants.1 (perm.mem_iff.1 hy)).2

theorem allLines_pairwise (s : State) : s.allLines.Pairwise (MatchedBefore s) := by
  rw [State.allLines, List.pairwise_flatten]
  refine ⟨fun rs hrs => ?_, ?_⟩
  · obtain ⟨p, hp, rfl⟩ := List.mem_map.1 hrs
    obtain ⟨c, hc⟩ := Option.ne_none_iff_exists'.1 (mem_byClaimOrder hp)
    refine List.pairwise_map.2 (List.pairwise_lt_range.imp fun {i j} h => ⟨⟨c, c, hc, hc, le_rfl⟩, fun _ => h⟩)
  · refine List.pairwise_map.2 ((byClaimOrder_pairwise s).imp fun {p q} h x hx y hy => ?_)
    obtain rfl := mem_linesOf hx
    obtain rfl := mem_linesOf hy
    exact ⟨h.2, fun e => absurd e h.1⟩

theorem find?_first {α : Type} {R : α → α → Prop} {test : α → Bool} {xs : List α} (sorted : xs.Pairwise R) {x : α}
    (hx : x ∈ xs) (ht : test x = true) (first : ∀ y, y ∈ xs → test y = true → y ≠ x → ¬ R y x) :
    xs.find? test = some x := by
  have found : xs.find? test ≠ none := fun none => List.find?_eq_none.1 none x hx ht
  obtain ⟨y, hy⟩ := Option.ne_none_iff_exists'.1 found
  obtain ⟨hty, as, bs, rfl, before⟩ := List.find?_eq_some_iff_append.1 hy
  by_cases e : y = x
  · rw [hy, e]
  · refine absurd ?_ (first y (by simp) hty e)
    obtain hx | hx := List.mem_append.1 hx
    · exact absurd ht (by simpa using before x hx)
    · obtain rfl | hx := List.mem_cons.1 hx
      · exact absurd rfl e
      · exact (List.pairwise_cons.1 (List.pairwise_append.1 sorted).2.1).1 x hx

/-- A line comes before every other that takes the unit. -/
def TakesFirst (s : State) (u : UnitRec) (r : LineRef) : Prop := TakesUp s u r ∧ ∀ x, TakesUp s u x → x ≠ r →
  ∃ m n, (s.build r.p).claimOrder = some m ∧ (s.build x.p).claimOrder = some n ∧ (m < n ∨ (x.p = r.p ∧ r.line < x.line))

theorem PutsOne.no_line {p : Pos} {s t : State} (h : PutsOne p s t) {line : Nat} (hl : s.line? ⟨p, line⟩ = none) :
    t.line? ⟨p, line⟩ = none := by
  have hl : (s.build p).lines[line]? = none := hl
  obtain ⟨-, lines⟩ | ⟨i, k, u, h⟩ := h
  · rw [State.line?, lines, hl]
  · rw [State.line?, h.lines, updateAt_getElem?, hl]
    split <;> rfl

section
variable {s : State} {i age : Nat} {u : UnitRec} (hs : s.su.slot i = .occupied u (.free age))
include hs

theorem matchUnit_takes {r : LineRef} (h : TakesFirst s u r) : s.matchUnit i = s.takeUnit i r := by
  obtain ⟨⟨opens, fitted, claims, k, hk, kind⟩, first⟩ := h
  have found : s.allLines.find? (fun r => (s.build r.p).eligible && s.lineMatches u r) = some r := by
    refine find?_first (allLines_pairwise s) (mem_allLines_iff.2 ⟨fitted, claims, k, hk⟩)
      (matches_iff.2 ⟨opens, k, hk, kind⟩) fun y hy ht ne before => ?_
    obtain ⟨opensY, kindY⟩ := matches_iff.1 ht
    obtain ⟨fittedY, claimsY, -⟩ := mem_allLines_iff.1 hy
    obtain ⟨m, n, hm, hn, order⟩ := first y ⟨opensY, fittedY, claimsY, kindY⟩ ne
    obtain ⟨⟨m', n', hm', hn', le⟩, lines⟩ := before
    cases hn.symm.trans hm'
    cases hm.symm.trans hn'
    obtain lt | ⟨same, lt⟩ := order
    · omega
    · have := lines same
      omega
  unfold State.matchUnit
  rw [freeUnit_eq_some.2 ⟨age, hs⟩]
  dsimp only
  rw [found]

theorem matchUnit_none (h : ∀ x, ¬ TakesUp s u x) : s.matchUnit i = s := by
  have none : s.allLines.find? (fun r => (s.build r.p).eligible && s.lineMatches u r) = .none :=
    List.find?_eq_none.2 fun x hx ht => by
      obtain ⟨opens, kind⟩ := matches_iff.1 ht
      obtain ⟨fitted, claims, -⟩ := mem_allLines_iff.1 hx
      exact h x ⟨opens, fitted, claims, kind⟩
  unfold State.matchUnit
  rw [freeUnit_eq_some.2 ⟨age, hs⟩]
  dsimp only
  rw [none]

/-- The line that takes a FREE unit holds it, EARMARKED or PUTTING (R34, R38). -/
theorem takeUnit_holds (r : LineRef) : ((s.takeUnit i r).su.slot i = .occupied u (.earmarked r.p r.line)
      ∨ (s.takeUnit i r).su.slot i = .occupied u (.putting r.p r.line))
    ∧ ((s.takeUnit i r).line? r).map LineRec.heldUnits = (s.line? r).map (fun k => k.heldUnits + 1) := by
  have puts : PutsOne r.p (s.earmark i r) (s.takeUnit i r) := coverage_putsOne ..
  refine ⟨puts.earmarked (by rw [earmark_slot hs, if_pos rfl]), ?_⟩
  have line := earmark_line hs r
  cases hl : s.line? r with
  | none =>
    rw [hl] at line
    rw [puts.no_line line]
    rfl
  | some l =>
    rw [hl] at line
    obtain ⟨l', hl', -, -, -, held⟩ := puts.line line
    rw [hl', Option.map_some, held (Nat.succ_pos _)]
    simp only [LineRec.heldUnits, Option.map_some]
    congr 1
    omega

end

/-! ### States whose lines take the same units -/

/-- What decides which line takes a unit stands: the lines' use, the builds, notices, straps and SETUP values. -/
structure SameTakers (s t : State) : Prop where
  use : KeepsUse s t
  state : ∀ p, (t.build p).state = (s.build p).state
  exclusion : ∀ p, (t.build p).exclusion = (s.build p).exclusion
  claims : ∀ p, (t.build p).claimOrder = (s.build p).claimOrder
  link : ∀ p, (t.build p).link = (s.build p).link
  notices : t.cu.notices = s.cu.notices
  jc : t.jc = s.jc

theorem lineUse_uncovered {l m : LineRec} (h : lineUse m = lineUse l) : m.uncovered = l.uncovered := by
  simp only [lineUse, Prod.mk.injEq] at h
  obtain ⟨item, ⟨earmarked, putting, placed⟩, -, -⟩ := h
  simp only [LineRec.uncovered, LineRec.heldUnits, item, earmarked, putting, placed]

theorem lineUse_held {l m : LineRec} (h : lineUse m = lineUse l) : m.heldUnits = l.heldUnits := by
  simp only [lineUse, Prod.mk.injEq] at h
  obtain ⟨-, ⟨earmarked, putting, placed⟩, -, -⟩ := h
  simp only [LineRec.heldUnits, earmarked, putting, placed]

section
variable {s t : State} (h : SameTakers s t)
include h

theorem SameTakers.line {x : LineRef} {l : LineRec} (hl : s.line? x = some l) :
    ∃ m, t.line? x = some m ∧ lineUse m = lineUse l := by
  have use := h.use x
  rw [hl] at use
  exact Option.map_eq_some_iff.1 use

theorem SameTakers.symm : SameTakers t s where
  use := h.use.symm
  state p := (h.state p).symm
  exclusion p := (h.exclusion p).symm
  claims p := (h.claims p).symm
  link p := (h.link p).symm
  notices := h.notices.symm
  jc := h.jc.symm

theorem SameTakers.held (x : LineRef) : (t.line? x).map LineRec.heldUnits = (s.line? x).map LineRec.heldUnits := by
  cases hl : s.line? x with
  | none =>
    have use := h.use x
    rw [hl] at use
    rw [Option.map_eq_none_iff.1 use]
  | some l =>
    obtain ⟨m, hm, use⟩ := h.line hl
    rw [hm, Option.map_some, Option.map_some, lineUse_held use]

theorem SameTakers.openFor {u : UnitRec} {x : LineRef} (k : OpenFor s u x) : OpenFor t u x := by
  obtain ⟨clear, eligible, l, hl, uncovered⟩ := k
  obtain ⟨m, hm, use⟩ := h.line hl
  refine ⟨by rwa [h.exclusion], ?_, m, hm, by rwa [lineUse_uncovered use]⟩
  rw [h.state]
  obtain gathering | ⟨putting, y, hy, open_⟩ := eligible
  · exact .inl gathering
  · obtain ⟨n, hn⟩ := List.getElem?_of_mem hy
    obtain ⟨z, hz, use⟩ := h.line (x := ⟨x.p, n⟩) hn
    exact .inr ⟨putting, z, List.mem_of_getElem? hz, by rwa [lineUse_uncovered use]⟩

theorem SameTakers.takesUp {u : UnitRec} {x : LineRef} (k : TakesUp s u x) : TakesUp t u x := by
  obtain ⟨opens, fitted, claims, l, hl, kind⟩ := k
  obtain ⟨m, hm, use⟩ := h.line hl
  refine ⟨h.openFor opens, ?_, by rwa [h.claims], m, hm, ?_⟩
  · rw [State.isFitted, h.jc]
    exact fitted
  · simp only [lineUse, Prod.mk.injEq] at use
    obtain ⟨item, -, wait, cls⟩ := use
    rwa [item, wait, acceptable_congr hl hm item cls (infoOf_eq (h.link x.p) h.notices) h.jc]

end

theorem SameTakers.takesFirst {s t : State} (h : SameTakers s t) {u : UnitRec} {r : LineRef} (k : TakesFirst s u r) :
    TakesFirst t u r := by
  obtain ⟨takes, first⟩ := k
  refine ⟨h.takesUp takes, fun x hx ne => ?_⟩
  rw [h.claims, h.claims]
  exact first x (h.symm.takesUp hx) ne

end Sys2Proof.Proofs
end


section
/-! INTAKE_SCAN (R8 to R11, R35, R114, R161). -/

namespace Sys2Proof.Proofs

open Sys2Proof.Machine

/-! ### The unit arrives -/

/-- The state of a unit that has just come to the shelf. -/
def arrivalState (u : UnitRec) : ShelfState := if u.expired then .returned else .free 0

/-- The state in which the unit has its slot, before it is matched. -/
def arrivedState (s : State) (i : Nat) (u : UnitRec) : State :=
  let t := s.setSlot i (.occupied u (arrivalState u))
  (t.setSu { t.su with lastNumber := u.number, amberSlot := some i, intakeLamp := .green }).showShelf

/-- The state in which the unit has used its expected entry. -/
def usedState (s : State) (i : Nat) (u : UnitRec) (e : Option Expected) : State :=
  e.elim (arrivedState s i u) (arrivedState s i u).useExpected

theorem enterUnit_eq (s : State) (i : Nat) (l : Label) : s.enterUnit i l
    = (usedState s i (s.scannedUnit l) (s.expectedOf l.code)).firstState i (s.scannedUnit l)
        ((s.expectedOf l.code).bind (·.link)) := by
  unfold State.enterUnit usedState
  cases s.expectedOf l.code <;> rfl

theorem arrivedState_su (s : State) (i : Nat) (u : UnitRec) : (arrivedState s i u).su = { s.su with
    slots := s.su.slots.set i (.occupied u (arrivalState u)), lastNumber := u.number, amberSlot := some i
    intakeLamp := .green } := by
  unfold arrivedState
  dsimp only
  rw [State.showShelf_su]
  rfl

/-- What a unit that comes to the shelf changes there. -/
def arriveT : Part → Prop
  | .pl | .slots | .units | .shelf _ | .lastNumber | .amber | .intakeLamp => True
  | _ => False

theorem arrivedState_only (s : State) (i : Nat) (u : UnitRec) : Only arriveT s (arrivedState s i u) := by
  have placed : Only arriveT s (s.setSlot i (.occupied u (arrivalState u))) :=
    (Only.refl _ s).setSlot i _ trivial (fun k => absurd trivial k) fun _ k => absurd trivial k
  refine (placed.trans (u := State.setSu _ _) fun x hx => ?_).showShelf fun x hx => by cases x <;> first | exact hx.elim | trivial
  have same := Part.Same.refl (s.setSlot i (.occupied u (arrivalState u))) x
  cases x
  case lastNumber => exact absurd trivial hx
  case amber => exact absurd trivial hx
  case intakeLamp => exact absurd trivial hx
  all_goals exact same

/-! ### The expected entry the unit uses (R11, R161) -/

/-- The state in which a linked line waits for one unit less. -/
def countedState (s : State) (link : Option LineRef) : State :=
  link.elim s fun r => s.modLine r.p r.line (fun l => { l with incoming := l.incoming - 1 })

/-- The expected list after a unit of an entry has come that is not its last. -/
def lessExpected (e : Expected) (es : List Expected) : List Expected :=
  es.map (fun x => if decide (x.source = e.source ∧ x.seq = e.seq) then
    { x with remaining := x.remaining - 1, exposures := x.exposures.drop 1 } else x)

/-- The expected list without an entry. -/
def withoutExpected (e : Expected) (es : List Expected) : List Expected :=
  es.filter (fun x => !decide (x.source = e.source ∧ x.seq = e.seq))

theorem useExpected_last {s : State} {e : Expected} (h : e.remaining ≤ 1) : s.useExpected e
    = ((countedState s e.link).setXu { s.xu with expected := withoutExpected e s.xu.expected }).produceTaken
      e.source e.seq e.granted := by
  unfold State.useExpected countedState
  dsimp only
  rw [if_pos h]
  cases e.link <;> rfl

theorem useExpected_more {s : State} {e : Expected} (h : ¬ e.remaining ≤ 1) : s.useExpected e
    = (countedState s e.link).setXu { s.xu with expected := lessExpected e s.xu.expected } := by
  unfold State.useExpected countedState
  dsimp only
  rw [if_neg h]
  cases e.link <;> rfl

theorem countedState_use (s : State) (link : Option LineRef) : KeepsUse s (countedState s link) := by
  cases link with
  | none => exact .refl s
  | some r => exact (KeepsUse.refl s).modLine r _ fun _ => rfl

theorem countedState_only (s : State) (link : Option LineRef) : Only linkT s (countedState s link) := by
  cases link with
  | none => exact .refl _ s
  | some r =>
    exact (Only.refl linkT s).setIncoming r.p r.line (fun l => { l with incoming := l.incoming - 1 }) trivial trivial
      (fun _ => rfl) (fun _ => rfl) fun _ => id

theorem countedState_incoming {s : State} {r : LineRef} {k : LineRec} (hk : s.line? r = some k) :
    (countedState s (some r)).line? r = some { k with incoming := k.incoming - 1 } := by
  show (s.modLine r.p r.line _).line? r = _
  rw [line?_modLine, if_pos rfl, hk]
  rfl

theorem useExpected_use (s : State) (e : Expected) : KeepsUse s (s.useExpected e) := by
  have counted := countedState_use s e.link
  by_cases h : e.remaining ≤ 1
  · rw [useExpected_last h]
    refine KeepsUse.produceTaken ?_ _ _ _
    exact counted.of_build fun _ => rfl
  · rw [useExpected_more h]
    exact counted.of_build fun _ => rfl

theorem listed_only (s : State) (e : Expected) (es : List Expected) :
    Only linkT s ((countedState s e.link).setXu { s.xu with expected := es }) := by
  have xu : (countedState s e.link).xu = s.xu := by
    cases e.link <;> rfl
  rw [← xu]
  exact (countedState_only s e.link).setExpected trivial es

theorem useExpected_only (s : State) (e : Expected) : Only linkT s (s.useExpected e) := by
  by_cases h : e.remaining ≤ 1
  · rw [useExpected_last h]
    exact (listed_only s e _).produceTaken handT_le_linkT (fun _ => trivial) _ _ _
  · rw [useExpected_more h]
    exact listed_only s e _

theorem useExpected_incoming {s : State} {e : Expected} {r : LineRef} {k : LineRec} (hr : e.link = some r)
    (hk : s.line? r = some k) : ((s.useExpected e).line? r).map (·.incoming) = some (k.incoming - 1) := by
  have counted := countedState_incoming hk
  have incoming (t : State) (h : (t.line? r).map lineCounts = some (lineCounts { k with incoming := k.incoming - 1 })) :
      (t.line? r).map (·.incoming) = some (k.incoming - 1) := by
    have := congrArg (Option.map (fun c : Nat × Nat × ExactWait => c.2.1)) h
    rwa [Option.map_map] at this
  refine incoming _ ?_
  by_cases h : e.remaining ≤ 1
  · rw [useExpected_last h, hr]
    have counts := ((Only.refl _ ((countedState s (some r)).setXu { s.xu with
      expected := withoutExpected e s.xu.expected })).produceTaken (le_refl (handT fun _ => True)) (fun _ => trivial)
        e.source e.seq e.granted) (.build .counts r.p) id
    exact (line?_counts counts).trans (congrArg (Option.map lineCounts) counted)
  · rw [useExpected_more h, hr]
    exact congrArg (Option.map lineCounts) counted

theorem useExpected_expected (s : State) (e : Expected) : (s.useExpected e).xu.expected
    = if e.remaining ≤ 1 then withoutExpected e s.xu.expected else lessExpected e s.xu.expected := by
  by_cases h : e.remaining ≤ 1
  · rw [useExpected_last h, if_pos h]
    exact ((Only.refl _ ((countedState s e.link).setXu { s.xu with
      expected := withoutExpected e s.xu.expected })).produceTaken (le_refl (handT fun _ => True)) (fun _ => trivial)
        e.source e.seq e.granted) .expected id
  · rw [useExpected_more h, if_neg h]
    rfl

/-- TAKEN of an entry whose last unit comes (R161). -/
theorem useExpected_taken {s : State} {e : Expected} (h : e.remaining ≤ 1) :
    (s.jc.state ≠ .isolated → s.lp.hasSpace = true →
        Frame.taken e.source e.seq (BitVec.ofNat 8 e.granted) ∈ (s.useExpected e).lp.queue)
      ∧ (s.jc.state ≠ .isolated → s.lp.hasSpace = false → s.xu.waiting.length < 16 →
        ⟨Frame.taken e.source e.seq (BitVec.ofNat 8 e.granted), none⟩ ∈ (s.useExpected e).xu.waiting) := by
  set t := (countedState s e.link).setXu { s.xu with expected := withoutExpected e s.xu.expected } with ht
  have listed := listed_only s e (withoutExpected e s.xu.expected)
  have lp : t.lp = s.lp := by
    rw [ht]
    cases e.link <;> rfl
  have jc : t.jc = s.jc := listed.jc_eq id
  rw [useExpected_last h, ← ht]
  refine ⟨fun joined space => ?_, fun joined full few => ?_⟩
  · rw [produceTaken_queued (jc ▸ joined) (lp ▸ space)]
    exact mem_insertBy.2 (.inl rfl)
  · rw [produceTaken_waits (s := t) (jc ▸ joined) (lp ▸ full) few]
    exact List.mem_append_right _ (List.mem_singleton.2 rfl)

/-! ### Its first state (R10, R35) -/

/-- What the first state of a unit on the shelf changes. -/
def firstT : Part → Prop := fun x => matchT (fun _ => True) x ∨ handT (fun _ => True) x

theorem firstState_only (s : State) (i : Nat) (u : UnitRec) (link : Option LineRef) :
    Only firstT s (s.firstState i u link) := by
  have matched (t : State) : Only firstT t (t.matchUnit i) :=
    (Only.refl firstT t).matchUnit (Q := fun _ => True) (fun _ => .inl) (fun _ _ _ => trivial) i
  have handed (t : State) (r : LineRef) : Only firstT t (t.handLine r) :=
    (Only.refl firstT t).handLine (Q := fun _ => True) (fun _ => .inr) trivial
  unfold State.firstState
  split
  · split
    · exact handed s _
    · exact .refl _ s
  · split
    · split
      · exact (Only.refl firstT s).takeUnit (Q := fun _ => True) (fun _ => .inl) i trivial
      · exact (matched s).trans (handed _ _)
    · exact matched s

/-- What waits with XU waits on. -/
theorem firstState_waiting (s : State) (i : Nat) (u : UnitRec) (link : Option LineRef) :
    ∀ w ∈ s.xu.waiting, w ∈ (s.firstState i u link).xu.waiting := by
  have matched (t : State) : (t.matchUnit i).xu.waiting = t.xu.waiting :=
    (Only.refl _ t).matchUnit (le_refl (matchT fun _ => True)) (fun _ _ _ => trivial) i .xuWaiting id
  have taken (t : State) (r : LineRef) : (t.takeUnit i r).xu.waiting = t.xu.waiting :=
    (Only.refl _ t).takeUnit (le_refl (matchT fun _ => True)) i trivial .xuWaiting id
  unfold State.firstState
  intro w hw
  split
  · split
    · exact (handLine_hands s _).waiting w hw
    · exact hw
  · split
    · split
      · rwa [taken]
      · exact (handLine_hands _ _).waiting w (by rwa [matched])
    · rwa [matched]

section
variable {s : State} {i : Nat} {u : UnitRec} {link : Option LineRef}

theorem firstState_returned (hs : s.su.slot i = .occupied u .returned) (h : u.expired = true) :
    (s.firstState i u link).su.slot i = .occupied u .returned := by
  unfold State.firstState
  rw [if_pos h]
  cases link with
  | none => exact hs
  | some r =>
    have slots : (s.handLine r).su.slots = s.su.slots :=
      (Only.refl _ s).handLine (le_refl (handT fun _ => True)) trivial .slots id
    exact (slot_of_slots slots i).trans hs

theorem firstState_linked {r : LineRef} (h : u.expired = false) (opens : OpenFor s u r) :
    s.firstState i u (some r) = s.takeUnit i r := by
  unfold State.firstState
  rw [if_neg (by simp [h])]
  exact if_pos (openFor_iff.2 opens)

theorem firstState_matched (h : u.expired = false) (shut : ∀ x, link = some x → ¬ OpenFor s u x) :
    s.firstState i u link = (s.matchUnit i).handLink link := by
  unfold State.firstState
  rw [if_neg (by simp [h])]
  cases link with
  | none => rfl
  | some r => exact if_neg fun k => shut r rfl (openFor_iff.1 k)

theorem handLink_shelf (s : State) (link : Option LineRef) : (s.handLink link).su = s.su :=
  ((Only.refl _ s).handLink (le_refl (handT fun _ => True)) link).su_eq (by simp [handT])

theorem handLink_use (s : State) (link : Option LineRef) : KeepsUse s (s.handLink link) := by
  cases link with
  | none => exact .refl s
  | some r => exact (KeepsUse.refl s).handLine r

end

/-! ### The unit on the shelf -/

/-- What a unit that comes and its expected entry change. -/
def comesT : Part → Prop := fun x => arriveT x ∨ linkT x

theorem usedState_only (s : State) (i : Nat) (u : UnitRec) (e : Option Expected) : Only comesT s (usedState s i u e) := by
  have arrived := (arrivedState_only s i u).mono (U := comesT) fun _ => .inl
  cases e with
  | none => exact arrived
  | some x => exact arrived.trans ((useExpected_only _ x).mono fun _ => .inr)

theorem arrivedState_build (s : State) (i : Nat) (u : UnitRec) (p : Pos) : (arrivedState s i u).build p = s.build p :=
  (arrivedState_only s i u).build_eq fun _ => id

theorem usedState_su (s : State) (i : Nat) (u : UnitRec) (e : Option Expected) :
    (usedState s i u e).su = (arrivedState s i u).su := by
  cases e with
  | none => rfl
  | some x => exact (useExpected_only _ x).su_eq (by simp [linkT, handT])

theorem usedState_takers (s : State) (i : Nat) (u : UnitRec) (e : Option Expected) :
    SameTakers s (usedState s i u e) := by
  have only := usedState_only s i u e
  refine ⟨?_, fun p => only (.build .state p) ?_, fun p => only (.build .exclusion p) ?_,
    fun p => only (.build .claimOrder p) ?_, fun p => only (.build .link p) ?_, only .notices ?_, only.jc_eq ?_⟩
  · have arrived : KeepsUse s (arrivedState s i u) := (KeepsUse.refl s).of_build (arrivedState_build s i u)
    cases e with
    | none => exact arrived
    | some x => exact arrived.trans (useExpected_use _ x)
  all_goals simp [comesT, arriveT, linkT, handT]

theorem usedState_slot {s : State} {i : Nat} (hi : i < s.su.slots.length) (u : UnitRec) (e : Option Expected) :
    (usedState s i u e).su.slot i = .occupied u (arrivalState u) := by
  rw [usedState_su, arrivedState_su]
  exact (slot_set s.su i i _).trans (if_pos ⟨rfl, hi⟩)

section
variable {s : State} {i : Nat} {u : UnitRec} {link : Option LineRef}

theorem SameTakers.holds {w v : State} (h : SameTakers s w) {r : LineRef}
    (took : (v.line? r).map LineRec.heldUnits = (w.line? r).map (fun k => k.heldUnits + 1)) :
    (v.line? r).map LineRec.heldUnits = (s.line? r).map (fun k => k.heldUnits + 1) := by
  have held := congrArg (Option.map (· + 1)) (h.held r)
  rw [Option.map_map, Option.map_map] at held
  exact took.trans held

/-- The line that takes the unit that has come: its entry's line, or else the first that takes it in matching. -/
def LineTakes (s : State) (u : UnitRec) (link : Option LineRef) (r : LineRef) : Prop :=
  link = some r ∧ OpenFor s u r ∨ (∀ x, link = some x → ¬ OpenFor s u x) ∧ TakesFirst s u r

theorem firstState_takes (hs : s.su.slot i = .occupied u (.free 0)) (fresh : u.expired = false) {r : LineRef}
    (h : LineTakes s u link r) : ((s.firstState i u link).su.slot i = .occupied u (.earmarked r.p r.line)
        ∨ (s.firstState i u link).su.slot i = .occupied u (.putting r.p r.line))
      ∧ ((s.firstState i u link).line? r).map LineRec.heldUnits = (s.line? r).map (fun k => k.heldUnits + 1) := by
  have takes := takeUnit_holds hs r
  obtain ⟨rfl, opens⟩ | ⟨shut, first⟩ := h
  · rwa [firstState_linked fresh opens]
  · rw [firstState_matched fresh shut, handLink_shelf, matchUnit_takes hs first]
    refine ⟨takes.1, ?_⟩
    rw [← takes.2]
    have use := handLink_use (s.takeUnit i r) link r
    cases hl : (s.takeUnit i r).line? r with
    | none =>
      rw [hl] at use
      rw [Option.map_eq_none_iff.1 use]
    | some l =>
      rw [hl] at use
      obtain ⟨m, hm, same⟩ := Option.map_eq_some_iff.1 use
      rw [hm, Option.map_some, Option.map_some, lineUse_held same]

theorem firstState_free (hs : s.su.slot i = .occupied u (.free 0)) (fresh : u.expired = false)
    (shut : ∀ x, link = some x → ¬ OpenFor s u x) (none : ∀ x, ¬ TakesUp s u x) :
    (s.firstState i u link).su.slot i = .occupied u (.free 0) := by
  rw [firstState_matched fresh shut, handLink_shelf, matchUnit_none hs none, hs]

end

/-! ### INTAKE_SCAN -/

section
variable {s : State} {i : Nat} {l : Label}

theorem enterUnit_only (s : State) (i : Nat) (l : Label) :
    Only (fun x => comesT x ∨ firstT x) s (s.enterUnit i l) := by
  rw [enterUnit_eq]
  have used := usedState_only s i (s.scannedUnit l) (s.expectedOf l.code)
  have first := firstState_only (usedState s i (s.scannedUnit l) (s.expectedOf l.code)) i (s.scannedUnit l)
    ((s.expectedOf l.code).bind (·.link))
  exact (used.mono fun _ => .inl).trans (first.mono fun _ => .inr)

/-- What the first state of the unit leaves of the shelf and the exchange. -/
theorem enterUnit_later (s : State) (i : Nat) (l : Label) :
    Only firstT (usedState s i (s.scannedUnit l) (s.expectedOf l.code)) (s.enterUnit i l) := by
  rw [enterUnit_eq]
  exact firstState_only _ i _ _

theorem enterUnit_su (s : State) (i : Nat) (l : Label) : (s.enterUnit i l).su.lastNumber = s.nextNumber
    ∧ (s.enterUnit i l).su.intakeLamp = .green ∧ (s.enterUnit i l).su.amberSlot = some i
    ∧ (s.enterUnit i l).su.chuteLamp = s.su.chuteLamp := by
  have later := enterUnit_later s i l
  have su := usedState_su s i (s.scannedUnit l) (s.expectedOf l.code)
  rw [arrivedState_su] at su
  have kept : ∀ x ∈ [Part.lastNumber, .intakeLamp, .amber, .chuteLamp], ¬ firstT x := by
    simp [firstT, matchT, worksT, handT]
  refine ⟨?_, ?_, ?_, ?_⟩
  · exact Eq.trans (later .lastNumber (kept _ (by simp))) (by rw [su]; rfl)
  · exact Eq.trans (later .intakeLamp (kept _ (by simp))) (by rw [su])
  · exact Eq.trans (later .amber (kept _ (by simp))) (by rw [su])
  · exact Eq.trans (later .chuteLamp (kept _ (by simp))) (by rw [su])

variable (hi : i < s.su.slots.length)
include hi

theorem enterUnit_unit : ((s.enterUnit i l).su.slot i).unit? = some (s.scannedUnit l) := by
  have later := enterUnit_later s i l .units (by simp [firstT, matchT, worksT, handT]) i
  rw [later, usedState_slot hi]
  rfl

theorem enterUnit_returned (h : (s.scannedUnit l).expired = true) :
    (s.enterUnit i l).su.slot i = .occupied (s.scannedUnit l) .returned := by
  rw [enterUnit_eq]
  refine firstState_returned ?_ h
  rw [usedState_slot hi, arrivalState, if_pos h]

variable (fresh : (s.scannedUnit l).expired = false)
include fresh

theorem enterUnit_arrives : (usedState s i (s.scannedUnit l) (s.expectedOf l.code)).su.slot i
    = .occupied (s.scannedUnit l) (.free 0) := by
  rw [usedState_slot hi, arrivalState, if_neg (by simp [fresh])]

theorem enterUnit_takes {r : LineRef} (h : LineTakes s (s.scannedUnit l) ((s.expectedOf l.code).bind (·.link)) r) :
    ((s.enterUnit i l).su.slot i = .occupied (s.scannedUnit l) (.earmarked r.p r.line)
        ∨ (s.enterUnit i l).su.slot i = .occupied (s.scannedUnit l) (.putting r.p r.line))
      ∧ ((s.enterUnit i l).line? r).map LineRec.heldUnits = (s.line? r).map (fun k => k.heldUnits + 1) := by
  have takers := usedState_takers s i (s.scannedUnit l) (s.expectedOf l.code)
  have h' : LineTakes (usedState s i (s.scannedUnit l) (s.expectedOf l.code)) (s.scannedUnit l)
      ((s.expectedOf l.code).bind (·.link)) r :=
    h.imp (fun k => ⟨k.1, takers.openFor k.2⟩) fun k =>
      ⟨fun x hx opens => k.1 x hx (takers.symm.openFor opens), takers.takesFirst k.2⟩
  obtain ⟨slot, held⟩ := firstState_takes (enterUnit_arrives hi fresh) fresh h'
  rw [enterUnit_eq]
  exact ⟨slot, takers.holds held⟩

theorem enterUnit_free (shut : ∀ x, (s.expectedOf l.code).bind (·.link) = some x → ¬ OpenFor s (s.scannedUnit l) x)
    (none : ∀ x, ¬ TakesUp s (s.scannedUnit l) x) :
    (s.enterUnit i l).su.slot i = .occupied (s.scannedUnit l) (.free 0) := by
  have takers := usedState_takers s i (s.scannedUnit l) (s.expectedOf l.code)
  rw [enterUnit_eq]
  exact firstState_free (enterUnit_arrives hi fresh) fresh (fun x hx opens => shut x hx (takers.symm.openFor opens))
    fun x takes => none x (takers.symm.takesUp takes)

end

/-! ### The expected entry of an intake scan -/

theorem expectedOf_none {s : State} {c : ItemCode} (h : ∀ e ∈ s.xu.expected, e.code ≠ c) : s.expectedOf c = none :=
  List.find?_eq_none.2 fun e he => by simpa using h e he

theorem expectedOf_oldest {s : State} {c : ItemCode} {xs ys : List Expected} {e : Expected}
    (h : s.xu.expected = xs ++ e :: ys) (he : e.code = c) (older : ∀ x ∈ xs, x.code ≠ c) : s.expectedOf c = some e := by
  rw [State.expectedOf, h, List.find?_append, List.find?_eq_none.2 fun x hx => by simpa using older x hx]
  simp [he]

section
variable {e : Expected} {xs ys : List Expected} (alone : ∀ x ∈ xs ++ ys, ¬ (x.source = e.source ∧ x.seq = e.seq))
include alone

theorem lessExpected_eq : lessExpected e (xs ++ e :: ys)
    = xs ++ { e with remaining := e.remaining - 1, exposures := e.exposures.drop 1 } :: ys := by
  have stands (zs : List Expected) (h : ∀ x ∈ zs, x ∈ xs ++ ys) : lessExpected e zs = zs := by
    refine Eq.trans (List.map_congr_left fun x hx => ?_) (List.map_id zs)
    exact if_neg (by simpa using alone x (h x hx))
  have before := stands xs fun x hx => List.mem_append_left _ hx
  have behind := stands ys fun x hx => List.mem_append_right _ hx
  unfold lessExpected at before behind ⊢
  rw [List.map_append, List.map_cons, before, behind, if_pos (by simp)]

theorem withoutExpected_eq : withoutExpected e (xs ++ e :: ys) = xs ++ ys := by
  have stands (zs : List Expected) (h : ∀ x ∈ zs, x ∈ xs ++ ys) : withoutExpected e zs = zs :=
    List.filter_eq_self.2 fun x hx => by
      rw [decide_eq_false (alone x (h x hx))]
      rfl
  have before := stands xs fun x hx => List.mem_append_left _ hx
  have behind := stands ys fun x hx => List.mem_append_right _ hx
  unfold withoutExpected at before behind ⊢
  rw [List.filter_append, List.filter_cons_of_neg (by simp), before, behind]

end

section
variable {s : State} {i : Nat} {l : Label} {e : Expected}

theorem enterUnit_unexpected (h : s.expectedOf l.code = none) : (s.enterUnit i l).xu.expected = s.xu.expected := by
  have later := enterUnit_later s i l .expected (by simp [firstT, matchT, worksT, handT])
  refine Eq.trans later ?_
  rw [h]
  exact arrivedState_only s i _ .expected id

variable (h : s.expectedOf l.code = some e)
include h

theorem enterUnit_uses : Only firstT ((arrivedState s i (s.scannedUnit l)).useExpected e) (s.enterUnit i l) := by
  have later := enterUnit_later s i l
  rwa [h] at later

theorem enterUnit_expected : (s.enterUnit i l).xu.expected
    = if e.remaining ≤ 1 then withoutExpected e s.xu.expected else lessExpected e s.xu.expected := by
  have later := enterUnit_uses (i := i) h .expected (by simp [firstT, matchT, worksT, handT])
  have arrived : (arrivedState s i (s.scannedUnit l)).xu.expected = s.xu.expected := arrivedState_only s i _ .expected id
  rw [← arrived, ← useExpected_expected]
  exact later

theorem enterUnit_incoming {r : LineRef} {k : LineRec} (hr : e.link = some r) (hk : s.line? r = some k) :
    ((s.enterUnit i l).line? r).map (·.incoming) = some (k.incoming - 1) := by
  have used := useExpected_incoming (s := arrivedState s i (s.scannedUnit l)) hr
    ((line?_of_build (arrivedState_build s i _ r.p)).trans hk)
  have counts := line?_counts (r := r) (enterUnit_uses (i := i) h (.build .counts r.p)
    (by simp [firstT, matchT, worksT, handT]))
  have incoming := congrArg (Option.map (fun c : Nat × Nat × ExactWait => c.2.1)) counts
  rw [Option.map_map, Option.map_map] at incoming
  exact incoming.trans used

/-- TAKEN of the entry whose last unit is scanned in (R161). -/
theorem enterUnit_taken (last : e.remaining ≤ 1) : (s.jc.state = .isolated → (s.enterUnit i l).lp = s.lp)
    ∧ (s.jc.state ≠ .isolated → s.lp.hasSpace = true →
      Frame.taken e.source e.seq (BitVec.ofNat 8 e.granted) ∈ (s.enterUnit i l).lp.queue)
    ∧ (s.jc.state ≠ .isolated → s.lp.hasSpace = false → s.xu.waiting.length < 16 →
      ⟨Frame.taken e.source e.seq (BitVec.ofNat 8 e.granted), none⟩ ∈ (s.enterUnit i l).xu.waiting) := by
  have arrived := arrivedState_only s i (s.scannedUnit l)
  have lp : (arrivedState s i (s.scannedUnit l)).lp = s.lp := arrived.lp_eq id id id
  have jc : (arrivedState s i (s.scannedUnit l)).jc = s.jc := arrived.jc_eq id
  have waiting : (arrivedState s i (s.scannedUnit l)).xu.waiting = s.xu.waiting := arrived .xuWaiting id
  obtain ⟨queued, waits⟩ := useExpected_taken (s := arrivedState s i (s.scannedUnit l)) last
  rw [lp, jc, waiting] at waits
  rw [lp, jc] at queued
  refine ⟨fun shut => ?_, fun joined space => ?_, fun joined full few => ?_⟩
  · exact (enterUnit_only s i l .shut (by simp [comesT, arriveT, linkT, firstT, matchT, worksT, handT]) shut).2.1
  · exact enterUnit_uses (i := i) h .queued (by simp [firstT, matchT, worksT, handT]) _ (queued joined space)
  · rw [enterUnit_eq, h]
    exact firstState_waiting _ i _ _ _ (waits joined full few)

end

/-- Settles O11. -/
theorem intakeScanEntersUnit : Obligations.IntakeScanEntersUnit := by
  intro raw l i s hl hi
  have here := (slot_isEmpty_of_lowestEmpty hi).1
  have unit := enterUnit_unit (l := l) here
  obtain ⟨number, lamp, amber, chute⟩ := enterUnit_su s i l
  have only := enterUnit_only s i l
  have apart : ¬ (comesT Part.fixed ∨ firstT Part.fixed) := by
    simp [comesT, arriveT, linkT, firstT, matchT, worksT, handT]
  refine ⟨(s.enterUnit i l).flush, execIntakeScan_enters hl hi, ?_⟩
  simp only [State.flush_su, State.flush_jc, State.flush_wf, State.flush_pending, State.flush_xu, State.flush_lp,
    line?_of_build (State.flush_build ..)]
  refine ⟨unit, number, lamp, amber, chute, only.jc_eq apart, only.wf_eq apart, only.pending_eq apart,
    enterUnit_returned here, fun fresh open_ takes hopen htakes => ?_, fun few => ?_, fun v hv => ?_⟩
  · have opens : open_ = OpenFor s (s.scannedUnit l) := funext fun x => propext (hopen x)
    subst opens
    have takesUp : takes = TakesUp s (s.scannedUnit l) := funext fun x => propext (htakes x)
    subst takesUp
    exact ⟨fun r h => enterUnit_takes here fresh h, enterUnit_free here fresh⟩
  · rw [number]
    exact nextNumber_first few
  · obtain rfl : s.scannedUnit l = v := Option.some.inj (unit.symm.trans hv)
    refine ⟨number.symm, rfl, fun none => ?_, fun xs e ys list code older => ?_⟩
    · have none := expectedOf_none none
      refine ⟨?_, ?_, enterUnit_unexpected none⟩
      · unfold State.scannedUnit
        rw [none]
      · unfold State.scannedUnit
        rw [none]
        rfl
    · have oldest := expectedOf_oldest list code older
      refine ⟨?_, ?_, fun r k hr hk => enterUnit_incoming oldest hr hk, fun alone => ⟨fun more => ?_, fun f hf last => ?_⟩⟩
      · unfold State.scannedUnit
        rw [oldest]
      · unfold State.scannedUnit
        rw [oldest]
        rfl
      · rw [enterUnit_expected oldest, if_neg (by omega), list, lessExpected_eq alone]
      · rw [hf, enterUnit_expected oldest, if_pos last, list, withoutExpected_eq alone]
        exact ⟨rfl, enterUnit_taken oldest last⟩

end Sys2Proof.Proofs
end


section
/-! HALT and GO (R182 to R185): what goes on when STOPPED clears (R41, R85, R88). -/

namespace Sys2Proof.Proofs

open Sys2Proof.Machine

/-! ### Changes of one position after another -/

/-- What a fold over positions does to one of them: its own step, between steps that keep what it depends on. -/
theorem foldl_at {K : State → State → Prop} (refl : ∀ s, K s s) (trans : ∀ s t u, K s t → K t u → K s u)
    {f : State → Pos → State} {p : Pos} (others : ∀ s q, q ≠ p → K s (f s q)) {ps : List Pos} (apart : ps.Nodup)
    (hp : p ∈ ps) (s : State) : ∃ a, K s a ∧ K (f a p) (ps.foldl f s) := by
  obtain ⟨as, bs, rfl⟩ := List.append_of_mem hp
  have nodup := List.nodup_append.1 apart
  have without (qs : List Pos) (away : p ∉ qs) (t : State) : K t (qs.foldl f t) := by
    induction qs generalizing t with
    | nil => exact refl t
    | cons q qs ih =>
      obtain ⟨ne, away⟩ := not_or.1 (mt List.mem_cons.2 away)
      exact trans _ _ _ (others t q fun e => ne e.symm) (ih away _)
  refine ⟨as.foldl f s, without as (fun h => nodup.2.2 p h p List.mem_cons_self rfl) s, ?_⟩
  rw [List.foldl_append, List.foldl_cons]
  exact without bs (List.nodup_cons.1 nodup.2.1).1 _

/-! ### What the start of an operation depends on -/

/-- A slot may only have the EARMARKED unit of another position put. -/
def SlotBeside (p : Pos) (x y : Slot) : Prop :=
  y = x ∨ ∃ u q l, q ≠ p ∧ x = .occupied u (.earmarked q l) ∧ y = .occupied u (.putting q l)

/-- What the start of a position's put or removal depends on stands. -/
structure Beside (p : Pos) (s t : State) : Prop where
  build : t.build p = s.build p
  put : t.put p = s.put p
  hold : t.hold p = s.hold p
  wf : t.wf = s.wf
  stopped : t.hc.stopped = s.hc.stopped
  slot : ∀ j, SlotBeside p (s.su.slot j) (t.su.slot j)

theorem SlotBeside.trans {p : Pos} {x y z : Slot} (h : SlotBeside p x y) (k : SlotBeside p y z) : SlotBeside p x z := by
  obtain rfl | ⟨u, q, l, ne, rfl, rfl⟩ := h
  · exact k
  · obtain rfl | ⟨u', q', l', -, e, -⟩ := k
    · exact .inr ⟨u, q, l, ne, rfl, rfl⟩
    · cases e

theorem Beside.refl (p : Pos) (s : State) : Beside p s s := ⟨rfl, rfl, rfl, rfl, rfl, fun _ => .inl rfl⟩

theorem Beside.trans {p : Pos} {s t u : State} (h : Beside p s t) (k : Beside p t u) : Beside p s u :=
  ⟨k.build.trans h.build, k.put.trans h.put, k.hold.trans h.hold, k.wf.trans h.wf, k.stopped.trans h.stopped,
    fun j => (h.slot j).trans (k.slot j)⟩

theorem findIdx?_slots_iff {su : Stock} {test : Slot → Bool} (none : test (.empty none) = false) {i : Nat} :
    su.slots.findIdx? test = some i ↔ test (su.slot i) = true ∧ ∀ j < i, test (su.slot j) = false := by
  refine ⟨fun h => ⟨(slot_of_findIdx h).2, fun j => slot_below_findIdx h⟩, fun ⟨here, below⟩ => ?_⟩
  have within : i < su.slots.length := by
    by_contra beyond
    rw [slot_beyond (by omega), none] at here
    cases here
  refine List.findIdx?_eq_some_iff_getElem.2 ⟨within, by simpa [Stock.slot, within] using here, fun j hj => ?_⟩
  have beside : j < su.slots.length := by omega
  simpa [Stock.slot, beside] using below j hj

theorem findIdx?_of_slots {su su' : Stock} {test : Slot → Bool} (none : test (.empty none) = false)
    (h : ∀ j, test (su'.slot j) = test (su.slot j)) : su'.slots.findIdx? test = su.slots.findIdx? test := by
  refine Option.ext fun i => ?_
  rw [findIdx?_slots_iff none, findIdx?_slots_iff none]
  simp only [h]

section
variable {p : Pos} {s t : State} (h : Beside p s t)
include h

theorem Beside.slotOf (n : UnitNo) : t.su.slotOf n = s.su.slotOf n := by
  refine findIdx?_of_slots rfl fun j => ?_
  obtain e | ⟨u, q, l, -, ex, ey⟩ := h.slot j
  · rw [e]
  · rw [ex, ey]
    rfl

theorem Beside.reservedSlot (q : Pos) : t.su.reservedSlot q = s.su.reservedSlot q := by
  refine findIdx?_of_slots rfl fun j => ?_
  obtain e | ⟨u, q, l, -, ex, ey⟩ := h.slot j
  · rw [e]
  · rw [ex, ey]
    rfl

theorem Beside.earmarked {i l : Nat} {u : UnitRec} (hs : s.su.slot i = .occupied u (.earmarked p l)) :
    t.su.slot i = .occupied u (.earmarked p l) := by
  obtain e | ⟨v, q, k, ne, ex, -⟩ := h.slot i
  · rw [e, hs]
  · rw [hs] at ex
    cases ex
    exact absurd rfl ne

theorem Beside.putting {i l : Nat} {u : UnitRec} (hs : s.su.slot i = .occupied u (.putting p l)) :
    t.su.slot i = .occupied u (.putting p l) := by
  obtain e | ⟨v, q, k, ne, ex, -⟩ := h.slot i
  · rw [e, hs]
  · rw [hs] at ex
    cases ex

theorem Beside.baseline : t.baseline p = s.baseline p := baseline_of_wf h.wf p

end

/-! ### Suspended operations continue (R88) -/

theorem resumeJudged_only (s : State) (q : Pos) : Only (fun x => resumeT q x ∨ x = .pl) s (s.resumeJudged q) := by
  unfold State.resumeJudged
  split
  · split
    · refine ((resumeOp_only s q).mono fun _ => .inl).showTray (fun x hx => ?_) q
      cases x <;> first | exact .inr rfl | exact hx.elim
    · exact .refl _ s
  · exact .refl _ s

theorem resumeJudged_beside (s : State) {p q : Pos} (h : q ≠ p) : Beside p s (s.resumeJudged q) := by
  have only := resumeJudged_only s q
  have su : (s.resumeJudged q).su = s.su := only.su_eq (by simp [resumeT])
  refine ⟨only.build_eq (by simp [resumeT]), only (.put p) ?_, only (.hold p) (by simp [resumeT]),
    only.wf_eq (by simp [resumeT]), only.stopped_eq (by simp [resumeT]), fun j => .inl (by rw [su])⟩
  simp [resumeT, h.symm]

theorem resumeJudged_put {s : State} {p : Pos} {r : PutRec} (hr : s.put p = some r) : (s.resumeJudged p).put p
    = some (if s.judged p r = true then resumedPut (s.baseline p) r else r) := by
  unfold State.resumeJudged
  rw [hr]
  dsimp only
  split
  · rw [State.showTray_put, resumeOp_put hr]
  · exact hr

theorem resumeJudged_idle {s : State} {p : Pos} (h : s.put p = none) : s.resumeJudged p = s := by
  unfold State.resumeJudged
  rw [h]

/-! ### Held-back operations start (R41, R85) -/

/-- The put or removal of a position that STOPPED has held back. -/
def startOp (s : State) (p : Pos) : State := (s.nextPut p).tryRemoval p

/-- What held-back operations of a position change. -/
def startOpT (q : Pos) : Part → Prop := fun x => worksT (· = q) x ∨ removalT (· = q) x

theorem startOp_only (s : State) (q : Pos) : Only (startOpT q) s (startOp s q) :=
  ((Only.refl (startOpT q) s).nextPut (Q := (· = q)) (fun _ => .inl) rfl).tryRemoval (Q := (· = q)) (fun _ => .inr) rfl

theorem PutsOne.beside {p q : Pos} {s t : State} (h : PutsOne q s t) (ne : q ≠ p) (j : Nat) :
    SlotBeside p (s.su.slot j) (t.su.slot j) := by
  obtain ⟨slots, -⟩ | ⟨i, l, u, h⟩ := h
  · exact .inl (slot_of_slots slots j)
  · rw [h.slot j]
    split
    case isTrue e => exact .inr ⟨u, q, l, ne, by rw [e, h.earmarked], rfl⟩
    case isFalse => exact .inl rfl

theorem startOp_beside (s : State) {p q : Pos} (h : q ≠ p) : Beside p s (startOp s q) := by
  have only := startOp_only s q
  have su : (startOp s q).su = (s.nextPut q).su := tryRemoval_su ..
  refine ⟨only.build_eq fun k => ?_, only (.put p) ?_, only (.hold p) ?_, only.wf_eq ?_, only.stopped_eq ?_,
    fun j => ?_⟩
  · cases k <;> simp [startOpT, worksT, removalT, h.symm]
  · simp [startOpT, worksT, removalT, h.symm]
  · simp [startOpT, worksT, removalT, h.symm]
  · simp [startOpT, worksT, removalT]
  · simp [startOpT, worksT, removalT]
  · rw [su]
    exact (nextPut_putsOne s q).beside h j

section
variable {s : State} {p : Pos}

/-- A pending operation is left alone by the start. -/
theorem startOp_pending {r : PutRec} (hr : s.put p = some r) : startOp s p = s := by
  have pending : s.put p ≠ none := by simp [hr]
  rw [startOp, nextPut_pending pending, tryRemoval_stands (.inr (.inl pending))]

variable (going : s.hc.stopped = false)
include going

/-- The held-back put of a PUTTING build starts (R41). -/
theorem startOp_puts {e : PlanEntry} {es : List PlanEntry} {i k : Nat} {v : UnitRec} (ready : ReadyToPut s p)
    (plan : (s.build p).plan = e :: es) (hi : s.su.slotOf e.unit = some i)
    (hs : s.su.slot i = .occupied v (.earmarked p k)) :
    (startOp s p).put p = some (putRecord v e (s.baseline p)) ∧ (startOp s p).su.slot i = .occupied v (.putting p k) := by
  have starts := startPut_starts hi hs
  rw [startOp, nextPut_starts ready plan going, tryRemoval_su, tryRemoval_stands (.inr (.inl (by simp [starts.1])))]
  exact starts

/-- The held-back removal of a position starts (R85). -/
theorem startOp_removes {pu : Purpose} {z : Placed} (idle : s.put p = none) (hpu : pu ≠ .chill)
    (state : (s.build p).state ≠ .putting) (due : s.removalDue p = some (pu, z)) :
    (startOp s p).put p = some (removalRecord pu z (s.baseline p)) := by
  rw [startOp, nextPut_not_putting state, tryRemoval_starts going idle hpu due, startRemoval_put]

theorem startOp_chill {q : Hold} {z : Placed} (idle : s.put p = none) (state : (s.build p).state ≠ .putting)
    (due : s.removalDue p = some (.chill, z)) (hq : s.hold p = some q) :
    (startOp s p).put p = some (removalRecord .chill z (s.baseline p))
      ∧ (startOp s p).hold p = some { q with resolving := .chill } := by
  rw [startOp, nextPut_not_putting state, tryRemoval_chill going idle due hq, startRemoval_put, startRemoval_hold]
  exact ⟨rfl, State.setHold_hold_same ..⟩

end

/-! ### STOPPED clears -/

/-- The state in which STOPPED has cleared, and the lamps are sent anew. -/
def goneOn (s : State) : State := (s.setHc { s.hc with stopped := false }).resendLamps

/-- The state in which suspended operations have continued. -/
def continuedOps (s : State) : State := (goneOn s).fittedPos.foldl State.resumeJudged (goneOn s)

/-- The state in which held-back operations have started too, before the positions look. -/
def resumedOps (s : State) : State := (continuedOps s).fittedPos.foldl startOp (continuedOps s)

/-- What goes on when STOPPED clears, in the model's order (logs 38, 45). -/
theorem clearStopped_eq (s : State) : s.clearStopped
    = (resumedOps s).lookAll.allLines.foldl State.handLine (resumedOps s).lookAll := rfl

theorem foldl_jc {f : State → Pos → State} (h : ∀ s p, (f s p).jc = s.jc) (ps : List Pos) (s : State) :
    (ps.foldl f s).jc = s.jc := by
  induction ps generalizing s with
  | nil => rfl
  | cons p ps ih => rw [List.foldl_cons, ih, h]

theorem fittedPos_of_jc {s t : State} (h : t.jc = s.jc) : t.fittedPos = s.fittedPos := by
  rw [State.fittedPos, State.fittedPos, h]

theorem resumeJudged_jc (s : State) (p : Pos) : (s.resumeJudged p).jc = s.jc :=
  (resumeJudged_only s p).jc_eq (by simp [resumeT])

theorem goneOn_fittedPos (s : State) : (goneOn s).fittedPos = s.fittedPos := rfl

theorem continuedOps_fittedPos (s : State) : (continuedOps s).fittedPos = s.fittedPos :=
  fittedPos_of_jc (foldl_jc resumeJudged_jc _ (goneOn s))

section
variable {s : State} {p : Pos} (fitted : s.isFitted p = true)
include fitted

/-- The way to a position's start: its own operation continues, what it depends on stands. -/
theorem continuedOps_at : ∃ a, Beside p (goneOn s) a ∧ Beside p (a.resumeJudged p) (continuedOps s) :=
  foldl_at (Beside.refl p) (fun _ _ _ => Beside.trans) (fun s _ h => resumeJudged_beside s h) (fittedPos_nodup _)
    (by rw [goneOn_fittedPos]; exact mem_fittedPos.2 fitted) (goneOn s)

theorem resumedOps_at : ∃ b, Beside p (continuedOps s) b ∧ Beside p (startOp b p) (resumedOps s) :=
  foldl_at (Beside.refl p) (fun _ _ _ => Beside.trans) (fun s _ h => startOp_beside s h) (fittedPos_nodup _)
    (by rw [continuedOps_fittedPos]; exact mem_fittedPos.2 fitted) (continuedOps s)

/-- A pending operation continues where no hold suspends it (R88). -/
theorem resumedOps_pending {r : PutRec} (hr : s.put p = some r) : (resumedOps s).put p
    = some (if (goneOn s).judged p r = true then resumedPut (s.baseline p) r else r) := by
  obtain ⟨a, before, after⟩ := continuedOps_at fitted
  obtain ⟨b, before', after'⟩ := resumedOps_at fitted
  have ha : a.put p = some r := before.put.trans hr
  have judged : a.judged p r = (goneOn s).judged p r := by
    rw [State.judged, State.judged, State.heldSuspends, State.heldSuspends, before.build, before.stopped]
  have continued := resumeJudged_put ha
  rw [judged, before.baseline] at continued
  have hb := before'.put.trans (after.put.trans continued)
  rw [after'.put, startOp_pending hb, hb]
  rfl

/-- A position without an operation is as it was when its own start comes. -/
theorem resumedOps_idle (idle : s.put p = none) :
    ∃ b, Beside p (goneOn s) b ∧ Beside p (startOp b p) (resumedOps s) := by
  obtain ⟨a, before, after⟩ := continuedOps_at fitted
  obtain ⟨b, before', after'⟩ := resumedOps_at fitted
  rw [resumeJudged_idle (before.put.trans idle)] at after
  exact ⟨b, before.trans (after.trans before'), after'⟩

end

/-! ### HALT -/

/-- What STOPPED has XU give up changes: waiting ASKs and their records. -/
def haltT : Part → Prop
  | .asks | .xuWaiting => True
  | .build .lines _ => True
  | _ => False

theorem enterStopped_only (s : State) : Only haltT ((s.setHc { s.hc with stopped := true }).setXu { s.xu with askQueue := [] })
    s.enterStopped :=
  (Only.refl _ _).foldl _ (fun _ _ k => k.clearAsk trivial trivial trivial) _

theorem enterStopped_effect (s : State) : s.enterStopped.hc = { s.hc with stopped := true } ∧ s.enterStopped.cu = s.cu
    ∧ s.enterStopped.su = s.su ∧ s.enterStopped.wf = s.wf ∧ s.enterStopped.pv = s.pv := by
  have only := enterStopped_only s
  exact ⟨only.hc_eq id id fun _ => id, only.cu_eq id id, only.su_eq (by simp [haltT]), only.wf_eq id,
    only.pv_eq fun _ => id⟩

/-! ### What goes on beside the operations -/

/-- What the operations that go on change. -/
def goT : Part → Prop := fun x => ∃ q, startOpT q x ∨ resumeT q x ∨ x = .pl

theorem resumedOps_only (s : State) : Only goT (goneOn s) (resumedOps s) := by
  have continued : Only goT (goneOn s) (continuedOps s) :=
    (Only.refl goT _).foldl _ (fun t p k => k.trans ((resumeJudged_only t p).mono fun _ h => ⟨p, .inr h⟩)) _
  exact continued.foldl _ (fun t p k => k.trans ((startOp_only t p).mono fun _ h => ⟨p, .inl h⟩)) _

theorem resumedOps_stands (s : State) : (resumedOps s).hc.stopped = false ∧ (resumedOps s).hc.localStop = s.hc.localStop
    ∧ (resumedOps s).jc = s.jc ∧ (resumedOps s).cu.notices = s.cu.notices ∧ (resumedOps s).xu = s.xu
    ∧ (resumedOps s).wf = s.wf := by
  have only := resumedOps_only s
  obtain ⟨jc, wf, -, stopped, localStop⟩ := only .fixed (by simp [goT, startOpT, worksT, removalT, resumeT])
  refine ⟨stopped, localStop, jc, only .notices ?_, only.xu_eq ?_, wf⟩
  all_goals simp [goT, startOpT, worksT, removalT, resumeT]

/-! ### The commands -/

theorem ofBody_nil {k : Kind} {b : List Byte} (hk : k = .halt ∨ k = .go) (h : b ≠ []) : Frame.ofBody k b = none := by
  cases b with
  | nil => exact absurd rfl h
  | cons x xs => obtain rfl | rfl := hk <;> rfl

theorem handOver_kind {s u : State} {k : Kind} {h : Handed} (hh : s.handOver k = some (h, u)) : h.kind = k :=
  (handOver_eq hh).1

section
variable {s u : State} {h : Handed}

theorem execHalt_halts (hh : s.handOver .halt = some (h, u)) (body : Frame.ofBody h.kind h.body = some .halt) :
    exec .halt s = if h.own || u.hc.stopped then finish u else finish u.enterStopped := by
  show execHalt s = _
  simp only [execHalt, hh, body]

theorem execHalt_discards (hh : s.handOver .halt = some (h, u)) (body : h.body ≠ []) : exec .halt s = finish u := by
  show execHalt s = _
  simp only [execHalt, hh, ofBody_nil (.inl (handOver_kind hh)) body]

theorem execHalt_own (hh : s.handOver .halt = some (h, u)) (own : h.own = true) : exec .halt s = finish u := by
  by_cases body : h.body = []
  · have halts : Frame.ofBody h.kind h.body = some .halt := by rw [handOver_kind hh, body]; rfl
    rw [execHalt_halts hh halts, own]
    rfl
  · exact execHalt_discards hh body

theorem execGo_goes (hh : s.handOver .go = some (h, u)) (body : Frame.ofBody h.kind h.body = some .go) :
    exec .go s = if u.hc.localStop || !u.hc.stopped then finish u else finishServing u.clearStopped := by
  show execGo s = _
  simp only [execGo, hh, body]

theorem execGo_discards (hh : s.handOver .go = some (h, u)) (body : h.body ≠ []) : exec .go s = finish u := by
  show execGo s = _
  simp only [execGo, hh, ofBody_nil (.inr (handOver_kind hh)) body]

theorem execGo_running (hh : s.handOver .go = some (h, u)) (going : u.hc.stopped = false) : exec .go s = finish u := by
  by_cases body : h.body = []
  · have goes : Frame.ofBody h.kind h.body = some .go := by rw [handOver_kind hh, body]; rfl
    rw [execGo_goes hh goes, going]
    simp
  · exact execGo_discards hh body

/-- What clearing STOPPED leaves: the bench runs, the local stop and the platforms stand. -/
theorem clearStopped_served (s : State) : (servedState s.clearStopped).hc.stopped = false
    ∧ (servedState s.clearStopped).hc.localStop = s.hc.localStop ∧ (servedState s.clearStopped).wf = s.wf := by
  obtain ⟨stopped, localStop, -, -, -, wf⟩ := resumedOps_stands s
  have handed : Steady (resumedOps s) s.clearStopped := by
    rw [clearStopped_eq]
    exact ((Steady.refl _).lookAll).foldl _ (fun _ r k => k.handLine r) _
  obtain ⟨-, wf', -, stopped', localStop'⟩ := servedState_only s.clearStopped .fixed id
  exact ⟨stopped'.trans (handed.stopped.trans stopped), localStop'.trans (handed.localStop.trans localStop),
    wf'.trans (handed.wf.trans wf)⟩

/-- What a position's operation becomes when STOPPED clears (R88). -/
theorem resumedOps_put {p : Pos} (fitted : s.isFitted p = true) {r : PutRec} (hr : s.put p = some r) :
    ((r.phase = .faulted ∨ s.heldSuspends p r = true) → (resumedOps s).put p = some r)
    ∧ (r.phase ≠ .faulted → s.heldSuspends p r = false →
      (r.phase ≠ .awaitBase → (resumedOps s).put p = some { r with resuming := true })
      ∧ (r.phase = .awaitBase →
        (∀ g, s.stable p = some g → 100 ≤ g → (resumedOps s).put p = some { r with
            phase := .awaitMove, baseline := some g, failed := false })
        ∧ ((∀ g, s.stable p = some g → g < 100) → (resumedOps s).put p = some r))) := by
  have put := resumedOps_pending fitted hr
  have judged : (goneOn s).judged p r = (!s.heldSuspends p r && decide (r.phase ≠ .faulted)) := rfl
  rw [judged] at put
  refine ⟨fun h => ?_, fun live unheld => ?_⟩
  · rw [put, if_neg]
    obtain h | h := h <;> simp [h]
  · rw [if_pos (by simp [live, unheld])] at put
    refine ⟨fun other => by rw [put, resumedPut_on other], fun base => ⟨fun g hg heavy => ?_, fun light => ?_⟩⟩
    · rw [put, baseline_eq hg heavy, resumedPut_some base]
    · rw [put, baseline_none_iff.2 light, resumedPut_none base]

end

section
variable {s : State} {p : Pos} (fitted : s.isFitted p = true) (idle : s.put p = none)
include fitted idle

/-- The held-back put of a position starts when STOPPED clears (R41). -/
theorem resumedOps_puts {e : PlanEntry} {es : List PlanEntry} {i k : Nat} {v : UnitRec}
    (putting : (s.build p).state = .putting) (tare : (s.build p).tare ≠ none) (tray : (s.build p).trayWanted = false)
    (due : (s.build p).regatherDue = false) (plan : (s.build p).plan = e :: es) (hi : s.su.slotOf e.unit = some i)
    (hs : s.su.slot i = .occupied v (.earmarked p k)) :
    (resumedOps s).put p = some (putRecord v e (s.baseline p))
      ∧ (resumedOps s).su.slot i = .occupied v (.putting p k) := by
  obtain ⟨b, before, after⟩ := resumedOps_idle fitted idle
  have build : b.build p = s.build p := before.build
  have ready : ReadyToPut b p :=
    ⟨by rw [build]; exact putting, by rw [build]; exact tare, by rw [build]; exact tray, by rw [build]; exact due,
      before.put.trans idle⟩
  obtain ⟨put, slot⟩ := startOp_puts before.stopped ready (by rw [build]; exact plan) ((before.slotOf e.unit).trans hi)
    (before.earmarked hs)
  rw [after.put, put, before.baseline]
  exact ⟨rfl, after.putting slot⟩

/-- The held-back removal of a position starts when STOPPED clears (R85). -/
theorem resumedOps_removes {pu : Purpose} {z : Placed} (hpu : pu ≠ .chill) (state : (s.build p).state ≠ .putting)
    (due : ∀ b, Beside p (goneOn s) b → b.removalDue p = some (pu, z)) :
    (resumedOps s).put p = some (removalRecord pu z (s.baseline p)) := by
  obtain ⟨b, before, after⟩ := resumedOps_idle fitted idle
  have state' : (b.build p).state ≠ .putting := by
    rw [before.build]
    exact state
  rw [after.put, startOp_removes before.stopped (before.put.trans idle) hpu state' (due b before), before.baseline]
  rfl

theorem resumedOps_chill {q : Hold} {z : Placed} (state : (s.build p).state ≠ .putting) (hq : s.hold p = some q)
    (due : ∀ b, Beside p (goneOn s) b → b.removalDue p = some (.chill, z)) :
    (resumedOps s).put p = some (removalRecord .chill z (s.baseline p))
      ∧ (resumedOps s).hold p = some { q with resolving := .chill } := by
  obtain ⟨b, before, after⟩ := resumedOps_idle fitted idle
  have state' : (b.build p).state ≠ .putting := by
    rw [before.build]
    exact state
  obtain ⟨put, hold⟩ := startOp_chill before.stopped (before.put.trans idle) state' (due b before) (before.hold.trans hq)
  rw [after.put, put, after.hold, hold, before.baseline]
  exact ⟨rfl, rfl⟩

end

/-- Settles O22. -/
theorem haltAndGo : Obligations.HaltAndGo := by
  refine fun h u s => ⟨fun hh body other => ?_, fun hh own => ?_, fun hh body => ?_, fun hh body => ?_,
    fun hh body stopped => ?_, fun hh body stopped released => ?_, fun hh going => ?_⟩
  · obtain ⟨cu, -, -, -, -, hc, pv, -, -⟩ := handed_cu hh
    have su : u.su = s.su := by
      obtain ⟨-, _, _, rfl⟩ := handOver_eq hh
      rfl
    have wf : u.wf = s.wf := by
      obtain ⟨-, _, _, rfl⟩ := handOver_eq hh
      rfl
    rw [execHalt_halts hh body, other]
    cases stopped : u.hc.stopped with
    | true =>
      refine ⟨_, rfl, ?_⟩
      rw [State.flush_hc, State.flush_cu, State.flush_su, State.flush_wf, State.flush_pv, hc, cu, su, wf, pv]
      exact ⟨hc ▸ stopped, rfl, rfl, rfl, rfl, rfl, rfl, rfl⟩
    | false =>
      obtain ⟨hc', cu', su', wf', pv'⟩ := enterStopped_effect u
      refine ⟨_, rfl, ?_⟩
      rw [State.flush_hc, State.flush_cu, State.flush_su, State.flush_wf, State.flush_pv, hc', cu', su', wf', pv', hc, cu,
        su, wf, pv]
      exact ⟨rfl, rfl, rfl, rfl, rfl, rfl, rfl, rfl⟩
  · rw [execHalt_own hh own]
    exact finish_handed hh
  · rw [execHalt_discards hh body]
    exact finish_handed hh
  · rw [execGo_discards hh body]
    exact finish_handed hh
  · obtain ⟨-, -, -, -, -, hc, -⟩ := handed_cu hh
    have wf : u.wf = s.wf := by
      obtain ⟨-, _, _, rfl⟩ := handOver_eq hh
      rfl
    rw [execGo_goes hh body, hc, stopped]
    cases localStop : s.hc.localStop with
    | true =>
      refine ⟨_, rfl, ?_⟩
      rw [State.flush_hc, State.flush_wf, hc, wf]
      exact ⟨stopped, localStop, rfl⟩
    | false =>
      obtain ⟨running, released, platforms⟩ := clearStopped_served u
      exact ⟨_, finishServing_eq _, running, released.trans (hc ▸ localStop), platforms.trans wf⟩
  · obtain ⟨cu, -, -, fittedN, be, hc, pv, xu, -⟩ := handed_cu hh
    obtain ⟨running, localStop, jc, notices, xu', wf'⟩ := resumedOps_stands u
    have su : u.su = s.su := by
      obtain ⟨-, _, _, rfl⟩ := handOver_eq hh
      rfl
    have wf : u.wf = s.wf := by
      obtain ⟨-, _, _, rfl⟩ := handOver_eq hh
      rfl
    refine ⟨resumedOps u, (resumedOps u).lookAll, rfl, ?_, running, localStop.trans (hc ▸ released), jc,
      notices.trans (congrArg ClaimUnit.notices cu), xu'.trans xu, wf'.trans wf, fun p fitted => ?_⟩
    · rw [execGo_goes hh body, hc, stopped, released, clearStopped_eq]
      rfl
    · have fitted' : u.isFitted p = true := by
        rw [State.isFitted, fittedN]
        exact fitted
      obtain ⟨build, hold, put, -⟩ := handed_facts hh p
      have baseline : u.baseline p = s.baseline p := baseline_of_wf wf p
      have stable : u.stable p = s.stable p := by rw [State.stable, State.stable, wf]
      rw [← put, ← build, ← hold, ← su, ← baseline, ← stable]
      refine ⟨fun r hr => ?_, fun idle => ⟨fun e es i v k putting tare tray due plan hi hs => ?_,
        fun z unloading given hz => ?_, fun q z held hq undo given hz => ?_,
        fun q n ns z held hq other cause named hz => ?_⟩⟩
      · have suspends : s.heldSuspends p r = u.heldSuspends p r := by
          rw [State.heldSuspends, State.heldSuspends, build]
        rw [suspends]
        exact resumedOps_put fitted' hr
      · exact resumedOps_puts fitted' idle putting tare tray due plan hi hs
      · refine resumedOps_removes fitted' idle nofun (by simp [unloading]) fun b before => ?_
        exact removalDue_unload (by rw [before.build]; exact unloading) (by rw [before.reservedSlot]; exact given)
          (by rw [before.build]; exact hz)
      · refine resumedOps_removes fitted' idle nofun (by simp [held]) fun b before => ?_
        exact removalDue_undo (by rw [before.build]; exact held) (before.hold.trans hq) undo
          (by rw [before.reservedSlot]; exact given) (by rw [before.build]; exact hz)
      · refine resumedOps_chill fitted' idle (by simp [held]) hq fun b before => ?_
        exact removalDue_chill (by rw [before.build]; exact held) (before.hold.trans hq) other cause named
          (by rw [before.build]; exact hz)
  · obtain ⟨-, -, -, -, -, hc, -⟩ := handed_cu hh
    rw [execGo_running hh (by rw [hc]; exact going)]
    exact finish_handed hh

end Sys2Proof.Proofs
end


section
/-! BENCH_RESET (R144, R201, R209): what it keeps, and the CLAIMs of the positions that mark a notice at once. -/

namespace Sys2Proof.Proofs

open Sys2Proof.Machine

/-! ### The transmit queue as the positions look -/

/-- A frame goes behind the frames it does not come before, and ahead of the rest. -/
theorem insertBy_between {α : Type} {before : α → α → Bool} {x : α} {xs ys : List α} (hx : ∀ a ∈ xs, before x a = false)
    (hy : ∀ b ∈ ys, before x b = true) : insertBy before x (xs ++ ys) = xs ++ x :: ys := by
  induction xs with
  | nil =>
    cases ys with
    | nil => rfl
    | cons y ys =>
      rw [List.nil_append, insertBy]
      exact if_pos (hy y List.mem_cons_self)
  | cons a xs ih =>
    rw [List.cons_append, insertBy, hx a List.mem_cons_self, ih fun b hb => hx b (List.mem_cons_of_mem a hb)]
    rfl

/-- The CLAIMs of positions that have marked a notice, in letter order. -/
def claimsOf (s : State) (ps : List Pos) : List Frame := ps.filterMap (fun p => (s.build p).link.map Frame.claim)

/-- A transmit queue that has room for the CLAIM of every position, ahead of what stands in it. -/
structure RoomForClaims (s : State) : Prop where
  contending : s.lp.contending = none
  started : ∀ x, s.lp.started = some x → x.holdsPlace = false
  few : s.lp.queue.length ≤ 1
  last : ∀ f ∈ s.lp.queue, f.cls = 3
  waiting : s.cu.waiting = []
  cleared : ∀ p, s.build p = .cleared

/-- A position is EMPTY, or it claims the notice it has marked. -/
def ClaimsMarked (s : State) (p : Pos) : Prop := s.build p = .cleared ∨ ∃ n ∈ s.cu.notices,
  (∀ m ∈ s.cu.notices, m.order = n.order → m.state = .marked p)
    ∧ s.build p = { Build.cleared with state := .claiming, link := some n.order }

/-- What the positions of a list have done by looking one after another. -/
structure LooksDone (w v : State) (ps : List Pos) : Prop where
  only : Only (lookT fun _ => True) w v
  marks : Marks w v
  queue : v.lp.queue = claimsOf v ps ++ w.lp.queue
  waiting : v.cu.waiting = []
  rest : ∀ p, p ∉ ps → v.build p = .cleared
  claims : ∀ p, ClaimsMarked v p

theorem LooksDone.nil {w : State} (h : RoomForClaims w) : LooksDone w w [] :=
  ⟨.refl _ w, .of_eq rfl, rfl, h.waiting, fun p _ => h.cleared p, fun p => .inl (h.cleared p)⟩

section
variable {w v : State} {ps : List Pos} {q : Pos} (room : RoomForClaims w) (h : LooksDone w v ps)
include room h

theorem LooksDone.hasSpace (few : ps.length < 4) : v.lp.hasSpace = true := by
  have contending : v.lp.contending = none := Eq.trans (h.only .contending id) room.contending
  have started : v.lp.started = w.lp.started := (h.only .port id).1
  have claims : (claimsOf v ps).length ≤ ps.length := List.length_filterMap_le ..
  have queue : v.lp.queue.length ≤ 4 := by
    rw [h.queue, List.length_append]
    have := room.few
    omega
  have places : v.lp.places = v.lp.queue.length := by
    unfold LinePort.places LinePort.unstarted
    rw [contending, started]
    cases hs : w.lp.started with
    | none => rfl
    | some x => simp [room.started x hs]
  rw [LinePort.hasSpace, places, decide_eq_true_iff]
  exact Nat.lt_of_le_of_lt queue (by decide)

omit room in
theorem LooksDone.stands (new : q ∉ ps) (step : v.look q = v) : LooksDone w (v.look q) (ps ++ [q]) := by
  rw [step]
  refine ⟨h.only, h.marks, ?_, h.waiting, fun p hp => h.rest p fun k => hp (List.mem_append_left _ k), h.claims⟩
  have none : claimsOf v [q] = [] := by
    rw [claimsOf, List.filterMap_cons, h.rest q new]
    rfl
  rw [h.queue, claimsOf, claimsOf, List.filterMap_append, show List.filterMap _ [q] = [] from none, List.append_nil]

omit room in
/-- A position's look leaves the others with the notices they have marked. -/
theorem LooksDone.mark_claims {n : Notice} (new : q ∉ ps) (hn : n ∈ v.cu.notices) (hq : n.qualifies = true) (p : Pos) :
    ClaimsMarked (v.mark q n) p := by
  have notices := mark_notices v q n
  unfold ClaimsMarked
  rw [notices]
  by_cases e : p = q
  · subst e
    refine .inr ⟨_, List.mem_map_of_mem hn, fun m hm order => ?_, ?_⟩
    · rw [if_pos rfl] at order
      obtain ⟨k, hk, rfl⟩ := List.mem_map.1 hm
      split at order
      case isTrue ho => rw [if_pos ho]
      case isFalse ho => exact absurd order ho
    · rw [mark_build_same, h.rest p new, if_pos rfl]
  · rw [mark_build_other v n e]
    refine (h.claims p).imp_right fun ⟨m, hm, marked, build⟩ => ?_
    have apart : m.order ≠ n.order := fun ho => by
      rw [qualifies_iff, marked n hn ho.symm] at hq
      simp at hq
    refine ⟨m, List.mem_map.2 ⟨m, hm, if_neg apart⟩, fun k hk order => ?_, build⟩
    obtain ⟨k, hk', rfl⟩ := List.mem_map.1 hk
    split at order
    case isTrue ho => exact absurd (order.symm.trans ho) apart
    case isFalse ho =>
      rw [if_neg ho]
      exact marked k hk' order

theorem LooksDone.mark (new : q ∉ ps) (few : ps.length < 4) {n : Notice} (hn : n ∈ v.cu.notices)
    (hq : n.qualifies = true) (active : v.jc.state = .active) (step : v.look q = v.mark q n) :
    LooksDone w (v.look q) (ps ++ [q]) := by
  have produced : (markedState v q n).produceCu (.claim n.order)
      = (markedState v q n).setLp (v.lp.enqueue (.claim n.order)) :=
    produceCu_queued (s := markedState v q n) (show v.jc.state ≠ _ by simp [active])
      (show v.lp.hasSpace = true from h.hasSpace room few) _
  have same := mark_setPl v q n v.pl
  rw [produced] at same
  have lp : (v.mark q n).lp = v.lp.enqueue (.claim n.order) := congrArg State.lp same
  have waiting : (v.mark q n).cu.waiting = v.cu.waiting := congrArg (fun u => u.waiting) (congrArg State.cu same)
  have builds : claimsOf (v.mark q n) ps = claimsOf v ps := by
    refine List.filterMap_congr fun p hp => ?_
    have other : p ≠ q := fun e => new (e ▸ hp)
    rw [mark_build_other v n other]
  have own : claimsOf (v.mark q n) [q] = [.claim n.order] := by
    rw [claimsOf, List.filterMap_cons, mark_build_same]
    rfl
  refine ⟨h.only.trans ((Only.refl _ v).look (le_refl _) trivial), h.marks.trans (look_marks v q), ?_, ?_, fun p hp => ?_,
    fun p => ?_⟩
  · have behind : ∀ a ∈ claimsOf v ps, decide ((Frame.claim n.order).cls < a.cls) = false := fun a ha => by
      obtain ⟨p, -, hp⟩ := List.mem_filterMap.1 ha
      obtain ⟨o, -, rfl⟩ := Option.map_eq_some_iff.1 hp
      rfl
    have ahead : ∀ b ∈ w.lp.queue, decide ((Frame.claim n.order).cls < b.cls) = true := fun b hb => by
      rw [room.last b hb]
      rfl
    rw [step, lp, claimsOf, List.filterMap_append]
    show insertBy _ _ v.lp.queue = claimsOf (v.mark q n) ps ++ claimsOf (v.mark q n) [q] ++ w.lp.queue
    rw [h.queue, insertBy_between behind ahead, builds, own, List.append_assoc]
    rfl
  · rw [step, waiting, h.waiting]
  · rw [step, mark_build_other v n fun e => hp (by simp [e]), h.rest p fun k => hp (List.mem_append_left _ k)]
  · rw [step]
    exact h.mark_claims new hn hq p

theorem LooksDone.look (new : q ∉ ps) (few : ps.length < 4) : LooksDone w (v.look q) (ps ++ [q]) := by
  obtain e | ⟨n, hn, hq, -, active, e⟩ := look_cases v q
  · exact h.stands new e
  · exact h.mark room new few hn hq active e

end

theorem LooksDone.foldl {w v : State} (room : RoomForClaims w) {ps qs : List Pos} (h : LooksDone w v ps)
    (apart : (ps ++ qs).Nodup) (few : (ps ++ qs).length ≤ 4) : LooksDone w (qs.foldl State.look v) (ps ++ qs) := by
  induction qs generalizing v ps with
  | nil => simpa using h
  | cons q qs ih =>
    have new : q ∉ ps := fun hq => (List.nodup_append.1 apart).2.2 q hq q List.mem_cons_self rfl
    rw [List.length_append, List.length_cons] at few
    have next := ih (h.look room new (by omega)) (by simpa using apart) (by simpa using few)
    simpa using next

theorem lookAll_done {w : State} (room : RoomForClaims w) : LooksDone w w.lookAll w.fittedPos := by
  have few : w.fittedPos.length ≤ 4 := by
    rw [State.fittedPos, List.length_take]
    exact min_le_right ..
  exact (LooksDone.nil room).foldl room (ps := []) (fittedPos_nodup w) few

/-- Positions that are not fitted claim nothing. -/
theorem lookAll_queue {w : State} (room : RoomForClaims w) :
    w.lookAll.lp.queue = claimsOf w.lookAll Pos.all ++ w.lp.queue := by
  have done := lookAll_done room
  have none : claimsOf w.lookAll (Pos.all.drop w.jc.fitted) = [] := by
    refine List.filterMap_eq_nil_iff.2 fun p hp => ?_
    have new : p ∉ w.fittedPos := fun k => by
      have apart : (Pos.all.take w.jc.fitted ++ Pos.all.drop w.jc.fitted).Nodup := by
        rw [List.take_append_drop]
        decide
      exact (List.nodup_append.1 apart).2.2 p k p hp rfl
    rw [done.rest p new]
    rfl
  have whole : claimsOf w.lookAll Pos.all = claimsOf w.lookAll w.fittedPos := by
    have split := congrArg (claimsOf w.lookAll) (List.take_append_drop w.jc.fitted Pos.all)
    rw [claimsOf, List.filterMap_append] at split
    rw [← split]
    exact (congrArg _ none).trans (List.append_nil _)
  rw [done.queue, whole]

theorem lookAll_stands {w : State} (h : w.jc.state ≠ .active) : w.lookAll = w := by
  have stands (ps : List Pos) : ps.foldl State.look w = w := by
    induction ps with
    | nil => rfl
    | cons p ps ih => rw [List.foldl_cons, look_stands (.inr (.inl h)), ih]
  exact stands _

/-! ### BENCH_RESET -/

/-- The queue a bench reset leaves: the fresh ROLL alone, or nothing while ISOLATED. -/
def resetQueue (s : State) : List Frame :=
  if s.jc.state = .isolated then [] else [.roll true (BitVec.ofNat 8 s.jc.fitted)]

/-- The state a bench reset leaves before the positions look. -/
def rollState (s : State) (w : Panel) : State :=
  ((s.benchCleared.setLp { s.benchCleared.lp with queue := resetQueue s }).setJc { s.benchCleared.jc with
    rollLeft := if s.jc.state = .active then some 10 else none }).setPl w

/-- Nothing stands in the way of the fresh ROLL. -/
theorem benchCleared_accepts (s : State) (w : Panel) : (s.benchCleared.setPl w).accepts3 = true := by
  have space : s.benchCleared.lp.hasSpace = true ∧ s.benchCleared.lp.class3 = 0 := by
    unfold State.benchCleared
    cases s.lp.started <;> exact ⟨rfl, rfl⟩
  have quiet : (s.benchCleared.setPl w).anyWaiting = false := rfl
  rw [State.accepts3, quiet]
  show ((State.isolated _) || (s.benchCleared.lp.hasSpace && decide (s.benchCleared.lp.class3 < _) && _)) = true
  rw [space.1, space.2]
  simp [Config.maxClass3]

theorem offered (s : State) : ∃ w, (if (State.fillOwed Config.maxPanel s.benchCleared).isolated then
    State.fillOwed Config.maxPanel s.benchCleared else (State.fillOwed Config.maxPanel s.benchCleared).offerRoll true)
      = rollState s w := by
  obtain ⟨v, hv⟩ := fillOwed_only_pl Config.maxPanel s.benchCleared
  refine ⟨v, ?_⟩
  have isolated : (s.benchCleared.setPl v).isolated = decide (s.jc.state = .isolated) := rfl
  rw [hv, isolated]
  by_cases shut : s.jc.state = .isolated
  · rw [if_pos (by simp [shut]), rollState, resetQueue, if_pos shut,
      if_neg (by simp [shut])]
    rfl
  · rw [if_neg (by simp [shut]), rollState, resetQueue, if_neg shut]
    rw [State.offerRoll, if_pos (benchCleared_accepts s v), State.transmit, isolated,
      if_neg (by simp [shut])]
    rfl

theorem rollState_room (s : State) (w : Panel) : RoomForClaims (rollState s w) where
  contending := rfl
  started x hx := by
    obtain ⟨y, -, rfl⟩ := Option.map_eq_some_iff.1 hx
    rfl
  few := by
    show (resetQueue s).length ≤ 1
    unfold resetQueue
    split <;> simp
  last f hf := by
    have hf : f ∈ resetQueue s := hf
    unfold resetQueue at hf
    split at hf
    · cases hf
    · rw [List.mem_singleton.1 hf]
      rfl
  waiting := rfl
  cleared p := by cases p <;> rfl

/-- The order ids, contents, counts and released-by-me marks of the notices a bench reset leaves. -/
theorem benchReset_facts (ns : List Notice) :
    (ns.filterMap Notice.benchReset).map (fun n => (n.order, n.info, n.count, n.releasedByMe))
      = ns.filterMap (fun n => n.benchReset.map (fun n => (n.order, n.info, n.count, n.releasedByMe))) := by
  rw [List.map_filterMap]

theorem benchReset_order {n m : Notice} (h : n.benchReset = some m) : n.order = m.order := by
  unfold Notice.benchReset at h
  dsimp only at h
  split at h
  case h_3 => cases h
  all_goals
    obtain rfl := Option.some.inj h
    rfl

/-- A notice of ours that a bench reset releases (R144). -/
def releasedNotice (n : Notice) : Notice :=
  { n with
    state := if 3 ≤ min (n.count + 1) 3 then .stranded else .opened
    count := min (n.count + 1) 3
    releasedByMe := true }

theorem benchReset_held {n : Notice} (held : (∃ p, n.state = .marked p) ∨ ∃ p, n.state = .mine p) :
    n.benchReset = some (releasedNotice n) := by
  unfold Notice.benchReset
  obtain ⟨p, h⟩ | ⟨p, h⟩ := held <;> rw [h] <;> rfl

theorem releasedNotice_state (n : Notice) :
    (releasedNotice n).state = if 2 ≤ n.count then .stranded else .opened := by
  refine if_congr ?_ rfl rfl
  omega

section
variable {s : State} {n : Notice} (hn : n ∈ s.cu.notices)
    (held : (∃ p, n.state = .marked p) ∨ ∃ p, n.state = .mine p) (alone : ∀ m ∈ s.cu.notices, m.order = n.order → m = n)
include hn held alone

/-- The notice of an order that was ours is released, and no position marks it again. -/
theorem lookAll_released (w : Panel) : ∃ m ∈ (rollState s w).lookAll.cu.notices, m.order = n.order
    ∧ m.state = (if 2 ≤ n.count then .stranded else .opened) := by
  have reset := benchReset_held held
  have listed : releasedNotice n ∈ (rollState s w).cu.notices := List.mem_filterMap.2 ⟨n, hn, reset⟩
  refine ⟨releasedNotice n, ((lookAll_done (rollState_room s w)).marks.mem_of_order (fun k hk order => ?_) rfl).2 listed,
    rfl, releasedNotice_state n⟩
  obtain ⟨j, hj, hk⟩ := List.mem_filterMap.1 (show k ∈ s.cu.notices.filterMap Notice.benchReset from hk)
  obtain rfl : j = n := alone j hj ((benchReset_order hk).trans order)
  rw [reset] at hk
  obtain rfl := Option.some.inj hk
  simp [Notice.qualifies, releasedNotice]

end

theorem ClaimsMarked.facts {s : State} {p : Pos} (h : ClaimsMarked s p) : (s.build p).content = [] ∧ (s.build p).plan = []
    ∧ (s.build p).lines = [] ∧ (s.build p).exclusion = [] ∧ (s.build p).tare = none ∧ (s.build p).claimOrder = none
    ∧ (s.build p).gatherLeft = none ∧ (s.build p).unloadReason = none
    ∧ ((s.build p).state = .empty ∧ (s.build p).link = none ∨ (s.build p).state = .claiming
      ∧ ∃ n ∈ s.cu.notices, n.state = .marked p ∧ (s.build p).link = some n.order) := by
  obtain e | ⟨n, hn, marked, e⟩ := h <;> rw [e]
  · exact ⟨rfl, rfl, rfl, rfl, rfl, rfl, rfl, rfl, .inl ⟨rfl, rfl⟩⟩
  · exact ⟨rfl, rfl, rfl, rfl, rfl, rfl, rfl, rfl, .inr ⟨rfl, n, hn, marked n hn rfl, rfl⟩⟩

/-- Settles O9. -/
theorem benchResetKeepsAndClears : Obligations.BenchResetKeepsAndClears := by
  intro s
  obtain ⟨w, hw⟩ := offered s
  have run : exec .benchReset s = .next (rollState s w).lookAll.flush := by
    show finish (State.lookAll _) = _
    rw [hw]
    rfl
  have room := rollState_room s w
  have done := lookAll_done room
  have only := done.only
  have queue := lookAll_queue room
  obtain ⟨jc, wf, pending, stopped, localStop⟩ := only .fixed id
  obtain ⟨started, handover, faults, suppression⟩ := only .port id
  have hc : (rollState s w).lookAll.hc = (rollState s w).hc := only.hc_eq id id fun _ => id
  refine ⟨_, run, ?_⟩
  simp only [State.flush_jc, State.flush_hc, State.flush_lp, State.flush_cu, State.flush_build, State.flush_su,
    State.flush_wf, State.flush_pv, State.flush_vu, State.flush_xu, State.flush_claimCounter, State.flush_pending]
  rw [jc, hc, started, handover, faults, suppression, wf, pending, only.su_eq (by simp [lookT]),
    only.xu_eq (by simp [lookT]), only.pv_eq fun _ => id, show (rollState s w).lookAll.claimCounter = _ from only .counter id]
  have vu : (rollState s w).lookAll.vu = .all .reset := perPos_eq fun q => only (.val q) id
  refine ⟨rfl, rfl, rfl, rfl, rfl, rfl, rfl, rfl, rfl, rfl, rfl, ?_, rfl, only .contending id, ?_,
    fun n hn held alone => lookAll_released hn held alone w, fun p => (done.claims p).facts, queue, fun idle p => ?_,
    done.waiting, rfl, rfl, rfl, rfl, rfl, rfl, rfl, vu, rfl, rfl, rfl, fun joined => ?_⟩
  · show (s.lp.started.map _).map _ = _
    rw [Option.map_map]
    rfl
  · refine (done.marks.facts _ fun _ _ => rfl).trans ((benchReset_facts _).trans (List.filterMap_congr fun n _ => ?_))
    unfold Notice.benchReset
    cases n.state <;> rfl
  · rw [lookAll_stands (w := rollState s w) idle]
    cases p <;> rfl
  · rw [queue]
    refine List.mem_append_right _ ?_
    show _ ∈ resetQueue s
    rw [resetQueue, if_neg joined]
    exact List.mem_singleton.2 rfl

end Sys2Proof.Proofs
end


section
/-! The REPORTs of the causes of R168 and the events of R188, and the panel link's own commands (R210 to R212). -/

namespace Sys2Proof.Proofs

open Sys2Proof.Machine

/-! ### A report that is sent, and what keeps it (R187, R211) -/

/-- The panel's buffer has room and nothing is owed. -/
def HasRoom (s : State) : Prop := s.pl.buffer.length < 16 ∧ s.pl.anyOwed = false

theorem HasRoom.of_pl {s t : State} (h : HasRoom s) (same : t.pl = s.pl) : HasRoom t := by
  rwa [HasRoom, same]

section
variable {s : State} (code : Nat) (p : Option Pos) (u : Option UnitNo) (v : Nat)

theorem report_pl (room : HasRoom s) :
    (s.report code p u v).pl = { s.pl with buffer := s.pl.buffer ++ [.report code p u v] } := by
  obtain ⟨short, free⟩ := room
  show s.pl.sendReport _ = _
  rw [Panel.sendReport, if_neg]
  simp [free, Config.maxPanel, short]

theorem mem_report (room : HasRoom s) : .report code p u v ∈ (s.report code p u v).pl.buffer := by
  rw [report_pl code p u v room]
  exact List.mem_append_right _ (List.mem_singleton.2 rfl)

theorem report_told (s : State) : (s.report code p u v).Told code p u v := Panel.sendReport_told _ _

end

/-- What was told or owed stays so. -/
theorem told_of_steady {s t : State} {code : Nat} {p : Option Pos} {u : Option UnitNo} {v : Nat}
    (h : s.Told code p u v) (k : Steady s t) : t.Told code p u v := fun free =>
  k.panel.reports _ _ _ _ (h (Bool.eq_false_iff.2 fun owed => Bool.false_ne_true (free.symm.trans (k.panel.owes owed))))

theorem finish_steady (s : State) : ∃ t, finish s = .next t ∧ Steady s t := ⟨_, rfl, (Steady.refl s).flush⟩

theorem servedState_steady (s : State) : Steady s (servedState s) := ((Steady.refl s).serveAsks _).flush

/-! ### The causes of a build (R168 to R171) -/

/-- The order in which causes raised together are reported and kept (R171). -/
def inCodeOrder (cs : List Raised) : List Raised := sortBy (fun x y : Raised => decide (x.cause.code < y.cause.code)) cs

/-- What is raised is reported first, in code order. -/
theorem raiseAt_after_reports (s : State) (p : Pos) (saved : SavedState) (idx : Nat) (cs : List Raised) :
    Steady ((inCodeOrder cs).foldl (State.reportCause p) s) (s.raiseAt p saved idx cs) := by
  unfold State.raiseAt inCodeOrder
  dsimp only
  split
  case h_1 none =>
    rw [none]
    exact .refl _
  case h_2 c rest hs =>
    split
    · exact (Steady.refl _).setHold _ _
    · rw [hs]
      exact (((Steady.refl _).setHold _ _).setBuild _ _).showBuild _ |>.tryRemoval _

theorem foldl_reportCause_steady (p : Pos) (cs : List Raised) (s : State) : Steady s (cs.foldl (State.reportCause p) s) :=
  (Steady.refl s).foldl _ (fun _ _ k => k.reportCause p _) _

section
variable {s : State} {p : Pos} {c : Raised}

theorem raiseAt_told {cs : List Raised} (hc : c ∈ cs) (saved : SavedState) (idx : Nat) :
    (s.raiseAt p saved idx cs).Told c.cause.code (some p) c.unit c.value := by
  refine told_of_steady ?_ (raiseAt_after_reports ..)
  obtain ⟨before, after, order⟩ := List.append_of_mem ((sortBy_perm _ cs).mem_iff.2 hc)
  rw [inCodeOrder, order, List.foldl_append, List.foldl_cons]
  exact told_of_steady (report_told _ _ _ _ _) (foldl_reportCause_steady p after _)

theorem mem_raiseAt (room : HasRoom s) (saved : SavedState) (idx : Nat) :
    .report c.cause.code (some p) c.unit c.value ∈ (s.raiseAt p saved idx [c]).pl.buffer :=
  (raiseAt_after_reports s p saved idx [c]).panel.reports _ _ _ _ (mem_report _ _ _ _ room)

theorem mem_raise (room : HasRoom s) : .report c.cause.code (some p) c.unit c.value ∈ (s.raise p c).pl.buffer :=
  ((Steady.refl _).showTray p).panel.reports _ _ _ _ (mem_raiseAt room _ _)

theorem raise_told (s : State) (p : Pos) (c : Raised) : (s.raise p c).Told c.cause.code (some p) c.unit c.value :=
  told_of_steady (raiseAt_told (List.mem_singleton.2 rfl) _ _) ((Steady.refl _).showTray p)

theorem mem_faultOp (room : HasRoom s) (r : PutRec) (c : Cause) (v : Nat) :
    .report c.code (some p) (some r.unit) v ∈ (s.faultOp p r c v).pl.buffer :=
  mem_raise (c := .plain c (some r.unit) v) room

theorem mem_planFull (room : HasRoom s) (e : PlanFail) :
    .report 7 (some p) e.cause.unit e.cause.value ∈ (s.planFull p e).pl.buffer := by
  have raised := mem_raiseAt (p := p) (c := e.cause) (room.of_pl (State.setBuild_pl s p { s.build p with plan := [] }))
    .gathering ((s.setBuild p { s.build p with plan := [] }).standIndex p)
  cases e <;> exact raised

end

/-! ### The platforms' causes (R68, R77, R81, R87) -/

theorem saturatedCell_eq {q : Quad} {i c : Nat} (hc : [q.c0, q.c1, q.c2, q.c3][i]? = some c) (high : 6000 ≤ c)
    (below : ∀ d ∈ [q.c0, q.c1, q.c2, q.c3].take i, d < 6000) : saturatedCell q = some i := by
  obtain ⟨hi, at_i⟩ := List.getElem?_eq_some_iff.1 hc
  refine List.findIdx?_eq_some_iff_getElem.2 ⟨hi, by rw [at_i]; exact decide_eq_true high, fun j hj => ?_⟩
  have low := below _ (List.mem_take_iff_getElem.2 ⟨j, by omega, rfl⟩)
  exact fun at_least => absurd low (not_lt.2 (of_decide_eq_true at_least))

section
variable {s : State} {p : Pos} {r : PutRec} (room : HasRoom s)
include room

theorem mem_judgeResult {q : Quad} {i c : Nat} (kind : r.kind = .put ∨ r.kind = .removal .unload)
    (hc : [q.c0, q.c1, q.c2, q.c3][i]? = some c) (high : 6000 ≤ c)
    (below : ∀ d ∈ [q.c0, q.c1, q.c2, q.c3].take i, d < 6000) :
    .report 1 (some p) (some r.unit) i ∈ (s.judgeResult p r q).pl.buffer := by
  have faults : s.judgeResult p r q = s.faultOp p r .scaleOverrange i := by
    rw [State.judgeResult, saturatedCell_eq hc high below]
    obtain kind | kind := kind
    · simp only [kind]
    · simp only [kind, State.failRemoval]
  rw [faults]
  exact mem_faultOp room r .scaleOverrange i

theorem mem_judge_removed (kind : r.kind = .put) {delta : Int} (h : delta ≤ -5) :
    .report 4 (some p) (some r.unit) delta.natAbs ∈ (s.judge p r delta).pl.buffer := by
  have faults : s.judge p r delta = s.faultOp p r .putRemoved delta.natAbs := by
    simp only [State.judge, kind]
    exact if_pos h
  rw [faults]
  exact mem_faultOp room r .putRemoved _

theorem mem_judge_mismatch (kind : r.kind = .put) {delta : Int} (h : -5 < delta)
    (off : r.tolerance < (delta - r.expected).natAbs) :
    .report 5 (some p) (some r.unit) (delta - r.expected).natAbs ∈ (s.judge p r delta).pl.buffer := by
  have faults : s.judge p r delta = s.faultOp p r .putMismatch (delta - r.expected).natAbs := by
    simp only [State.judge, kind]
    exact (if_neg (not_le.2 h)).trans (if_pos off)
  rw [faults]
  exact mem_faultOp room r .putMismatch _

theorem mem_judge_unload (kind : r.kind = .removal .unload) {delta : Int}
    (fails : r.tolerance < (delta - r.expected).natAbs ∨ 0 < delta) :
    .report 5 (some p) (some r.unit) (delta - r.expected).natAbs ∈ (s.judge p r delta).pl.buffer := by
  have faults : s.judge p r delta = s.faultOp p r .putMismatch (delta - r.expected).natAbs := by
    simp only [State.judge, kind]
    exact if_neg (by omega)
  rw [faults]
  exact mem_faultOp room r .putMismatch _

theorem mem_putTimeout (hr : s.put p = some r) (kind : r.kind = .put) (going : s.hc.stopped = false)
    (free : (s.build p).state ≠ .held) (settled : r.phase ≠ .settled) (faulted : r.phase ≠ .faulted)
    (out : r.limitLeft = 0) :
    ∃ t, exec (.putTimeout p) s = .next t ∧ .report 6 (some p) (some r.unit) 90 ∈ t.pl.buffer := by
  have run : exec (.putTimeout p) s = finish (s.faultOp p r .putTimeout 90) := by
    show execPutTimeout p s = _
    rw [execPutTimeout, hr]
    exact if_pos ⟨by simp [State.limitRuns, State.judged, State.heldSuspends, kind, going, free, settled, faulted], out⟩
  obtain ⟨t, ht, steady⟩ := finish_steady (s.faultOp p r .putTimeout 90)
  exact ⟨t, run.trans ht, steady.panel.reports _ _ _ _ (mem_faultOp room r .putTimeout 90)⟩

end

end Sys2Proof.Proofs
end


section
/-! The REPORTs of a build's causes: CHILL_EXPIRED, ORDER_GONE, GATHER_LATE, and the causes of a check and of a
valuation, which go together (R168). -/

namespace Sys2Proof.Proofs

open Sys2Proof.Machine

/-! ### CHILL_EXPIRED (R115) -/

theorem countsUnloading_eq_false {s : State} {p : Pos} (state : (s.build p).state ≠ .unloading)
    (saved : (s.build p).state = .held → ∀ h, s.hold p = some h → h.saved ≠ .unloading) :
    s.countsUnloading p = false := by
  unfold State.countsUnloading
  by_cases held : (s.build p).state = .held
  · cases hh : s.hold p with
    | none => simp [held]
    | some h => simp [held, saved held h hh]
  · simp [state, held]

theorem expirePlaced_raiseChill {s : State} {p : Pos} (n : UnitNo) (counts : s.countsUnloading p = false)
    (pending : s.putPending p = false) : s.expirePlaced p n = (markedExpired s p n).raiseChill p n := by
  have same : (markedExpired s p n).countsUnloading p = s.countsUnloading p := by
    unfold State.countsUnloading
    rw [markedExpired_build]
    rfl
  show (if (markedExpired s p n).countsUnloading p then markedExpired s p n
    else if (markedExpired s p n).putPending p then (markedExpired s p n).holdBack p n
    else (markedExpired s p n).raiseChill p n) = _
  rw [if_neg (by rw [same, counts]; decide)]
  exact if_neg (by show ¬ s.putPending p = true; rw [pending]; decide)

section
variable {s : State} {p : Pos} {n : UnitNo} {x : Placed}
  (hx : (s.build p).content.find? (fun y => decide (y.unit.number = n)) = some x)
include hx

theorem raiseChill_eq : s.raiseChill p n = s.raise p (.plain .chillExpired (some n) (x.unit.exposure.getD 0)) := by
  rw [State.raiseChill, hx]

theorem raiseChill_told : (s.raiseChill p n).Told 2 (some p) (some n) (x.unit.exposure.getD 0) := by
  rw [raiseChill_eq hx]
  exact raise_told s p (.plain .chillExpired (some n) (x.unit.exposure.getD 0))

theorem mem_chillExpiry (room : HasRoom s) (off : s.su.slotOf n = none) (hp : s.expiringBuild n = some p)
    (counts : s.countsUnloading p = false) (pending : s.putPending p = false) :
    ∃ t, exec (.chillExpiry n) s = .next t
      ∧ .report 2 (some p) (some n) (x.unit.exposure.getD 0) ∈ t.pl.buffer := by
  obtain ⟨t, ht, steady⟩ := finish_steady (s.expirePlaced p n)
  refine ⟨t, (execChillExpiry_placed off hp).trans ht, steady.panel.reports _ _ _ _ ?_⟩
  have marked : ((markedExpired s p n).build p).content.find? (fun y => decide (y.unit.number = n))
      = some (expiredPlaced n x) := by
    rw [markedExpired_build]
    exact (find?_expiredPlaced n _).trans (congrArg (Option.map (expiredPlaced n)) hx)
  have exposure : (expiredPlaced n x).unit.exposure = x.unit.exposure := by
    unfold expiredPlaced
    split <;> rfl
  rw [expirePlaced_raiseChill n counts pending, raiseChill_eq marked, exposure]
  exact mem_raise (c := .plain .chillExpired (some n) (x.unit.exposure.getD 0)) (room.of_pl rfl)

end

/-! ### ORDER_GONE (R48, R139) and GATHER_LATE (R41) -/

theorem mem_raiseGone {s : State} (room : HasRoom s) (p : Pos) (k : Station) :
    .report 3 (some p) none k.toNat ∈ (s.raiseGone p k).pl.buffer :=
  mem_raise (c := .plain .orderGone none k.toNat) room

theorem mem_yieldTo {s : State} {p : Pos} (room : HasRoom s) (unsealed : (s.build p).state ≠ .sealed)
    (counts : s.countsUnloading p = false) (kept : (s.build p).content ≠ [] ∨ s.putPending p = true) (o : OrderId)
    (k : Station) : .report 3 (some p) none k.toNat ∈ (s.yieldTo p o k).pl.buffer := by
  have gone : s.yieldTo p o k = (s.goGone p o k).raiseGone p k := by
    rw [State.yieldTo, if_neg unsealed, if_neg (by rw [counts]; decide)]
    exact if_neg (by obtain h | h := kept <;> simp [h])
  rw [gone]
  exact mem_raiseGone (s := s.goGone p o k) (room.of_pl rfl) p k

theorem mem_doneByOther {s : State} {p : Pos} (room : HasRoom s) (unsealed : (s.build p).state ≠ .sealed) (o : OrderId)
    (k : Station) : .report 3 (some p) none k.toNat ∈ (s.doneByOther p o k).pl.buffer := by
  rw [State.doneByOther, if_neg unsealed]
  split
  · exact mem_raiseGone (s := (s.goGone p o k).silence p) (room.of_pl rfl) p k
  · exact mem_raiseGone (s := s.goGone p o k) (room.of_pl rfl) p k

section
variable {s u : State} {h : Handed} {o : OrderId} {n : Notice} {p : Pos} (room : HasRoom s) (hn : s.notice? o = some n)
  (mine : n.state = .mine p) (unsealed : (s.build p).state ≠ .sealed)
include room hn mine unsealed

theorem mem_prior {k : Station} (hh : s.handOver .prior = some (h, u))
    (hb : Frame.ofBody h.kind h.body = some (.prior o k)) (other : k ≠ s.jc.station)
    (counts : s.countsUnloading p = false) (kept : (s.build p).content ≠ [] ∨ s.putPending p = true) :
    ∃ t, exec .prior s = .next t ∧ .report 3 (some p) none k.toNat ∈ t.pl.buffer := by
  obtain ⟨build, -, -, counted, pending, -, station⟩ := handed_facts hh p
  have run := execPrior_handed hh hb
  rw [station, if_neg other, takePrior_mine ((notice?_handed hh o).trans hn) mine] at run
  refine ⟨_, run, (servedState_steady _).panel.reports _ _ _ _ ?_⟩
  exact mem_yieldTo (room.of_pl (handed_blocks hh).2.2.2.2.2.2.2.2.1) (by rwa [build]) (counted.trans counts)
    (by rwa [build, pending]) o k

theorem mem_done {fl : CauseSet} {tot : BitVec 24} {w : BitVec 16} (hh : s.handOver .done = some (h, u))
    (hb : Frame.ofBody h.kind h.body = some (.done o fl tot w)) (other : h.sender ≠ s.jc.station) :
    ∃ t, exec .done s = .next t ∧ .report 3 (some p) none h.sender.toNat ∈ t.pl.buffer := by
  obtain ⟨build, -⟩ := handed_facts hh p
  refine ⟨_, execDone_handed hh hb, (servedState_steady _).panel.reports _ _ _ _ ?_⟩
  have lost : u.takeDone o h.sender (u.fromSelf h) = u.doneByOther p o h.sender := by
    simp [State.takeDone, (notice?_handed hh o).trans hn, mine, fromSelf_eq hh, other]
  rw [lost]
  exact mem_doneByOther (room.of_pl (handed_blocks hh).2.2.2.2.2.2.2.2.1) (by rwa [build]) o h.sender

end

theorem mem_gatherLimitExpiry {s : State} {p : Pos} (room : HasRoom s) (state : (s.build p).state = .gathering)
    (out : (s.build p).gatherLeft = some 0) (placed : (s.build p).content ≠ []) :
    ∃ t, exec (.gatherLimitExpiry p) s = .next t
      ∧ .report 14 (some p) none ((s.build p).lines.map (·.uncovered)).sum ∈ t.pl.buffer := by
  have late : s.gatherLate p = s.raise p (.plain .gatherLate none (s.build p).uncoveredSum) :=
    if_neg (by simp [placed])
  obtain ⟨t, ht, steady⟩ := finish_steady (s.gatherLate p)
  refine ⟨t, (if_pos ⟨state, out⟩ : execGatherLimitExpiry p s = _).trans ht, steady.panel.reports _ _ _ _ ?_⟩
  rw [late]
  exact mem_raise (c := .plain .gatherLate none (s.build p).uncoveredSum) room

/-! ### Causes that go together (R55, R101) -/

theorem Extends.tryRemoval {a s : State} (h : Extends a.pl s.pl) (p : Pos) : Extends a.pl (s.tryRemoval p).pl := by
  unfold State.tryRemoval State.startRemoval
  split
  · exact h
  · split
    · exact h
    · split <;> (refine Extends.showTray ?_ p; exact h)

theorem raiseAt_extends (s : State) (p : Pos) (saved : SavedState) (idx : Nat) (cs : List Raised) :
    Extends ((inCodeOrder cs).foldl (State.reportCause p) s).pl (s.raiseAt p saved idx cs).pl := by
  unfold State.raiseAt inCodeOrder
  dsimp only
  split
  case h_1 none =>
    rw [none]
    exact .refl _
  case h_2 c rest hs =>
    split
    · exact .refl _
    · rw [hs]
      exact (Extends.refl _).showBuild p |>.tryRemoval p

/-- The record of a cause of a build. -/
def causeReport (p : Pos) (c : Raised) : PanelOut := .report c.cause.code (some p) c.unit c.value

/-- Causes raised together into an empty buffer stand at its head, in code order. -/
theorem raiseAt_prefix {s : State} {cs : List Raised} (p : Pos) (ordered : inCodeOrder cs = cs) (few : cs.length ≤ 16)
    (empty : s.pl.buffer = []) (free : s.pl.anyOwed = false) (saved : SavedState) (idx : Nat) :
    cs.map (causeReport p) <+: (s.raiseAt p saved idx cs).pl.buffer := by
  refine (raiseAt_extends s p saved idx cs).keepsHead (fun r hr => ?_) ?_
  · obtain ⟨c, -, rfl⟩ := List.mem_map.1 hr
    exact ⟨_, _, _, _, rfl⟩
  · rw [ordered, foldl_report_buffer (State.reportCause p) (causeReport p) (fun _ _ => rfl) cs s free (by simpa [empty]),
      empty, List.nil_append]

theorem map_causeIf (b : Bool) (c : Raised) (p : Pos) :
    (causeIf b c).map (causeReport p) = if b then [causeReport p c] else [] := by
  cases b <;> rfl

theorem valuationCauses_eq (mask : CauseSet) (u : UnitNo) (v : Valued) : valuationCauses mask u v
    = causeIf (v.causes.invalid && mask.invalid) (.plain .invalid (some u) v.value)
      ++ causeIf (v.causes.clamped && mask.clamped) (.plain .clamped (some u) v.value)
      ++ causeIf (v.causes.inexact && mask.inexact) (.plain .inexact (some u) v.value) := rfl

theorem valuationCauses_sorted (a b c : Bool) (u : UnitNo) (v : Nat) :
    inCodeOrder (causeIf a (.plain .invalid (some u) v) ++ causeIf b (.plain .clamped (some u) v)
        ++ causeIf c (.plain .inexact (some u) v))
      = causeIf a (.plain .invalid (some u) v) ++ causeIf b (.plain .clamped (some u) v)
        ++ causeIf c (.plain .inexact (some u) v) := by
  cases a <;> cases b <;> cases c <;> rfl

theorem causeIf_length (b : Bool) (c : Raised) : (causeIf b c).length ≤ 1 := by
  cases b <;> simp [causeIf]

section
variable {s : State} (empty : s.pl.buffer = []) (free : s.pl.anyOwed = false) (p : Pos)
include empty free

theorem valuation_prefix (u : UnitNo) (v : Valued) (index : Nat) (mask : CauseSet) :
    ((if (v.causes.invalid && mask.invalid) = true then [PanelOut.report 9 (some p) (some u) v.value] else [])
      ++ (if (v.causes.clamped && mask.clamped) = true then [.report 10 (some p) (some u) v.value] else [])
      ++ (if (v.causes.inexact && mask.inexact) = true then [.report 13 (some p) (some u) v.value] else []))
      <+: (s.raiseAt p .putting index (valuationCauses mask u v)).pl.buffer := by
  have few : (valuationCauses mask u v).length ≤ 16 := by
    rw [valuationCauses_eq, List.length_append, List.length_append]
    exact le_trans (Nat.add_le_add (Nat.add_le_add (causeIf_length _ _) (causeIf_length _ _)) (causeIf_length _ _))
      (by decide)
  have head := raiseAt_prefix p (valuationCauses_sorted _ _ _ u v.value) (cs := valuationCauses mask u v) few empty free
    .putting index
  rwa [valuationCauses_eq, List.map_append, List.map_append, map_causeIf, map_causeIf, map_causeIf] at head

theorem runCheck_prefix (resumed : List Cause) :
    (s.checkCauses p resumed).map (causeReport p) <+: (s.runCheck p resumed).pl.buffer := by
  unfold State.runCheck
  dsimp only
  split
  case isTrue none =>
    rw [List.isEmpty_iff.1 none]
    exact List.nil_prefix
  case isFalse =>
    refine raiseAt_prefix (s := s.setVal p _) p ?_ ?_ empty free _ _
    · rw [checkCauses_eq]
      exact checkCauses_sorted _ _ _ _
    · rw [checkCauses_eq]
      simp only [List.length_append]
      exact le_trans (Nat.add_le_add (causeIf_length _ _) (Nat.add_le_add (causeIf_length _ _)
        (Nat.add_le_add (causeIf_length _ _) (causeIf_length _ _)))) (by decide)

/-- The causes of a check in numbers (R96, R101, R168). -/
theorem check_prefix {i : NoticeInfo} (resumed : List Cause) {T S X Y : Nat} {w : Int} (hi : s.infoOf p = some i)
    (hX : X = (s.build p).ordered) (hY : Y = (s.build p).placedValue) (hw : w = (s.build p).weight)
    (hT : T = min X 16777215) (hS : S = min Y 16777215) :
    ((if (i.tray.limit : Int) < w then [PanelOut.report 8 (some p) none (w - i.tray.limit).toNat] else [])
      ++ (if s.jc.setup.holdMask.clamped = true ∧ Cause.clamped ∉ resumed ∧ (16777215 < X ∨ 16777215 < Y) then
          [.report 10 (some p) none 16777215] else [])
      ++ (if s.jc.setup.holdMask.bandLow = true ∧ Cause.bandLow ∉ resumed
            ∧ 100 * S < T * (100 - min i.down 50) then
          [.report 11 (some p) none ((T * (100 - min i.down 50) + 99) / 100 - S)] else [])
      ++ (if s.jc.setup.holdMask.bandHigh = true ∧ Cause.bandHigh ∉ resumed
            ∧ T * (100 + min i.up 50) < 100 * S then
          [.report 12 (some p) none (S - T * (100 + min i.up 50) / 100)] else []))
      <+: (s.runCheck p resumed).pl.buffer := by
  have check : s.checkOf p = checkTotals X Y i.down i.up := by
    rw [State.checkOf, hi, hX, hY]
  have total : saturate Y = S := hS.symm
  have ordered : saturate X = T := hT.symm
  have tray : s.trayOf p = i.tray := by rw [State.trayOf, hi]
  have head := runCheck_prefix empty free p resumed
  rw [checkCauses_eq, check, tray, ← hw] at head
  simp only [checkTotals, total, ordered, CauseSet.inter, List.map_append, map_causeIf, ← List.append_assoc] at head
  have clamped : ((decide (Config.maxTotal < X) || decide (Config.maxTotal < Y)) && s.jc.setup.holdMask.clamped
      && !resumed.contains Cause.clamped) = true
      ↔ s.jc.setup.holdMask.clamped = true ∧ Cause.clamped ∉ resumed
        ∧ (Config.maxTotal < X ∨ Config.maxTotal < Y) := by
    simp
    tauto
  have low : (decide (S < bandLow T i.down) && s.jc.setup.holdMask.bandLow && !resumed.contains Cause.bandLow) = true
      ↔ s.jc.setup.holdMask.bandLow = true ∧ Cause.bandLow ∉ resumed ∧ 100 * S < T * (100 - min i.down 50) := by
    simp [lt_bandLow_iff]
    tauto
  have high : (decide (bandHigh T i.up < S) && s.jc.setup.holdMask.bandHigh && !resumed.contains Cause.bandHigh) = true
      ↔ s.jc.setup.holdMask.bandHigh = true ∧ Cause.bandHigh ∉ resumed ∧ T * (100 + min i.up 50) < 100 * S := by
    simp [bandHigh_lt_iff]
    tauto
  simp only [clamped, low, high, decide_eq_true_eq] at head
  exact head

end

end Sys2Proof.Proofs
end


section
/-! The bench reports (R188), and the causes told when a put ends (R79, R80, R115). -/

namespace Sys2Proof.Proofs

open Sys2Proof.Machine

theorem pl_handed {s u : State} {k : Kind} {h : Handed} (hh : s.handOver k = some (h, u)) : u.pl = s.pl := by
  obtain ⟨-, rest, peers, rfl⟩ := handOver_eq hh
  rfl

theorem mem_benchReport {s : State} (room : HasRoom s) (r : BenchReport) (p : Option Pos) (v : Nat) :
    .report r.code p none v ∈ (s.benchReport r p v).pl.buffer := mem_report r.code p none v room

theorem benchReport_told (s : State) (r : BenchReport) (p : Option Pos) (v : Nat) :
    (s.benchReport r p v).Told r.code p none v := report_told r.code p none v s

/-- A state whose buffer has a record goes on to one that has it. -/
theorem finish_mem {x : State} {code : Nat} {p : Option Pos} {u : Option UnitNo} {v : Nat}
    (h : .report code p u v ∈ x.pl.buffer) {o : Host.Outcome State Fault Refusal} (ho : o = finish x) :
    ∃ t, o = .next t ∧ .report code p u v ∈ t.pl.buffer := by
  obtain ⟨t, ht, steady⟩ := finish_steady x
  exact ⟨t, ho.trans ht, steady.panel.reports _ _ _ _ h⟩

theorem finish_told {x : State} {code : Nat} {p : Option Pos} {u : Option UnitNo} {v : Nat}
    (h : x.Told code p u v) {o : Host.Outcome State Fault Refusal} (ho : o = finish x) :
    ∃ t, o = .next t ∧ t.Told code p u v := by
  obtain ⟨t, ht, steady⟩ := finish_steady x
  exact ⟨t, ho.trans ht, told_of_steady h steady⟩

/-! ### REFUSED of a key (R172) and FRAME_DROPPED (R195) -/

theorem mem_refuseKey {s : State} (room : HasRoom s) {p : Pos} : ∀ x ∈ [(Instr.confirm p, 1), (.reject p, 2),
    (.resume p, 3), (.undo p, 4), (.abandon p, 5)], s.RefusesKey p x.2 →
      ∃ t, exec x.1 s = .next t ∧ .report 37 (some p) none x.2 ∈ t.pl.buffer := by
  intro x hx refuses
  have refused : exec x.1 s = s.refuseKey p x.2 := by
    simp only [List.mem_cons, List.not_mem_nil, or_false] at hx
    obtain rfl | rfl | rfl | rfl | rfl := hx
    · exact confirm_refused refuses
    · exact reject_refused refuses
    · exact resume_refused refuses
    · exact undo_refused refuses
    · exact abandon_refused refuses
  exact finish_mem (mem_benchReport room .refused (some p) x.2) refused

theorem mem_frameReceive {s : State} (room : HasRoom s) {bytes : List Byte} {h : Handed} (hr : readFrame bytes = some h)
    (cls : h.kind.cls ≠ 0) (full : 11 ≤ s.lp.received13 ∨ 12 ≤ s.lp.received) :
    ∃ t, exec (.frameReceive bytes) s = .next t ∧ .report 35 none none h.kind.code.toNat ∈ t.pl.buffer := by
  have dropped : s.receive h = s.dropFrame h := by
    rw [State.receive, if_neg cls]
    exact if_neg fun ⟨short13, short⟩ => by
      have : s.lp.received13 < 11 := short13
      have : s.lp.received < 12 := short
      omega
  have run : exec (.frameReceive bytes) s = finish (s.dropFrame h) := by
    show execFrameReceive bytes s = _
    rw [execFrameReceive, hr, ← dropped]
  exact finish_mem (x := s.dropFrame h) (mem_benchReport room .frameDropped none _) run

/-! ### TRANSFER_LATE (R160, R165) -/

theorem dropExpected_pl (s : State) (e : Expected) : (s.dropExpected e).pl = s.pl := dropExpected_only s e .pl id

theorem mem_transferLimit {s : State} (room : HasRoom s) {k : Station} {n : Seq} {e : Expected}
    (he : s.expectedTag k n = some e) (late : 180 ≤ e.clock) :
    ∃ t, exec (.transferLimit k n) s = .next t ∧ .report 33 (e.link.map (·.p)) none e.remaining ∈ t.pl.buffer := by
  have produced : ((s.dropExpected e).produceTaken e.source e.seq (e.granted - e.remaining)).pl = (s.dropExpected e).pl :=
    (Only.refl (handT fun _ => True) _).produceTaken (le_refl _) (fun _ => trivial) _ _ _ .pl id
  have told := mem_benchReport (room.of_pl (produced.trans (dropExpected_pl s e))) .transferLate
    (e.link.map (·.p)) e.remaining
  exact finish_mem (((Steady.refl _).handLink e.link).panel.reports _ _ _ _ told) (execTransferLimit_late he late)

theorem mem_turnAway {s : State} (room : HasRoom s) (k : Station) (n : Seq) (c : ItemCode) (q : Nat) :
    .report 33 ((s.answered k c).map (·.line.p)) none q ∈ (s.turnAway k n c q).pl.buffer := by
  unfold State.turnAway
  cases ha : s.answered k c with
  | none => exact ((Steady.refl _).produceTaken k n 0).panel.reports _ _ _ _ (mem_benchReport room .transferLate none q)
  | some a =>
    have same : (s.clearAndHand a.line).pl = s.pl :=
      (Only.refl (handT fun _ => True) s).clearAndHand (le_refl _) trivial .pl id
    exact ((Steady.refl _).produceTaken k n 0).panel.reports _ _ _ _
      (mem_benchReport (room.of_pl same) .transferLate (some a.line.p) q)

theorem takeGrant_repeated {s : State} {k : Station} {n : Seq} {e : Expected} (he : s.expectedTag k n = some e)
    (c : ItemCode) {es : List Nat} (some_units : es ≠ []) : s.takeGrant k n c es
      = (((s.dropExpected e).transferLate e.link e.remaining).takeUnits k n c es).handLink e.link := by
  rw [State.takeGrant, if_neg (by simpa using some_units), he]

theorem takeGrant_new {s : State} {k : Station} {n : Seq} (he : s.expectedTag k n = none) (c : ItemCode)
    {es : List Nat} (some_units : es ≠ []) : s.takeGrant k n c es = s.takeUnits k n c es := by
  rw [State.takeGrant, if_neg (by simpa using some_units), he]

section
variable {s u : State} {h : Handed} (room : HasRoom s) (other : h.own = false) (joined : s.jc.state ≠ .joining)
include room other joined

theorem mem_grant {n : Seq} {c : ItemCode} {es : List (BitVec 16)} (hh : s.handOver .grant = some (h, u))
    (hb : Frame.ofBody h.kind h.body = some (.grant s.jc.station n c es)) (some_units : es ≠ []) (few : es.length ≤ 4) :
    (∀ e, s.expectedTag h.sender n = some e → ∃ t, exec .grant s = .next t
      ∧ .report 33 (e.link.map (·.p)) none e.remaining ∈ t.pl.buffer)
    ∧ (s.expectedTag h.sender n = none → 8 ≤ s.xu.expected.length → ∃ t, exec .grant s = .next t
      ∧ .report 33 ((s.answered h.sender c).map (·.line.p)) none es.length ∈ t.pl.buffer) := by
  obtain ⟨-, station, state, -, -, -, -, xu, -⟩ := handed_cu hh
  have run := execGrant_handed hh hb
  rw [if_pos (by simp [State.exchangeTakes, other, state, joined, station, few])] at run
  have units : es.map BitVec.toNat ≠ [] := by simpa using some_units
  have tag : u.expectedTag h.sender n = s.expectedTag h.sender n := by rw [State.expectedTag, State.expectedTag, xu]
  have roomy : HasRoom u := room.of_pl (pl_handed hh)
  refine ⟨fun e he => ?_, fun he full => ?_⟩
  · refine finish_mem ?_ run
    rw [takeGrant_repeated (tag.trans he) c units]
    have told := mem_benchReport (roomy.of_pl (dropExpected_pl u e)) .transferLate (e.link.map (·.p)) e.remaining
    exact (((Steady.refl _).takeUnits ..).handLink e.link).panel.reports _ _ _ _ told
  · refine finish_mem ?_ run
    have away : u.takeUnits h.sender n c (es.map BitVec.toNat) = u.turnAway h.sender n c es.length := by
      rw [State.takeUnits, xu, if_neg (show ¬ s.xu.expected.length < Config.maxTransfers from not_lt.2 full),
        List.length_map]
    have answered : s.answered h.sender c = u.answered h.sender c := by rw [State.answered, State.answered, xu]
    rw [takeGrant_new (tag.trans he) c units, away, answered]
    exact mem_turnAway roomy _ _ _ _

end

/-! ### WRITE_OFF (R163, R164) -/

/-- A lamp that shows its value is not sent. -/
theorem sendLamps_shown {ids : List LampId} {vs : List LampShow} {cs : List LampCell}
    (h : ∀ (i : Nat) (v : LampShow) (c : LampCell), vs[i]? = some v → cs[i]? = some c → v = c.shown) (n : Nat) (pl : Panel) :
    Panel.sendLamps n ids vs cs pl = pl := by
  induction ids generalizing n vs cs with
  | nil => cases vs <;> cases cs <;> rfl
  | cons id ids ih =>
    cases vs with
    | nil => rfl
    | cons v vs =>
      cases cs with
      | nil => rfl
      | cons c cs =>
        rw [Panel.sendLamps, if_pos (h 0 v c rfl rfl)]
        exact ih (fun i => h (i + 1)) (n + 1)

/-- What the panel was told of the slots is their lamps' value (R19, R21). -/
theorem panelTrue_slot {s : State} (h : s.PanelTrue) {i : Nat} (hi : i < 48) :
    s.lampShown i = some (slotLamp s.hc.stopped s.su.amberSlot i (s.su.slot i)) := by
  by_cases dark : s.hc.stopped = true ∧ ∀ u, s.su.slot i ≠ .occupied u .returned
  · rw [h.stoppedSlot i hi dark.1 dark.2]
    cases hs : s.su.slot i with
    | empty g => simp [slotLamp, dark.1, LampShow.dark]
    | reserved p => simp [slotLamp, dark.1, LampShow.dark]
    | occupied u st =>
      cases st with
      | returned => exact absurd hs (dark.2 u)
      | free age => simp [slotLamp, dark.1, LampShow.dark]
      | earmarked p l => simp [slotLamp, dark.1, LampShow.dark]
      | putting p l => simp [slotLamp, dark.1, LampShow.dark]
  · cases hs : s.su.slot i with
    | empty g =>
      have on : s.hc.stopped = false := Bool.eq_false_iff.2 fun off => dark ⟨off, by simp [hs]⟩
      rw [h.empty i g hi on hs]
      cases g <;> simp [slotLamp, on, LampShow.dark, LampShow.steady]
    | reserved p =>
      have on : s.hc.stopped = false := Bool.eq_false_iff.2 fun off => dark ⟨off, by simp [hs]⟩
      rw [h.reserved i p hi on hs]
      simp [slotLamp, on, LampShow.flash]
    | occupied u st =>
      by_cases ret : st = .returned
      · rw [ret] at hs ⊢
        exact h.returned i u hi hs
      · have on : s.hc.stopped = false := Bool.eq_false_iff.2 fun off => dark ⟨off, by simp [hs, ret]⟩
        cases st with
        | returned => exact absurd rfl ret
        | putting p l =>
          rw [h.putting i u p l hi on hs]
          simp [slotLamp, on, LampShow.steady]
        | free age =>
          rw [h.shelved i u _ hi on hs ret nofun]
          by_cases amber : s.su.amberSlot = some i <;> simp [slotLamp, on, amber, LampShow.dark, LampShow.steady]
        | earmarked p l =>
          rw [h.shelved i u _ hi on hs ret nofun]
          by_cases amber : s.su.amberSlot = some i <;> simp [slotLamp, on, amber, LampShow.dark, LampShow.steady]

/-- The SHELF lamps of a state that is true to the panel have nothing to send. -/
theorem showShelf_pl_of_true {s : State} (bounded : s.Bounded) (h : s.PanelTrue) : s.showShelf.pl = s.pl := by
  refine sendLamps_shown (fun i v c hv hc => ?_) _ _
  have short : i < s.shelfLamps.length := (List.getElem?_eq_some_iff.1 hv).1
  have values : s.lampValues[i]? = some v := by
    rw [State.lampValues, List.append_assoc, List.getElem?_append_left short, hv]
  rw [State.shelfLamps_length, bounded.slots] at short
  obtain ⟨intake, chute⟩ := h.scanners
  obtain ⟨intakeValue, chuteValue⟩ := State.lampValues_scanners s bounded.slots
  have scanner (x : Colour) : (⟨if s.hc.stopped then .off else x, false⟩ : LampShow) = scannerLamp s.hc.stopped x := by
    cases s.hc.stopped <;> rfl
  have shown : s.lampShown i = s.lampValues[i]? := by
    obtain slot | rfl | rfl : i < 48 ∨ i = 48 ∨ i = 49 := by omega
    · rw [panelTrue_slot h slot, State.lampValues_slot s bounded.slots i slot]
    · rw [intake, intakeValue, scanner]
    · rw [chute, chuteValue, scanner]
  have told : s.lampShown i = some c.shown := congrArg (Option.map LampCell.shown) hc
  exact (Option.some.inj (told.symm.trans (shown.trans values))).symm

theorem map_forget_eq {slots : List Slot} {n : Seq} (h : ∀ x ∈ slots, x ≠ .empty (some n)) :
    slots.map (Slot.forget n) = slots := by
  refine (List.map_congr_left fun x hx => ?_).trans (List.map_id slots)
  unfold Slot.forget
  split
  case h_1 m =>
    split
    case isTrue e => exact absurd (by rw [e]) (h _ hx)
    case isFalse => rfl
  case h_2 => rfl

/-- An outbound entry that no slot shows BLUE for leaves without a lamp to send. -/
theorem endOutbound_pl {s : State} (bounded : s.Bounded) (h : s.PanelTrue) {n : Seq}
    (noBlue : ∀ i, s.su.slot i ≠ .empty (some n)) : (s.endOutbound n).pl = s.pl := by
  have slots : s.su.slots.map (Slot.forget n) = s.su.slots := map_forget_eq fun x hx => by
    obtain ⟨i, hi, rfl⟩ := List.mem_iff_getElem.1 hx
    have at_i : s.su.slot i = s.su.slots[i] := by simp [Stock.slot, hi]
    exact at_i ▸ noBlue i
  have shelf : (s.endOutbound n).pl = s.showShelf.pl := by
    have same : ((s.setXu { s.xu with outbound := s.xu.outbound.filter (fun o => decide (o.seq ≠ n)) }).setSu
        { s.su with slots := s.su.slots.map (Slot.forget n) }).shelfLamps = s.shelfLamps := by
      unfold State.shelfLamps
      rw [State.setSu_su, slots]
      rfl
    exact congrArg (fun vs => Panel.sendLamps 0 ((List.range 50).map .shelf) vs s.pl.lamps s.pl) same
  exact shelf.trans (showShelf_pl_of_true bounded h)

/-! ### NUMBER_CLASH (R192, R207) -/

/-- No link of a CLAIMING build breaks where none is CLAIMING, and the panel is told nothing (R142). -/
theorem enterIsolated_pl {s : State} (none : ∀ p, (s.build p).state ≠ .claiming) : s.enterIsolated.pl = s.pl := by
  have only : Only (handT fun _ => True) (shutState s) (discardedState s) :=
    (Only.refl _ _).foldl _ (fun _ _ k => k.clearAsk trivial trivial trivial) _
  have stays (p : Pos) : (discardedState s).isolatePosition p = discardedState s := by
    have state : ((discardedState s).build p).state ≠ .claiming := by
      have same : ((discardedState s).build p).state = (s.build p).state := only (.build .state p) id
      rw [same]
      exact none p
    unfold State.isolatePosition
    split
    · rfl
    · exact if_neg fun h => state h.1
  have idle (ps : List Pos) : ps.foldl State.isolatePosition (discardedState s) = discardedState s := by
    induction ps with
    | nil => rfl
    | cons p ps ih => rw [List.foldl_cons, stays, ih]
  rw [enterIsolated_eq, idle]
  exact only .pl id

theorem execContentionFault_third {s : State} {x : Started} (hx : s.lp.started = some x) (third : 2 ≤ s.lp.faults)
    (on : s.jc.state ≠ .isolated) :
    exec .contentionFault s = finish ((s.abortFrame x).enterIsolated.benchReport .numberClash none 1) := by
  have faults : (s.abortFrame x).lp.faults = s.lp.faults + 1 := rfl
  rw [execContentionFault_of hx]
  refine if_pos ?_
  have clash : Config.maxFaults ≤ s.lp.faults + 1 := Nat.succ_le_succ third
  have joined : (s.abortFrame x).isolated = false := decide_eq_false on
  simp [faults, clash, joined]

theorem execRoll_clash {s u : State} {h : Handed} {fresh : Bool} {n : Byte} (hh : s.handOver .roll = some (h, u))
    (hb : Frame.ofBody h.kind h.body = some (.roll fresh n)) (other : h.own = false) (clash : h.sender = s.jc.station)
    (on : s.jc.state ≠ .isolated) : exec .roll s = finish (u.enterIsolated.benchReport .numberClash none 2) := by
  obtain ⟨-, station, state, -⟩ := handed_cu hh
  rw [execRoll_handed hh hb other, State.takeRoll, if_pos (clash.trans station.symm),
    if_neg (by simp [State.isolated, state, on])]

/-! ### NOTICE_DROPPED of a skeleton (R124, R131) -/

theorem mem_claim {s u : State} (room : HasRoom s) {h : Handed} {o : OrderId} (hh : s.handOver .claim = some (h, u))
    (hb : Frame.ofBody h.kind h.body = some (.claim o)) (other : h.sender ≠ s.jc.station) (unknown : s.notice? o = none)
    (full : 32 ≤ s.cu.notices.length) (kept : ∀ n ∈ s.cu.notices, n.isOthers = false ∧ n.state ≠ .stranded
      ∧ ¬ (n.state = .opened ∧ n.info = none)) :
    ∃ t, exec .claim s = .next t ∧ .report 38 none none 8 ∈ t.pl.buffer := by
  have cu := (handed_cu hh).1
  have noRoom : u.makeRoom = none := by
    rw [State.makeRoom, cu, if_neg (show ¬ s.cu.notices.length < Config.maxNotices from not_lt.2 full), evicted_eq_none kept]
  have dropped : u.claimByOther o h.sender = u.benchReport .noticeDropped none 8 := by
    rw [State.claimByOther, (notice?_handed hh o).trans unknown]
    dsimp only
    rw [State.makeSkeleton, noRoom]
  have run := execClaim_handed hh hb
  rw [fromSelf_eq hh, if_neg (by simpa using other), dropped] at run
  exact ⟨_, run, (servedState_steady _).panel.reports _ _ _ _
    (mem_benchReport (room.of_pl (pl_handed hh)) .noticeDropped none 8)⟩

/-! ### The causes of a put that ends (R79, R80, R115) -/

/-- Expiries held back are told one after another. -/
theorem foldl_raiseChill_told {s : State} {p : Pos} {us : List UnitNo} {n : UnitNo} (hn : n ∈ us) {x : Placed}
    (hx : (s.build p).content.find? (fun y => decide (y.unit.number = n)) = some x) :
    (us.foldl (State.raiseChill p) s).Told 2 (some p) (some n) (x.unit.exposure.getD 0) := by
  obtain ⟨before, after, rfl⟩ := List.append_of_mem hn
  have content : ((before.foldl (State.raiseChill p) s).build p).content = (s.build p).content :=
    foldl_raiseChill_only p before (.build .content p) id
  rw [List.foldl_append, List.foldl_cons]
  exact told_of_steady (raiseChill_told (content ▸ hx)) ((Steady.refl _).foldl _ (fun _ u k => k.raiseChill p u) after)

section
variable {s : State} {p : Pos} {r : PutRec} {i : Nat} {u : UnitRec} {st : ShelfState}
  (hr : s.put p = some r) (hi : s.su.slotOf r.unit = some i) (hs : s.su.slot i = .occupied u st) (delta : Int)
include hr hi hs

theorem confirmPut_told_cause {c : Raised}
    (hc : c ∈ valuationCauses s.jc.setup.holdMask u.number (valueUnit s.jc.setup.mode u.label delta)) :
    (s.confirmPut p delta).Told c.cause.code (some p) c.unit c.value := by
  rw [confirmPut_eq hr hi hs]
  refine told_of_steady ?_ (Steady.afterPut ((Steady.refl _).foldl _ (fun _ u k => k.raiseChill p u) r.expiries) p)
  refine told_of_steady (raiseAt_told (s := placedState s p r i u delta) hc .putting
    ((placedState s p r i u delta).build p).restIndex) ?_
  exact ((Steady.refl _).setPut p none).showTray p

theorem confirmPut_told_expiry {n : UnitNo} (hn : n ∈ r.expiries) {x : Placed}
    (hx : (s.build p).content.find? (fun y => decide (y.unit.number = n)) = some x) :
    (s.confirmPut p delta).Told 2 (some p) (some n) (x.unit.exposure.getD 0) := by
  have content : ((judgedState s p r i u delta).build p).content = _ :=
    Eq.trans (judgedState_only s p r i u delta (.build .content p) fun h => h.elim id nofun)
      (placedState_build s p r i u delta).1
  have found : ((judgedState s p r i u delta).build p).content.find? (fun y => decide (y.unit.number = n)) = some x := by
    rw [content, List.find?_append, hx]
    rfl
  rw [confirmPut_eq hr hi hs]
  exact told_of_steady (foldl_raiseChill_told hn found) ((Steady.refl _).afterPut p)

end

theorem rejectedState_content (s : State) (p : Pos) (r : PutRec) :
    ((rejectedState s p r).build p).content = (s.build p).content := by
  have content : ((rejectedState s p r).build p).content = ((s.exclude p r.unit).build p).content :=
    rejectedState_rest s p r (.build .content p) fun h => h.2 rfl
  rw [content, exclude_state]

theorem rejectPut_told_expiry {s : State} {p : Pos} {r : PutRec} {n : UnitNo} (hn : n ∈ r.expiries) (other : n ≠ r.unit)
    {x : Placed} (hx : (s.build p).content.find? (fun y => decide (y.unit.number = n)) = some x) :
    (s.rejectPut p r).Told 2 (some p) (some n) (x.unit.exposure.getD 0) := by
  rw [rejectPut_eq]
  exact foldl_raiseChill_told (List.mem_filter.2 ⟨hn, by simpa using other⟩) (rejectedState_content s p r ▸ hx)

theorem taken_told {s u : State} {h : Handed} {n : Seq} {q : Byte} {o : Outbound}
    (hh : s.handOver .taken = some (h, u)) (hb : Frame.ofBody h.kind h.body = some (.taken s.jc.station n q))
    (other : h.own = false) (joined : s.jc.state ≠ .joining)
    (ho : s.xu.outbound.find? (fun x => decide (x.seq = n) && decide (x.dest = h.sender)) = some o)
    (short : q.toNat < o.units.length) :
    ∃ t, exec .taken s = .next t ∧ t.Told 34 none none (o.units.length - q.toNat) := by
  obtain ⟨-, station, state, -, -, -, -, xu, -⟩ := handed_cu hh
  have run := execTaken_handed hh hb
  rw [if_pos (by simp [State.exchangeTakes, other, state, joined, station])] at run
  have ends : u.takeTaken h.sender n q.toNat
      = (u.endOutbound n).benchReport .writeOff none (o.units.length - q.toNat) := by
    rw [State.takeTaken, xu, ho]
    exact if_pos short
  rw [ends] at run
  exact finish_told (benchReport_told _ .writeOff none _) run

end Sys2Proof.Proofs
end


section
/-! The panel link's own commands (R210 to R212), and its records and reports together. -/

namespace Sys2Proof.Proofs

open Sys2Proof.Machine

/-! ### The record sent (R211, R212) -/

theorem fillOne_of_nothing_owed {s : State} (free : s.pl.anyOwed = false) : s.fillOne = s := by
  have owes (h : (∃ p, (s.pl.positions.get p).owed = true) ∨ s.pl.lamps.any (·.owed) = true) : False :=
    Bool.false_ne_true (free.symm.trans ((Panel.anyOwed_iff s.pl).2 h))
  have positions : Pos.all.find? (fun p => (s.pl.positions.get p).owed) = none :=
    List.find?_eq_none.2 fun p _ h => owes (.inl ⟨p, h⟩)
  have lamps : s.pl.lamps.findIdx? (·.owed) = none :=
    List.findIdx?_eq_none_iff.2 fun c hc => Bool.eq_false_iff.2 fun h => owes (.inr (List.any_eq_true.2 ⟨c, hc, h⟩))
  rw [State.fillOne, positions]
  dsimp only
  rw [lamps]

theorem fillOwed_of_nothing_owed {s : State} (free : s.pl.anyOwed = false) (n : Nat) : State.fillOwed n s = s := by
  induction n with
  | zero => rfl
  | succ n ih =>
    rw [State.fillOwed, fillOne_of_nothing_owed free, ih]
    split <;> rfl

theorem fillOwed_of_full {s : State} (full : 16 ≤ s.pl.buffer.length) (n : Nat) : State.fillOwed n s = s := by
  cases n with
  | zero => rfl
  | succ n => exact if_neg (not_lt.2 full)

theorem fillOne_position {s : State} {p : Pos} (hp : Pos.all.find? (fun q => (s.pl.positions.get q).owed) = some p) :
    s.fillOne = s.setPl { s.pl with
      buffer := s.pl.buffer ++ [.position p (s.posShow p) s.pl.reportsLost]
      positions := s.pl.positions.set p ⟨s.posShow p, false⟩
      reportsLost := false } := by
  rw [State.fillOne, hp]

/-- The state in which the head of the buffer has gone. -/
def headSent (s : State) : State := s.setPl { s.pl with buffer := s.pl.buffer.drop 1 }

theorem recordSent_eq (s : State) : s.recordSent = State.fillOwed 16 (headSent s) := rfl

theorem recordSent_setPl (s : State) : s.recordSent.setPl s.pl = s := by
  obtain ⟨v, hv⟩ := fillOwed_only_pl 16 (headSent s)
  rw [recordSent_eq, hv]
  rfl

theorem recordSent_pl_of_nothing_owed {s : State} (free : s.pl.anyOwed = false) :
    s.recordSent.pl = { s.pl with buffer := s.pl.buffer.drop 1 } := by
  rw [recordSent_eq, fillOwed_of_nothing_owed (s := headSent s) free]
  rfl

/-- The one place that a full buffer has then goes to the first owed POSITION record (log 48). -/
theorem recordSent_pl_of_full {s : State} {p : Pos} (full : s.pl.buffer.length = 16)
    (hp : Pos.all.find? (fun q => (s.pl.positions.get q).owed) = some p) :
    s.recordSent.pl = { s.pl with
      buffer := s.pl.buffer.drop 1 ++ [.position p (s.posShow p) s.pl.reportsLost]
      positions := s.pl.positions.set p ⟨s.posShow p, false⟩
      reportsLost := false } := by
  have short : (headSent s).pl.buffer.length < Config.maxPanel := by
    show (s.pl.buffer.drop 1).length < 16
    rw [List.length_drop, full]
    decide
  have filled := fillOne_position (s := headSent s) hp
  have again : 16 ≤ (headSent s).fillOne.pl.buffer.length := by
    rw [filled]
    show 16 ≤ (s.pl.buffer.drop 1 ++ [_]).length
    rw [List.length_append, List.length_drop, full]
    exact le_refl 16
  rw [recordSent_eq, State.fillOwed, if_pos short, fillOwed_of_full again, filled]
  rfl

/-! ### Inbound bytes (R210) -/

theorem goOn_next (o : Host.Outcome State Fault Refusal) : goOn o Host.Outcome.next = o := by
  cases o <;> rfl

theorem takeBytes_append (xs ys : List Byte) (s : State) : takeBytes (xs ++ ys) s = goOn (takeBytes xs s) (takeBytes ys) := by
  induction xs generalizing s with
  | nil => rfl
  | cons b xs ih =>
    show goOn (takeByte b s) (takeBytes (xs ++ ys)) = goOn (goOn (takeByte b s) (takeBytes xs)) (takeBytes ys)
    cases takeByte b s with
    | next t => exact ih t
    | fault r => rfl
    | refused r => rfl

theorem takeBytes_behind {xs : List Byte} {s t : State} (h : takeBytes xs s = .next t) (ys : List Byte) :
    takeBytes (xs ++ ys) s = takeBytes ys t := by
  rw [takeBytes_append, h]
  rfl

theorem takeBytes_singleton (b : Byte) (s : State) : takeBytes [b] s = takeByte b s := goOn_next _

theorem takeByte_partly {s : State} {b : Byte} {now : List Byte} (h : panelFeed s.pl.inbound b = (now, none)) :
    takeByte b s = .next (s.setPl { s.pl with inbound := now }) := by
  rw [takeByte, h]

theorem takeByte_record {s : State} {b : Byte} {now : List Byte} {r : PanelIn}
    (h : panelFeed s.pl.inbound b = (now, some r)) :
    takeByte b s = takeRecord r (s.setPl { s.pl with inbound := now }) := by
  rw [takeByte, h]

/-- Bytes in which no record passes change the record partly read alone. -/
theorem takeBytes_partly {bytes rest : List Byte} {s : State} (h : panelRead s.pl.inbound bytes = ([], rest)) :
    takeBytes bytes s = .next (s.setPl { s.pl with inbound := rest }) := by
  induction bytes generalizing s with
  | nil =>
    obtain rfl : s.pl.inbound = rest := congrArg Prod.snd h
    rfl
  | cons b bytes ih =>
    obtain ⟨now, done, fed⟩ : ∃ now done, panelFeed s.pl.inbound b = (now, done) := ⟨_, _, rfl⟩
    rw [panelRead, fed] at h
    obtain ⟨recs, last⟩ := Prod.mk.inj h
    obtain ⟨none, recs⟩ := List.append_eq_nil_iff.1 recs
    cases done with
    | some r => cases none
    | none =>
      show goOn (takeByte b s) (takeBytes bytes) = _
      rw [takeByte_partly fed]
      exact ih (s := s.setPl { s.pl with inbound := now }) (Prod.ext recs last)

theorem panelLength_unknown {kind len : Byte} (h : (kind.toNat, len.toNat) ∉ [(1, 11), (2, 2), (3, 1), (4, 0)]) :
    panelLength kind ≠ some len.toNat := by
  intro known
  unfold panelLength at known
  split at known
  case isTrue e => exact h (by simp [e, ← Option.some.inj known])
  case isFalse =>
    split at known
    case isTrue e => exact h (by simp [e, ← Option.some.inj known])
    case isFalse =>
      split at known
      case isTrue e => exact h (by simp [e, ← Option.some.inj known])
      case isFalse =>
        split at known
        case isTrue e => exact h (by simp [e, ← Option.some.inj known])
        case isFalse => cases known

section
variable {s : State} (waits : s.pl.inbound = [])
include waits

theorem setInbound_nil : s.setPl { s.pl with inbound := [] } = s := by
  rw [← waits]
  rfl

/-- A record of an unknown kind or a wrong length leaves the reading where it was. -/
theorem takeBytes_discarded {kind len : Byte} (h : (kind.toNat, len.toNat) ∉ [(1, 11), (2, 2), (3, 1), (4, 0)])
    (behind : List Byte) : takeBytes ([126#8, kind, len] ++ behind) s = takeBytes behind s := by
  have judged : panelFeed [126#8, kind] len = ([], none) := if_pos (panelLength_unknown h)
  have read : panelRead s.pl.inbound [126#8, kind, len] = ([], []) := by
    rw [waits]
    show ((panelFeed [126#8, kind] len).2.toList ++ [], (panelFeed [126#8, kind] len).1) = _
    rw [judged]
    rfl
  rw [takeBytes_behind (takeBytes_partly read), setInbound_nil waits]

theorem takeBytes_reset : takeBytes [126#8, 4#8, 0#8] s = execBenchReset s := by
  have begun : panelRead s.pl.inbound [126#8, 4#8] = ([], [126#8, 4#8]) := by
    rw [waits]
    decide
  have last : panelFeed (s.setPl { s.pl with inbound := [126#8, 4#8] }).pl.inbound 0#8 = ([], some .reset) := by
    show panelFeed [126#8, 4#8] 0#8 = _
    decide
  rw [show [126#8, 4#8, 0#8] = [126#8, 4#8] ++ [0#8] from rfl,
    takeBytes_behind (takeBytes_partly begun), takeBytes_singleton, takeByte_record last]
  exact congrArg execBenchReset (setInbound_nil waits)

theorem takeBytes_stop : takeBytes [126#8, 3#8, 1#8, 1#8] s = execStopAsserted s := by
  have begun : panelRead s.pl.inbound [126#8, 3#8, 1#8] = ([], [126#8, 3#8, 1#8]) := by
    rw [waits]
    decide
  have last : panelFeed (s.setPl { s.pl with inbound := [126#8, 3#8, 1#8] }).pl.inbound 1#8 = ([], some (.stop true)) := by
    show panelFeed [126#8, 3#8, 1#8] 1#8 = _
    decide
  rw [show [126#8, 3#8, 1#8, 1#8] = [126#8, 3#8, 1#8] ++ [1#8] from rfl,
    takeBytes_behind (takeBytes_partly begun), takeBytes_singleton, takeByte_record last]
  exact congrArg execStopAsserted (setInbound_nil waits)

end

/-! ### NUMBER_CLASH where no build is CLAIMING -/

section
variable {s : State} (room : HasRoom s) (idle : ∀ p, (s.build p).state ≠ .claiming) (on : s.jc.state ≠ .isolated)
include room idle on

theorem mem_contentionFault {x : Started} (hx : s.lp.started = some x) (third : 2 ≤ s.lp.faults) :
    ∃ t, exec .contentionFault s = .next t ∧ .report 36 none none 1 ∈ t.pl.buffer := by
  have same : (s.abortFrame x).enterIsolated.pl = s.pl := enterIsolated_pl (s := s.abortFrame x) idle
  exact finish_mem (mem_benchReport (room.of_pl same) .numberClash none 1) (execContentionFault_third hx third on)

theorem mem_roll {h : Handed} {fresh : Bool} {n : Byte} {u : State} (hh : s.handOver .roll = some (h, u))
    (hb : Frame.ofBody h.kind h.body = some (.roll fresh n)) (other : h.own = false) (clash : h.sender = s.jc.station) :
    ∃ t, exec .roll s = .next t ∧ .report 36 none none 2 ∈ t.pl.buffer := by
  have same : u.enterIsolated.pl = s.pl := by
    refine (enterIsolated_pl fun p => ?_).trans (pl_handed hh)
    rw [(handed_facts hh p).1]
    exact idle p
  exact finish_mem (mem_benchReport (room.of_pl same) .numberClash none 2) (execRoll_clash hh hb other clash on)

end

/-! ### The statement's three parts -/

/-- The panel link's own commands. -/
theorem panelCommands (s : State) :
    (∃ t, exec .outboundRecordSent s = .next t
      ∧ t.setPl s.pl = s
      ∧ (s.pl.anyOwed = false → t.pl = { s.pl with buffer := s.pl.buffer.drop 1 })
      ∧ (∀ p, s.pl.buffer.length = 16 → Pos.all.find? (fun q => (s.pl.positions.get q).owed) = some p →
        t.pl = { s.pl with
          buffer := s.pl.buffer.drop 1 ++ [.position p (s.posShow p) s.pl.reportsLost]
          positions := s.pl.positions.set p ⟨s.posShow p, false⟩
          reportsLost := false }))
    ∧ exec .panelRecordTimeout s = .next (s.setPl { s.pl with inbound := [] })
    ∧ (∀ bytes rest, panelRead s.pl.inbound bytes = ([], rest) →
        exec (.panelRecordDiscarded bytes) s = .next (s.setPl { s.pl with inbound := rest }))
    ∧ (s.pl.inbound = [] → ∀ kind len : Byte,
        (kind.toNat, len.toNat) ∉ [(1, 11), (2, 2), (3, 1), (4, 0)] →
        exec (.panelRecordDiscarded [126#8, kind, len]) s = .next s
        ∧ exec (.panelRecordDiscarded [126#8, kind, len, 126#8, 4#8, 0#8]) s = exec .benchReset s
        ∧ exec (.panelRecordDiscarded [126#8, kind, len, 126#8, 3#8, 1#8, 1#8]) s = exec .stopAsserted s) :=
  ⟨⟨_, rfl, recordSent_setPl s, recordSent_pl_of_nothing_owed, fun _ => recordSent_pl_of_full⟩, rfl,
    fun _ _ => takeBytes_partly, fun waits _ _ h => ⟨takeBytes_discarded waits h [],
      (takeBytes_discarded waits h _).trans (takeBytes_reset waits),
      (takeBytes_discarded waits h _).trans (takeBytes_stop waits)⟩⟩

/-- Settles O60: a report that finds room is the first record its event sends, and every operation behind it keeps
the reports of the buffer, and what is owed (`Steady`). -/
theorem panelLinkRecords : Obligations.PanelLinkRecords := by
  refine ⟨panelCommands, fun s short free => ?inBuffer, fun s => ?told⟩
  case inBuffer =>
    have room : HasRoom s := ⟨short, free⟩
    refine ⟨fun code p u v => congrArg Panel.buffer (report_pl code p u v room), fun p r hr kind => ?put,
      fun p r hr kind => ?unload, fun n p x off hp pending state saved hx => ?chill,
      fun h o k n p u hh hb other hn mine unsealed state saved kept => ?prior,
      fun h o n p u fl tot w hh hb other hn mine unsealed => mem_done room hn mine unsealed hh hb other,
      fun p u w => ⟨mem_planFull room (.place u), mem_planFull room (.weight w)⟩,
      fun p => mem_gatherLimitExpiry room, fun empty => ?together, fun raw => ?scans, fun p => mem_refuseKey room,
      fun k n e => mem_transferLimit room, fun h k n c es u hh hb other hk joined units few => ?grant,
      fun n o bounded true_ ho late noBlue => ?writeOff, fun bytes h => mem_frameReceive room,
      fun idle on => ⟨fun x => mem_contentionFault room idle on, fun h fresh n u => mem_roll room idle on⟩, fun h o u => mem_claim room⟩
    case put =>
      exact ⟨fun q i c => mem_judgeResult room (.inl kind), fun delta => mem_judge_removed room kind,
        fun delta => mem_judge_mismatch room kind, fun going held settled faulted =>
          mem_putTimeout room hr kind going held settled faulted⟩
    case unload =>
      exact ⟨fun q i c => mem_judgeResult room (.inr kind), fun delta => mem_judge_unload room kind⟩
    case chill => exact mem_chillExpiry hx room off hp (countsUnloading_eq_false state saved) pending
    case prior => exact mem_prior room hn mine unsealed hh hb other (countsUnloading_eq_false state saved) kept
    case together =>
      exact ⟨fun p i resumed T S X Y w hi hX hY hw hT hS => check_prefix empty free p resumed hi hX hY hw hT hS,
        fun p u v index mask => valuation_prefix empty free p u v index mask⟩
    case scans =>
      refine ⟨fun field hf => ⟨?_, ?_⟩, fun l hl => ⟨fun full => ?_, fun no_unit => ?_⟩⟩
      · exact finish_mem (x := s.refuseIntake .badLabel field) (mem_benchReport room .badLabel none field)
          (execIntakeScan_badLabel hf s)
      · exact finish_mem (x := s.refuseChute .badLabel field) (mem_benchReport room .badLabel none field)
          (execChuteScan_badLabel hf s)
      · exact finish_mem (x := s.refuseIntake .tableFull l.code.word) (mem_benchReport room .tableFull none l.code.word)
          (execIntakeScan_tableFull hl full)
      · exact finish_mem (x := s.refuseChute .refused l.code.word) (mem_benchReport room .refused none l.code.word)
          (execChuteScan_refused hl no_unit)
    case grant =>
      subst hk
      exact mem_grant room other joined hh hb units few
    case writeOff =>
      exact finish_mem (mem_benchReport (room.of_pl (endOutbound_pl bounded true_ noBlue)) .writeOff none o.units.length)
        (execWriteOff_late ho late)
  case told =>
    refine ⟨fun p r i u st d v t hr hi hs hv ht => ?_, fun p r _ n hn other x => rejectPut_told_expiry hn other,
      fun n o ho late => finish_told (benchReport_told _ .writeOff none o.units.length) (execWriteOff_late ho late),
      fun h k n q o u hh hb other hk joined ho short => ?_, fun on => ⟨fun x hx third => ?_,
      fun h fresh n u hh hb other clash => ?_⟩⟩
    · subst hv ht
      have caused (c : Raised) := confirmPut_told_cause (c := c) hr hi hs d
      rw [valuationCauses_eq] at caused
      refine ⟨fun h => caused (.plain .invalid (some u.number) _) ?_, fun h => caused (.plain .clamped (some u.number) _) ?_,
        fun h => caused (.plain .inexact (some u.number) _) ?_, fun n hn x => confirmPut_told_expiry hr hi hs d hn⟩
      all_goals simp [causeIf, h]
    · subst hk
      exact taken_told hh hb other joined ho short
    · exact finish_told (benchReport_told _ .numberClash none 1) (execContentionFault_third hx third on)
    · exact finish_told (benchReport_told _ .numberClash none 2) (execRoll_clash hh hb other clash on)

end Sys2Proof.Proofs
end
